-- ==== Sys2Proof/Word.lean ====
section
/-! DEFINITION. Words, bytes, bit fields and the one sparse map every part of the state is held in. -/

namespace Sys2Proof

/-- A 64-bit word: a register, a handle, an address. -/
abbrev Word := BitVec 64
/-- A byte of memory. -/
abbrev Byte := BitVec 8

/-- Field [hi:lo] of a number (R5, "a bit field is written [msb:lsb]"). -/
def bits (n hi lo : Nat) : Nat := (n >>> lo) % 2 ^ (hi + 1 - lo)

/-- Bit `i` of a number. -/
def bitAt (n i : Nat) : Bool := (n >>> i) % 2 == 1

/-- `n` with field [hi:lo] replaced by the low bits of `v`. -/
def setBits (n hi lo v : Nat) : Nat :=
  let w := 2 ^ (hi + 1 - lo)
  (n >>> (hi + 1)) * 2 ^ (hi + 1) + (v % w) * 2 ^ lo + n % 2 ^ lo

/-- A Boolean as a bit. -/
def b2n (b : Bool) : Nat := if b then 1 else 0

/-- Addition that saturates at `2^w - 1`. -/
def satAdd (w a b : Nat) : Nat := min (a + b) (2 ^ w - 1)

/-- The bits of the wide number `n` as a list of `k` bytes, least significant first (R5). -/
def leBytes (n : Nat) : Nat → List Byte
  | 0 => []
  | k + 1 => BitVec.ofNat 8 n :: leBytes (n / 256) k

/-- The number a little-endian byte list holds (R5). -/
def leNat : List Byte → Nat
  | [] => 0
  | b :: bs => b.toNat + 256 * leNat bs

/-- The number an octet string holds, first octet most significant (the standards' order in R5). -/
def beNat (bs : List Byte) : Nat := leNat bs.reverse

/-- The octet string of `k` bytes for a number, most significant first. -/
def beBytes (n k : Nat) : List Byte := (leBytes n k).reverse

/-- The number of set bits among the low `k`. -/
def popCount (n : Nat) : Nat → Nat
  | 0 => 0
  | k + 1 => n % 2 + popCount (n / 2) k

/-- Two's complement value of the low `w` bits. -/
def toSigned (w n : Nat) : Int :=
  let m := n % 2 ^ w
  if 2 * m < 2 ^ w then (m : Int) else (m : Int) - (2 ^ w : Nat)

/-- The low `w` bits of an integer, as a natural number. -/
def ofInt (w : Nat) (i : Int) : Nat := (i % ((2 ^ w : Nat) : Int)).toNat

/-- Sign extension of a `w`-bit field into 64 bits. -/
def sext64 (w n : Nat) : Word := BitVec.ofInt 64 (toSigned w n)

/-- The indexes below `k` at which a mask has a set bit, ascending. -/
def maskList (m k : Nat) : List Nat := (List.range k).filter (bitAt m ·)

/-- The mask with the bits of a list set. -/
def listMask (l : List Nat) : Nat := l.foldl (fun a i => if bitAt a i then a else a + 2 ^ i) 0

/-! ### Sparse maps: key and value pairs, keys strictly rising -/

/-- A finite map with natural keys, kept sorted, holding no entry equal to its default. -/
abbrev NMap (α : Type) := List (Nat × α)

/-- The entry at a key. -/
def NMap.find? {α : Type} : NMap α → Nat → Option α
  | [], _ => none
  | (j, v) :: m, k => if j = k then some v else NMap.find? m k

/-- The value at a key, or the default. -/
def NMap.getD {α : Type} (m : NMap α) (k : Nat) (d : α) : α := (NMap.find? m k).getD d

/-- Entry `k` set to `v`, in its sorted place. -/
def NMap.insert {α : Type} : NMap α → Nat → α → NMap α
  | [], k, v => [(k, v)]
  | (j, w) :: m, k, v =>
    if k < j then (k, v) :: (j, w) :: m
    else if k = j then (k, v) :: m
    else (j, w) :: NMap.insert m k v

/-- Entry `k` removed. -/
def NMap.erase {α : Type} : NMap α → Nat → NMap α
  | [], _ => []
  | (j, w) :: m, k => if j = k then NMap.erase m k else (j, w) :: NMap.erase m k

/-- Entry `k` set to `v`; setting the default removes the entry, so equal maps are equal data. -/
def NMap.put {α : Type} [DecidableEq α] (m : NMap α) (k : Nat) (v d : α) : NMap α :=
  if v = d then NMap.erase m k else NMap.insert m k v

/-- The keys of a map. -/
def NMap.keys {α : Type} (m : NMap α) : List Nat := m.map (·.1)

/-- The keys are strictly rising and no entry holds the default. -/
def NMap.wf {α : Type} [DecidableEq α] (d : α) : NMap α → Bool
  | [] => true
  | [(_, v)] => decide (v ≠ d)
  | (j, v) :: (k, w) :: m => decide (v ≠ d) && decide (j < k) && NMap.wf d ((k, w) :: m)

/-! ### List helpers -/

/-- The first list element a test accepts, with its position. -/
def findWithIdx {α : Type} (p : α → Bool) (l : List α) : Option (Nat × α) :=
  (l.zipIdx.find? (fun x => p x.1)).map (fun x => (x.2, x.1))

/-- The list with position `i` replaced. -/
def setAt {α : Type} (l : List α) (i : Nat) (v : α) : List α := l.set i v

/-- The smallest element by a measure, the earlier one on a tie. -/
def minBy {α : Type} (f : α → Nat) : List α → Option α
  | [] => none
  | a :: as => match minBy f as with
    | none => some a
    | some b => if f b < f a then some b else some a

/-- A sorted insertion without repeats. -/
def insSorted (k : Nat) : List Nat → List Nat
  | [] => [k]
  | j :: l => if k < j then k :: j :: l else if k = j then j :: l else j :: insSorted k l

/-! ### Names of things that a command speaks of -/

/-- A milestone wait: a convoy's, by core and convoy slot, or wait 0 or 1 of a command, by context, queue and sequence
number. -/
inductive WaitRef where
  | convoy (k n : Nat)
  | command (asid q seq i : Nat)
deriving DecidableEq, Repr

/-- What a watchdog may find hung: a wait, or barrier `b` of workgroup slot `w` of core `k` (R378). -/
inductive HangRef where
  | wait (r : WaitRef)
  | barrier (k w b : Nat)
deriving DecidableEq, Repr

/-- What self-test and training found (R63): bad cores (cluster × 8 + slot, held ones too) and bad array columns by core;
bad lanes of each vault, and vaults with a line that failed read-back; bad Qorriop positions; whether an SRAM row is beyond
repair; bad Causeway row ports; the number of bad lanes of a link; and whether an LPDDR-5X interface failed. -/
structure SelfTest where
  badCores : List Nat
  badColumns : List (Nat × List Nat)
  badLanes : List (Nat × List Nat)
  badLines : List Nat
  badHarts : List Nat
  sramBeyond : Bool
  badPorts : List Nat
  badLinks : List (Nat × Nat)
deriving DecidableEq, Repr

/-- What LPDDR-5X training finds at an interface: failed, or the capacity of a channel as a power of two above 4 GiB, its
ranks, and the rate in MT/s it trained at (R298). -/
structure LpdFound where
  ok : Bool
  shift : Nat
  ranks : Nat
  rate : Nat
deriving DecidableEq, Repr

end Sys2Proof
end

