-- ==== Sys2Proof/Syntax.lean ====
section
/-! DEFINITION. The commands of the block: one constructor per row of spec/opcode_table.json, with its operands. In the
rows that are Epior instructions `k` is the core (cluster × 8 + core slot), `n` the convoy slot, and `w` bits [55:0] of
the instruction word, whose opcode the constructor stands for (R108). In the others the operands are what the event
brings with it: the unit concerned, the datum written, or the finding of a measurement. -/

namespace Sys2Proof

/-- A command: a register write, an instruction issued by a convoy, a message received, a pin's event, or an event of the
device's own engines. -/
inductive Instr where
  /-- R62: Release of RESET_N, once PG_IN has been high for 1 ms, starts the start-up sequence: the wardens leave
  reset, run their ROM checks and begin the firmware fetch. -/
  | resetNRelease (hot : Bool)
  /-- R589: Assertion of RESET_N puts trained LPDDR-5X channels into self-refresh and lowers CORE_EN within 100 µs,
  and releases a latched THERMTRIP_N. -/
  | resetNAssert
  /-- R589: A fall of PG_IN while RESET_N is high lowers CORE_EN within 10 µs and is a fatal error with cause 0x22.
  -/
  | pgInFall
  /-- R591: Loss of the reference clock stops every clock derived from it, so both wardens' heartbeats stop. -/
  | refclkLoss
  /-- R583: PERST_W_N or PERST_E_N low holds that port's PHY and configuration space in reset. -/
  | perstAssert (p : Nat)
  /-- R62: Completion of the firmware fetch: the firmware is verified and started, the root PLLs lock, the dies
  leave reset and the timestamps start. -/
  | firmwareVerified (okA okB okStaged : Bool)
  /-- R63: Self-test and training finish, and their findings are repaired silently or send the device to the hard
  shoulder. -/
  | selfTestComplete (f : SelfTest)
  /-- R51: The fetched route-book copies are checked, one copy is selected and the book is sealed, or the device
  enters the hard shoulder. -/
  | bookLoaded
  /-- R62: LPDDR-5X training ends: the mailbox reports running, partitions are enabled, BAR2 and BAR4 open and the
  self-hosted Qorriop boot runs. -/
  | lpddrTrainingComplete (ms : List LpdFound)
  /-- R67: Mailbox command that fills the data window with the state, cause, self-test map and digest. -/
  | status (tag : BitVec 8)
  /-- R67: Mailbox command that copies 256 bytes of the warden event log, or of the repair record when offset bit 31
  is set. -/
  | readLog (tag : BitVec 8)
  /-- R68: Mailbox command that writes up to 256 bytes to flash, erasing or merging sectors, and then verifies them.
  -/
  | writeFlash (tag : BitVec 8)
  /-- R67: Mailbox command that appends the data window to a book held in warden RAM for the next RESTART. -/
  | stageBook (tag : BitVec 8)
  /-- R67: Mailbox command that appends the data window to firmware held in warden RAM for the next RESTART. -/
  | loadWardenFw (tag : BitVec 8)
  /-- R67: Mailbox command that runs the start-up sequence again from the 0 ms row, keeping the host-port links
  trained. -/
  | restart (tag : BitVec 8)
  /-- R67: Mailbox command that clears the held hard-shoulder cause. -/
  | clearCause (tag : BitVec 8)
  /-- R67: Mailbox command that drains all partitions and then enters the hard shoulder. -/
  | enterShoulder (tag : BitVec 8)
  /-- R67: Mailbox command that fuses the key hash of slot 1 to 3, in the hard shoulder only. -/
  | fuseKey (tag : BitVec 8)
  /-- R67: Mailbox command that blows the revocation fuse of a key slot. -/
  | revokeKey (tag : BitVec 8)
  /-- R584: An SMBus/I3C write transfer writes the mailbox capability bytes at an offset, and issues a register when
  its highest byte is written. -/
  | smbusWrite (off : Nat) (bs : List (BitVec 8))
  /-- R584: An SMBus/I3C read transfer returns mailbox capability bytes from the offset written before it. -/
  | smbusRead (n : Nat)
  /-- R585: A UART write request, checked by CRC-16, writes mailbox bytes and is answered with a status. -/
  | uartWrite (off : Nat) (bs : List (BitVec 8)) (crc : BitVec 16)
  /-- R585: A UART read request returns mailbox bytes with a status and a CRC-16. -/
  | uartRead (off n : Nat) (crc : BitVec 16)
  /-- R585: A gap of more than 10 ms between the bytes of a UART request discards the request without a response. -/
  | uartTimeout
  /-- R56: A write of RLB_AMEND_CTRL.go verifies the amendment image and starts the drain of its target partition,
  or is refused while busy. -/
  | amendmentSubmit
  /-- R56: The drain finishes: the wardens apply the amendment and queued repairs, extend the digest and CRC, and
  release the partition. -/
  | amendmentDrainComplete (lanes : List (Nat × List Nat))
  /-- R57: The drain exceeds amend_drain_limit: the amendment is abandoned and the partition is released unchanged.
  -/
  | amendmentDrainTimeout
  /-- R7: A write to a register field with no row of its own stores per its access code, and a write to a sealed RWL
  field is counted and recorded instead. -/
  | registerWrite (src space off n : Nat) (v : Word) (wfi : Bool) (lanes : List (Nat × List Nat))
  /-- R115: Integer add in each lane of the effective set. -/
  | iadd (k n : Nat) (w : BitVec 56)
  /-- R115: Integer subtract in each lane of the effective set. -/
  | isub (k n : Nat) (w : BitVec 56)
  /-- R115: Low 32 bits of an integer product. -/
  | imul (k n : Nat) (w : BitVec 56)
  /-- R115: High 32 bits of the 64-bit integer product. -/
  | imulhi (k n : Nat) (w : BitVec 56)
  /-- R115: Integer multiply-add, keeping the low 32 bits. -/
  | imad (k n : Nat) (w : BitVec 56)
  /-- R115: Integer minimum, signed or unsigned by type. -/
  | imin (k n : Nat) (w : BitVec 56)
  /-- R115: Integer maximum, signed or unsigned by type. -/
  | imax (k n : Nat) (w : BitVec 56)
  /-- R115: Integer absolute value. -/
  | iabs (k n : Nat) (w : BitVec 56)
  /-- R115: Bitwise AND. -/
  | and (k n : Nat) (w : BitVec 56)
  /-- R115: Bitwise OR. -/
  | or (k n : Nat) (w : BitVec 56)
  /-- R115: Bitwise XOR. -/
  | xor (k n : Nat) (w : BitVec 56)
  /-- R115: Bitwise NOT. -/
  | not (k n : Nat) (w : BitVec 56)
  /-- R115: Shift left. -/
  | shl (k n : Nat) (w : BitVec 56)
  /-- R115: Logical shift right. -/
  | shr (k n : Nat) (w : BitVec 56)
  /-- R115: Arithmetic shift right. -/
  | sar (k n : Nat) (w : BitVec 56)
  /-- R115: Count of set bits. -/
  | popc (k n : Nat) (w : BitVec 56)
  /-- R115: Count of leading zeros. -/
  | clz (k n : Nat) (w : BitVec 56)
  /-- R115: Bit reversal. -/
  | brev (k n : Nat) (w : BitVec 56)
  /-- R115: Bit-field extract. -/
  | bfe (k n : Nat) (w : BitVec 56)
  /-- R115: Bit-field insert. -/
  | bfi (k n : Nat) (w : BitVec 56)
  /-- R115: Integer compare that writes a predicate. -/
  | isetp (k n : Nat) (w : BitVec 56)
  /-- R115: Select between two operands by a predicate. -/
  | sel (k n : Nat) (w : BitVec 56)
  /-- R115: Register move, or broadcast of a U register. -/
  | mov (k n : Nat) (w : BitVec 56)
  /-- R115: Move of an immediate. -/
  | movi (k n : Nat) (w : BitVec 56)
  /-- R115: Integer add of an immediate. -/
  | iaddi (k n : Nat) (w : BitVec 56)
  /-- R115: Integer multiply by an immediate. -/
  | imuli (k n : Nat) (w : BitVec 56)
  /-- R115: Bitwise AND with an immediate. -/
  | andi (k n : Nat) (w : BitVec 56)
  /-- R115: Bitwise OR with an immediate. -/
  | ori (k n : Nat) (w : BitVec 56)
  /-- R115: Bitwise XOR with an immediate. -/
  | xori (k n : Nat) (w : BitVec 56)
  /-- R115: Shift left by an immediate. -/
  | shli (k n : Nat) (w : BitVec 56)
  /-- R115: Shift right by an immediate, arithmetic for signed types. -/
  | shri (k n : Nat) (w : BitVec 56)
  /-- R117: Floating-point add. -/
  | fadd (k n : Nat) (w : BitVec 56)
  /-- R117: Floating-point multiply. -/
  | fmul (k n : Nat) (w : BitVec 56)
  /-- R117: Fused multiply-add with one rounding. -/
  | ffma (k n : Nat) (w : BitVec 56)
  /-- R117: IEEE minimumNumber. -/
  | fmin (k n : Nat) (w : BitVec 56)
  /-- R117: IEEE maximumNumber. -/
  | fmax (k n : Nat) (w : BitVec 56)
  /-- R117: Floating-point compare that writes a predicate. -/
  | fsetp (k n : Nat) (w : BitVec 56)
  /-- R117: IEEE class mask of the operand. -/
  | fclass (k n : Nat) (w : BitVec 56)
  /-- R117: Floating-point absolute value. -/
  | fabs (k n : Nat) (w : BitVec 56)
  /-- R117: Floating-point add of an immediate. -/
  | faddi (k n : Nat) (w : BitVec 56)
  /-- R117: Floating-point multiply by an immediate. -/
  | fmuli (k n : Nat) (w : BitVec 56)
  /-- R117: Round to an integral value in the same format. -/
  | frnd (k n : Nat) (w : BitVec 56)
  /-- R118: Correctly rounded reciprocal. -/
  | frcp (k n : Nat) (w : BitVec 56)
  /-- R118: Correctly rounded reciprocal square root. -/
  | frsq (k n : Nat) (w : BitVec 56)
  /-- R118: Square root rounded in the direction rnd. -/
  | fsqrt (k n : Nat) (w : BitVec 56)
  /-- R118: Correctly rounded power of two. -/
  | fex2 (k n : Nat) (w : BitVec 56)
  /-- R118: Correctly rounded base-2 logarithm. -/
  | flg2 (k n : Nat) (w : BitVec 56)
  /-- R118: Correctly rounded sine. -/
  | fsin (k n : Nat) (w : BitVec 56)
  /-- R118: Correctly rounded cosine. -/
  | fcos (k n : Nat) (w : BitVec 56)
  /-- R118: Integer division that writes the quotient and the remainder. -/
  | idivs (k n : Nat) (w : BitVec 56)
  /-- R119: Conversion between vector types. -/
  | cvt (k n : Nat) (w : BitVec 56)
  /-- R120: Conversion of FP32 to a narrow element code, stochastic rounding allowed. -/
  | cvtn (k n : Nat) (w : BitVec 56)
  /-- R121: Exact widening of a narrow element code to FP32. -/
  | cvtw (k n : Nat) (w : BitVec 56)
  /-- R122: Read of a register from another lane. -/
  | shfl (k n : Nat) (w : BitVec 56)
  /-- R122: Copy of one lane's V register into a U register. -/
  | v2u (k n : Nat) (w : BitVec 56)
  /-- R122: Predicate lookup-table operation. -/
  | plop (k n : Nat) (w : BitVec 56)
  /-- R122: OR of a predicate over the effective set. -/
  | voteAny (k n : Nat) (w : BitVec 56)
  /-- R122: AND of a predicate over the effective set. -/
  | voteAll (k n : Nat) (w : BitVec 56)
  /-- R122: Gathers lane predicates into a U register. -/
  | ballot (k n : Nat) (w : BitVec 56)
  /-- R107: Read of a special register into V registers. -/
  | srv (k n : Nat) (w : BitVec 56)
  /-- R107: Read of a special register into a U register. -/
  | sru (k n : Nat) (w : BitVec 56)
  /-- R124: Uniform add. -/
  | uadd (k n : Nat) (w : BitVec 56)
  /-- R124: Uniform subtract. -/
  | usub (k n : Nat) (w : BitVec 56)
  /-- R124: Uniform multiply. -/
  | umul (k n : Nat) (w : BitVec 56)
  /-- R124: Uniform AND. -/
  | uand (k n : Nat) (w : BitVec 56)
  /-- R124: Uniform OR. -/
  | uor (k n : Nat) (w : BitVec 56)
  /-- R124: Uniform XOR. -/
  | uxor (k n : Nat) (w : BitVec 56)
  /-- R124: Uniform shift left. -/
  | ushl (k n : Nat) (w : BitVec 56)
  /-- R124: Uniform logical shift right. -/
  | ushr (k n : Nat) (w : BitVec 56)
  /-- R124: Uniform arithmetic shift right. -/
  | usar (k n : Nat) (w : BitVec 56)
  /-- R124: Uniform load of a sign-extended immediate. -/
  | uli (k n : Nat) (w : BitVec 56)
  /-- R124: Uniform load of an immediate into the upper half. -/
  | ulih (k n : Nat) (w : BitVec 56)
  /-- R125: Instruction with no effect. -/
  | nop (k n : Nat) (w : BitVec 56)
  /-- R126: Uniform branch, which traps when divergent. -/
  | bra (k n : Nat) (w : BitVec 56)
  /-- R125: Indirect jump through a U register. -/
  | brx (k n : Nat) (w : BitVec 56)
  /-- R125: Call that writes the return address to a U register. -/
  | call (k n : Nat) (w : BitVec 56)
  /-- R125: Indirect call. -/
  | callx (k n : Nat) (w : BitVec 56)
  /-- R125: Return through a U register, ending the detouring state when ua is 63. -/
  | ret (k n : Nat) (w : BitVec 56)
  /-- R84: Divergent split that pushes the pending path. -/
  | jsplit (k n : Nat) (w : BitVec 56)
  /-- R84: Junction that ends the current path and takes the junction action. -/
  | jct (k n : Nat) (w : BitVec 56)
  /-- R84: Push of a REJOIN entry. -/
  | jpush (k n : Nat) (w : BitVec 56)
  /-- R84: Removes lanes from the active mask. -/
  | jbrk (k n : Nat) (w : BitVec 56)
  /-- R84: Lanes exit, and the convoy completes when no live lane is left. -/
  | exit (k n : Nat) (w : BitVec 56)
  /-- R86: Writes the mask stack to memory and empties it. -/
  | jspill (k n : Nat) (w : BitVec 56)
  /-- R86: Replaces the mask stack from memory. -/
  | jfill (k n : Nat) (w : BitVec 56)
  /-- R89: Parks the active lanes at a workgroup barrier. -/
  | bar (k n : Nat) (w : BitVec 56)
  /-- R96: Barrier with a CORE-scope release before parking and an acquire on resuming. -/
  | barF (k n : Nat) (w : BitVec 56)
  /-- R125: Raises software trap cause 0x40 + n. -/
  | trap (k n : Nat) (w : BitVec 56)
  /-- R98: Leaves the trap handler. -/
  | tret (k n : Nat) (w : BitVec 56)
  /-- R125: Raises a breakpoint trap. -/
  | bkpt (k n : Nat) (w : BitVec 56)
  /-- R145: Preemption point at which the convoy stops when a request is pending. -/
  | layby (k n : Nat) (w : BitVec 56)
  /-- R128: Load from GLOBAL, LOCAL or CLUSTER space. -/
  | ld (k n : Nat) (w : BitVec 56)
  /-- R128: Store to GLOBAL, LOCAL or CLUSTER space. -/
  | st (k n : Nat) (w : BitVec 56)
  /-- R128: Prefetch into the side buffer, never faulting. -/
  | prf (k n : Nat) (w : BitVec 56)
  /-- R132: Submits a descriptor to the cluster mover. -/
  | movd (k n : Nat) (w : BitVec 56)
  /-- R133: Atomic integer add, combined per address. -/
  | atomAdd (k n : Nat) (w : BitVec 56)
  /-- R133: Atomic minimum. -/
  | atomMin (k n : Nat) (w : BitVec 56)
  /-- R133: Atomic maximum. -/
  | atomMax (k n : Nat) (w : BitVec 56)
  /-- R133: Atomic AND. -/
  | atomAnd (k n : Nat) (w : BitVec 56)
  /-- R133: Atomic OR. -/
  | atomOr (k n : Nat) (w : BitVec 56)
  /-- R133: Atomic XOR. -/
  | atomXor (k n : Nat) (w : BitVec 56)
  /-- R133: Atomic exchange. -/
  | atomExch (k n : Nat) (w : BitVec 56)
  /-- R133: Atomic compare-and-swap, lanes in ascending order. -/
  | atomCas (k n : Nat) (w : BitVec 56)
  /-- R133: Atomic floating-point add. -/
  | atomFadd (k n : Nat) (w : BitVec 56)
  /-- R209: Exact add into an accumulation cell. -/
  | xadd (k n : Nat) (w : BitVec 56)
  /-- R211: Read of an exact cell, rounded once. -/
  | xrd (k n : Nat) (w : BitVec 56)
  /-- R213: Clears an exact cell to zero. -/
  | xclr (k n : Nat) (w : BitVec 56)
  /-- R136: Reserved load that sets a line reservation. -/
  | ldr (k n : Nat) (w : BitVec 56)
  /-- R136: Conditional store that succeeds on an intact reservation. -/
  | stc (k n : Nat) (w : BitVec 56)
  /-- R341: Memory fence of the given kind and scope, with the L1 acquire and release actions. -/
  | fence (k n : Nat) (w : BitVec 56)
  /-- R140: Instruction that sends an Add signal to a milestone. -/
  | msAdd (k n : Nat) (w : BitVec 56)
  /-- R140: Instruction that sends a Set signal to a milestone. -/
  | msSet (k n : Nat) (w : BitVec 56)
  /-- R140: Sleeps until a milestone is at least a target. -/
  | msWaitge (k n : Nat) (w : BitVec 56)
  /-- R140: Sleeps until a milestone equals a target. -/
  | msWaiteq (k n : Nat) (w : BitVec 56)
  /-- R140: Reads a milestone's value without waiting. -/
  | msTest (k n : Nat) (w : BitVec 56)
  /-- R154: Begins filling the back stationary buffer from an image. -/
  | stage (k n : Nat) (w : BitVec 56)
  /-- R155: The last row, checksum entry, metadata and scales are in, and the back buffer becomes complete. -/
  | stageComplete (k : Nat)
  /-- R142: Matrix multiply-accumulate that streams 64 rows through the array into a tile. -/
  | mma (k n : Nat) (w : BitVec 56)
  /-- R160: An MMA finishes its writes and checks, its sentinel counts are added and its detour decision is taken.
  -/
  | mmaComplete (k : Nat) (dist : List (Nat × Nat × Nat))
  /-- R176: The failed MMA is replayed from retained operands with the checksum row. -/
  | mmaReplay (k : Nat)
  /-- R177: A clean replay clears the poison, and a mismatching replay is a persistent fault that traps with array
  fault. -/
  | replayComplete (k : Nat) (dist : List (Nat × Nat × Nat))
  /-- R225: Once earlier instructions complete, the tile is restored and the convoy jumps to the detour entry with
  U62 and U63 set. -/
  | diversion (k n : Nat)
  /-- R142: Reads tile columns into V registers as FP32. -/
  | trd (k n : Nat) (w : BitVec 56)
  /-- R142: Writes V registers into tile columns. -/
  | twr (k n : Nat) (w : BitVec 56)
  /-- R142: Zeroes a tile and clears its poison and status. -/
  | tzero (k n : Nat) (w : BitVec 56)
  /-- R144: Reads a tile's status word. -/
  | tstat (k n : Nat) (w : BitVec 56)
  /-- R73: When resources allow, a workgroup is placed on a core, its local store zeroed and its tiles cleared. -/
  | workgroupPlacement (k : Nat)
  /-- R100: Debugger request that a convoy stop at its next instruction boundary. -/
  | cvyDbgHalt (k : Nat) (slots : BitVec 16)
  /-- R100: The last in-flight instruction of a halting convoy completes and the convoy reads halted. -/
  | convoyHalted (k n : Nat)
  /-- R102: Returns a halted convoy to its earlier state. -/
  | cvyDbgResume (k : Nat) (slots : BitVec 16)
  /-- R102: Lets a halted convoy issue exactly one instruction. -/
  | cvyDbgStep (k : Nat) (slots : BitVec 16)
  /-- R101: Go with dir 0 reads a halted convoy's register into CVY_REG_DATA. -/
  | cvyRegRead (k : Nat) (sel : BitVec 30)
  /-- R101: Go with dir 1 writes a halted convoy's register, refused if it would break R83. -/
  | cvyRegWrite (k : Nat) (sel : BitVec 30)
  /-- R101: A write to the PC or a mask of a halted convoy, re-evaluating its barrier arrival. -/
  | cvyMaskWrite (k n which : Nat) (x : Word)
  /-- R95: Releases a barrier by hand as if every convoy had arrived. -/
  | cvyBarRelease (k w : Nat) (m : BitVec 8)
  /-- R237: A mover takes a descriptor when its queue has room and reads it whole, or refuses it. -/
  | descriptorAccept (m id : Nat)
  /-- R247: Mover operation that copies and converts a tensor. -/
  | copy (m id : Nat)
  /-- R247: Mover operation that swaps the two inner dimensions. -/
  | transpose (m id : Nat)
  /-- R248: Mover operation that expands convolution windows. -/
  | window (m id : Nat)
  /-- R249: Mover operation that reads through an index tensor. -/
  | gather (m id : Nat)
  /-- R250: Mover operation that writes through an index tensor. -/
  | scatter (m id : Nat)
  /-- R247: Mover operation that writes the fill value. -/
  | fill (m id : Nat)
  /-- R262: A descriptor's writes become visible, then its record is written, then its milestone is signalled. -/
  | descriptorComplete (m id : Nat)
  /-- R269: Starts or resumes a check-value scan. -/
  | cvuGo (u : Nat)
  /-- R270: Requests that a running scan stop at the next 128-byte boundary as suspended. -/
  | cvuSuspend (u : Nat)
  /-- R270: Requests that a running scan stop at the next boundary as aborted. -/
  | cvuAbort (u : Nat)
  /-- R270: A suspending or aborting scan reaches its boundary and stops with consistent registers. -/
  | cvuStop (u n : Nat)
  /-- R269: LENGTH reaches zero, the state becomes done and the milestone is signalled. -/
  | cvuScanDone (u : Nat)
  /-- R271: An unresolvable fault or poison stops the scan at its line with state fault. -/
  | cvuScanFault (u : Nat)
  /-- R275: tREFI expires and the vault is refreshed for tRFC. -/
  | refresh (v : Nat) (lost : List (Nat × Nat × Nat))
  /-- R286: Maintenance slot that scrubs lines, correcting single-symbol errors and poisoning uncorrectable lines.
  -/
  | patrolScrub (v line : Nat)
  /-- R275: A row with no access for 64 vault cycles is closed. -/
  | rowClose (v bank : Nat)
  /-- R321: A shared-read request at a line's home, answered from memory or the nearest holder. -/
  | getS (a l key : Nat)
  /-- R321: An ownership request at a home, which invalidates other copies. -/
  | getM (a l key : Nat)
  /-- R321: A sharer or owner asks for M without data. -/
  | upgrade (a l key : Nat)
  /-- R321: A clean holder tells the home it has evicted the line. -/
  | notify (a l : Nat)
  /-- R322: A dirty holder writes the line back to its home, holding it in its victim buffer until acknowledged. -/
  | writeBack (a l : Nat)
  /-- R320: A caching agent supplies a line for a GetS forwarded by the home. -/
  | forwardedRead (l : Nat)
  /-- R320: A caching agent supplies a line and gives it up for a GetM. -/
  | forwardedExclusiveRead (l : Nat)
  /-- R320: A caching agent drops its copy and acknowledges. -/
  | invalidate (l a : Nat)
  /-- R321: An invalidation acknowledgement arrives at the home, and the request completes once every one has
  arrived. -/
  | acknowledgement (l a : Nat)
  /-- R325: An I/O agent reads a line without changing cache states. -/
  | snoopRead (a l key : Nat)
  /-- R325: An I/O agent writes a full line, invalidating every copy. -/
  | invalidatingWrite (a l key : Nat) (v : BitVec 1024)
  /-- R320: An owner or X holder supplies a line for a snoop read and keeps its state. -/
  | forwardedSnoopRead (l : Nat)
  /-- R312: A sequential-store tracker with no continuing store for 64 core cycles leaves no-allocate mode. -/
  | storeTrackerTimeout (k t : Nat)
  /-- R313: A combining-buffer entry idle for 256 core cycles drains to L2. -/
  | combiningIdleDrain (k l : Nat)
  /-- R316: The L2 prefetches lines ahead for the cluster's streams into its side buffer. -/
  | l2Prefetch (c l key : Nat)
  /-- R329: DIR_FLUSH.go writes back and invalidates every L2 line after the cores' CLUSTER releases. -/
  | l2Flush (c : Nat)
  /-- R329: The last line of a flush leaves and busy clears. -/
  | l2FlushComplete (c : Nat)
  /-- R366: A home applies an Add and evaluates the subscribed waits. -/
  | milestoneAdd (g : Nat)
  /-- R366: A home applies a Set and evaluates the subscribed waits. -/
  | milestoneSet (g : Nat)
  /-- R366: A home returns a milestone's value. -/
  | milestoneTest (a : Nat) (h : Word)
  /-- R369: A wait reaches its home and subscribes, or completes at once, or polls when the watch table is full. -/
  | waitRegistration (r : WaitRef)
  /-- R372: A new value reaches a subscribed core, which wakes the satisfied convoy and ungates if needed. -/
  | waitSatisfied (r : WaitRef)
  /-- R371: A polling wait re-reads the home every 256 core cycles and takes a free subscription. -/
  | waitPoll (r : WaitRef)
  /-- R373: All resident convoys have slept for sleep_gate, so the core gates its clock and returns its credit. -/
  | coreGate (k : Nat)
  /-- R510: An ungating core reclaims its credit, moving lent clusters back, within 1 µs. -/
  | creditReclaim (k : Nat)
  /-- R378: A wait or barrier reaches the watchdog period and a report is written to the watchdog ring. -/
  | watchdogHang (r : HangRef)
  /-- R380: MS_OP go with op 0 tests the milestone in MS_SEL. -/
  | msOpTest
  /-- R380: MS_OP go with op 1 adds MS_OPERAND as a signal. -/
  | msOpAdd
  /-- R380: MS_OP go with op 2 sets the milestone as a signal. -/
  | msOpSet
  /-- R381: Completes a sleeping convoy's wait without a signal. -/
  | msForceWake (cluster slot n : Nat)
  /-- R396: A write of XLT_RSP_TAIL hands response records to the device. -/
  | responseTailWrite (p : Nat) (tail : BitVec 14)
  /-- R398: A MAP response is checked and installed, and the stalled access is replayed. -/
  | map (p : Nat)
  /-- R397: A RETRY response makes the device send the request again. -/
  | retry (p : Nat)
  /-- R402: The access fails and the context enters the faulted state. -/
  | unresolvable (p : Nat)
  /-- R404: A prefill request's response that the device ignores. -/
  | decline (p : Nat)
  /-- R404: The first record of a pushed entry, paired with the MAP record that follows it. -/
  | pushVa (p : Nat)
  /-- R399: An outstanding request is re-posted under a new tag after the timeout. -/
  | requestTimeout (p tag : Nat)
  /-- R405: Invalidates a range of pages in one context. -/
  | invalidationRange (asid count : Nat)
  /-- R405: Invalidates every translation of one context. -/
  | invalidationContext (asid : Nat)
  /-- R405: Invalidates every translation of the device. -/
  | invalidationDevice
  /-- R405: The caches, accesses and responses in scope are done, and done is set. -/
  | invalidationComplete
  /-- R403: Takes a context out of the faulted state. -/
  | clearFault (a : Nat)
  /-- R407: Loads and locks the key-encryption key. -/
  | kekLoad
  /-- R408: Unwraps and checks a data key and loads it into a slot. -/
  | keyLoad (slot : Nat)
  /-- R409: Empties a key slot. -/
  | keyErase (slot : Nat)
  /-- R408: A key load or erase has reached every controller, and busy clears. -/
  | keyOpComplete
  /-- R420: A write of HIF_Q_TAIL submits commands, or is ignored as a bad tail. -/
  | doorbell (a q : Nat) (tail : BitVec 32)
  /-- R420: The device reads a command from the ring, up to 4 ahead of grant, and registers its waits. -/
  | commandFetch (a q : Nat)
  /-- R425: Granted NOP command that completes at grant. -/
  | nopCommand (a q : Nat)
  /-- R425: Granted LAUNCH that reads its launch block, acts on its hints and cuts the grid into chunks. -/
  | launch (a q : Nat)
  /-- R425: Granted MOVE that hands a descriptor to a system mover. -/
  | move (a q : Nat)
  /-- R425: Granted FENCE command that completes at grant with an event. -/
  | fenceCommand (a q : Nat)
  /-- R431: A command's results become visible, then its milestone is signalled, its event written and its interrupt
  sent. -/
  | commandCompletion (a q : Nat) (seq : BitVec 32)
  /-- R434: A write of HIF_Q_EVTAIL frees event-ring room for a waiting completion. -/
  | eventTailWrite (a q : Nat) (tail : BitVec 32)
  /-- R421: Enable written 1 moves a configured queue to running or halted. -/
  | queueEnable (a q : Nat)
  /-- R421: Enable written 0 moves the queue through resetting to disabled. -/
  | queueDisable (a q : Nat)
  /-- R422: Resume returns a stopped or halted queue to running, unless its context is faulted. -/
  | queueResume (a q : Nat)
  /-- R422: Reset discards ungranted commands and waits for granted ones. -/
  | queueReset (a q : Nat)
  /-- R435: Removes an ungranted command, which completes CANCELLED. -/
  | cancel (a q : Nat) (seq : BitVec 32)
  /-- R435: Removes an ungranted command or stops a granted one, which completes ABORTED. -/
  | abort (a q : Nat) (seq : BitVec 32)
  /-- R417: A write of HIF_CTX_CFG sets a context's partition and owner, or is refused while it is in use. -/
  | contextConfigWrite (a : Nat) (v : BitVec 32)
  /-- R440: A write of HIF_SELF_START starts Qorriop cores. -/
  | selfStart (m : BitVec 24)
  /-- R415: A host read through the BAR4 window as an I/O agent. -/
  | bar4Read (port off n : Nat)
  /-- R415: A host write through the BAR4 window as an I/O agent. -/
  | bar4Write (port off : Nat) (bs : List (BitVec 8))
  /-- R411: A PCIe AtomicOp on BAR4, executed in L2. -/
  | atomicop (port off op n : Nat) (x y : BitVec 64)
  /-- R596: A failed or timed-out host-port read returns poison, and a poisoned write is sent marked. -/
  | hostAccessFailure (port bus : Nat)
  /-- R447: With no holder, the dispatcher gives the slice to the next eligible context. -/
  | sliceHandover (p : Nat)
  /-- R448: The quantum ends and the dispatcher switches, renews or ends the slice. -/
  | quantumExpiry (p : Nat)
  /-- R448: PRT_SLICE_CTRL.end_now ends the slice in the next mesh cycle. -/
  | endNow (p : Nat)
  /-- R453: The grace time ends and remaining convoys are forced to stop. -/
  | graceExpiry (p : Nat)
  /-- R454: Once a stopped convoy's instructions, descriptors and release complete, its state is written to the save
  band. -/
  | convoySave (k n : Nat)
  /-- R460: The dispatcher restores a saved workgroup onto its core and resumes its convoys. -/
  | restore (p x : Nat)
  /-- R452: An idle cluster takes half the unstarted chunks of the nearest cluster. -/
  | steal (c x : Nat)
  /-- R462: Every 1 ms a partition computes its slowdown and writes a record. -/
  | slowdownPeriod (p active held floors : Nat)
  /-- R477: LNK_CTRL.enable starts link training. -/
  | linkEnable (k : Nat)
  /-- R477: Training ends and the link sends IDENT. -/
  | linkTrainingDone (k : Nat) (bad : List Nat)
  /-- R477: An IDENT flit is checked: the link comes up and records the digest, or the peer is refused as a
  stranger. -/
  | ident (k : Nat) (node fabric : Word) (link role : Nat) (digest : BitVec 384) (credit0 credit1 : Nat)
  /-- R477: A refused or waiting link repeats IDENT every 1 ms. -/
  | identRepeat (k : Nat)
  /-- R474: A received data flit is accepted in order, or discarded with a NAK. -/
  | data (k : Nat) (f : BitVec 2048) (fec : Nat)
  /-- R474: A received NAK makes the sender retransmit from the expected flit. -/
  | nak (k : Nat) (f : BitVec 2048) (fec : Nat)
  /-- R474: The receiver resends its NAK every 2 µs until the flit arrives. -/
  | nakResend (k : Nat)
  /-- R479: A received RETRAIN flit stops data and joins a fast retrain. -/
  | retrain (k : Nat) (f : BitVec 2048) (fec : Nat)
  /-- R479: 10 µs without a clean codeword, or a lost lane lock, starts a fast retrain that keeps replay state. -/
  | fastRetrain (k : Nat)
  /-- R479: A fast retrain ends in success and replay resumes, or counts as a failure. -/
  | fastRetrainComplete (k : Nat) (lost : List Nat)
  /-- R479: After three failed fast retrains, or on LNK_CTRL.retrain, the link retrains fully. -/
  | fullRetrain (k : Nat)
  /-- R479: The link is declared down: replay is discarded, an error is reported and puts fail. -/
  | linkDown (k : Nat)
  /-- R479: A down link retries bring-up every 1 s while enabled. -/
  | linkRetry (k : Nat)
  /-- R481: A write of LNK_PQ_TAIL submits put entries. -/
  | putDoorbell (k q : Nat) (tail : BitVec 32)
  /-- R483: A granted PUT entry reads its source and sends messages. -/
  | put (k q : Nat)
  /-- R483: A granted SIGNAL entry sends a remote signal message. -/
  | signal (k q : Nat)
  /-- R484: A partly filled flit is closed with a pad after 16 ns without bytes. -/
  | padTimeout (k : Nat)
  /-- R485: A received PUT message is translated, written, and counted once visible. -/
  | putMessage (k : Nat)
  /-- R485: A received SIGNAL message adds its operand to a milestone. -/
  | signalMessage (k : Nat)
  /-- R487: A put entry's messages are all acknowledged: local_ms gains 1 and DONE advances. -/
  | entryComplete (k q : Nat) (seq : BitVec 32)
  /-- R491: A received data frame is filtered and taken in order. -/
  | ethDataFrame (k : Nat) (f : List (BitVec 8))
  /-- R491: A received ack advances the window and applies ECN echo. -/
  | ethAck (k : Nat) (f : List (BitVec 8))
  /-- R491: A received NAK triggers retransmission from the first unacknowledged frame. -/
  | ethNak (k : Nat) (f : List (BitVec 8))
  /-- R493: A received IDENT frame is checked and recorded in the peer identity table. -/
  | ethIdent (k : Nat) (f : List (BitVec 8))
  /-- R491: After 2 µs or 8 frames the receiver sends a cumulative ack. -/
  | ackTimer (k x : Nat)
  /-- R491: After 100 µs without progress, outside pause, the sender retransmits. -/
  | retransmitTimeout (k x : Nat)
  /-- R493: IDENT is repeated every 100 ms to peers not yet accepted. -/
  | ethIdentRepeat (k : Nat)
  /-- R489: A received PFC frame pauses priority pcp. -/
  | pfcFrame (k : Nat) (time : BitVec 16)
  /-- R498: LNK_TEST_CTRL.go restarts the deterministic slot count. -/
  | testGo (k : Nat)
  /-- R496: Injection kind 0 inverts bits on a lane after FEC encoding. -/
  | bitFlips (k lane count : Nat)
  /-- R496: Injection kind 1 corrupts the CRC of data flits. -/
  | crcInjection (k count : Nat)
  /-- R496: Injection kind 2 withholds data flits. -/
  | withhold (k count : Nat)
  /-- R496: Injection kind 3 delays data flits. -/
  | delay (k delay : Nat)
  /-- R497: Starts recording flits into the capture ring. -/
  | captureGo (k : Nat)
  /-- R497: Stops the capture at once. -/
  | captureStop (k : Nat)
  /-- R500: PWR_ROOT_CTRL.go raises voltages, glides the root PLLs and lowers voltages. -/
  | retune (mhz : Nat)
  /-- R500: The glide and voltage changes end and busy clears. -/
  | retuneComplete
  /-- R508: Every 100 µs the wardens measure package power and set partition allowances. -/
  | powerMeasurement (mw : Nat)
  /-- R509: Each mesh cycle the arbiter slows or raises cluster dividers to balance its pool. -/
  | creditArbiter (p : Nat)
  /-- R522: Every 100 µs the sensors are read and thermal actions applied or released. -/
  | sensorRead (junctions harts : List (Nat × Nat)) (layers : List (Nat × Nat × Nat))
  /-- R506: The wardens raise voltage and cap the hotter quad every 100 µs until the gradient is corrected. -/
  | forcingStep
  /-- R531: Every 10 s the path-delay monitors are read and guard bands or caps are applied. -/
  | marginCheck (low : List Nat)
  /-- R517: An idle cluster past its entry delay gates its clocks. -/
  | c1Entry (c : Nat)
  /-- R517: An idle cluster starts entry into retention. -/
  | c2Entry (c : Nat)
  /-- R517: An idle cluster starts entry into power-gating. -/
  | c3Entry (c : Nat)
  /-- R517: An entry phase completes and the next phase begins, or the entry finishes. -/
  | entryPhaseEnd (dom : Nat)
  /-- R518: The drain phase misses its boundary within 20 µs and the entry is refused. -/
  | entryRefused (dom : Nat)
  /-- R513: A wake starts a cluster's exit, or is latched and aborts or follows an entry. -/
  | clusterWake (c : Nat)
  /-- R511: A cluster or package reaches C0 or P0 and replays latched wakes. -/
  | exitComplete (dom : Nat)
  /-- R512: A write of PWR_WAKE_TOL wakes clusters in states now too deep. -/
  | wakeTolWrite (p us : Nat)
  /-- R514: A vault idle for its entry delay enters power-down. -/
  | vaultPowerDown (v : Nat)
  /-- R514: A vault under a sleeping cluster enters self-refresh. -/
  | vaultSelfRefresh (v : Nat)
  /-- R514: A free-pool or unused held vault enters deep power-down. -/
  | vaultDeepPowerDown (v : Nat)
  /-- R516: The package enters P2 by itself when every partition is idle. -/
  | p2Entry
  /-- R516: PWR_PKG_CTRL go with target 0 returns the package to P0. -/
  | p0Request
  /-- R516: PWR_PKG_CTRL go with target 2 requests standby. -/
  | p4Request (wfi : Bool)
  /-- R516: PWR_PKG_CTRL go with target 3 requests off-hold. -/
  | p6Request
  /-- R521: A restore-order step begins after its delay when the package leaves P2, P4 or P6. -/
  | restoreStep
  /-- R535: Decision 0 approves a proposal for the next drain. -/
  | approveAtNextDrain (n : Nat) (lanes : List (Nat × List Nat))
  /-- R535: Decision 1 queues a repair amendment at once. -/
  | approveNow (n : Nat) (lanes : List (Nat × List Nat))
  /-- R535: Decision 2 ends the proposal. -/
  | reject (n : Nat)
  /-- R542: A warden sends its heartbeat every 1 ms. -/
  | heartbeat (w : Nat)
  /-- R542: A lockstep mismatch or three missed heartbeats fail a warden, and the survivor takes its duties. -/
  | wardenFailed (w : Nat) (mismatch : Bool)
  /-- R542: The survivor releases the failed warden from reset to reload its firmware. -/
  | wardenReload (w : Nat)
  /-- R543: A reloaded warden resumes its duties at a heartbeat boundary. -/
  | wardenRejoin (w : Nat)
  /-- R544: No heartbeat from either warden for 3 ms forces the hard shoulder with cause 0x20. -/
  | sequencerForcedShoulder
  /-- R547: Every 10 µs the local counts are added into the partition counters. -/
  | counterAccumulate (p active array valu mem : Nat)
  /-- R554: A write of DBG_FREEZE_CTRL.freeze stops every counter 40 ns later and forwards freeze flits. -/
  | freeze
  /-- R554: A rising edge on FREEZE_IN triggers a freeze. -/
  | freezeIn
  /-- R557: A received freeze flit triggers a freeze and is forwarded. -/
  | freezeFlit (k : Nat) (f : BitVec 2048) (fec : Nat)
  /-- R556: Restarts frozen counters and, with resume, resumes halted convoys. -/
  | thaw (resume : Bool)
  /-- R562: JTAG boundary-scan test, active only while RESET_N is low. -/
  | extest (pins shift : List Bool)
  /-- R562: JTAG instruction that returns the part identifier. -/
  | idcode
  /-- R562: JTAG instruction that samples and preloads the boundary scan. -/
  | samplePreload (pins shift : List Bool)
  /-- R562: JTAG clamp, active only while RESET_N is low. -/
  | clamp
  /-- R562: JTAG high-impedance instruction, active only while RESET_N is low. -/
  | highz
  /-- R562: JTAG bypass instruction. -/
  | bypass
  /-- R563: A JTAG DBG_ACCESS go with write 0 reads the BAR0 map. -/
  | dbgAccessRead (off : Nat) (wide : Bool)
  /-- R563: A JTAG DBG_ACCESS go with write 1 writes the BAR0 map when enabled. -/
  | dbgAccessWrite (off : Nat) (wide : Bool) (v : Word) (wfi : Bool) (lanes : List (Nat × List Nat))
  /-- R473: A received idle flit's ack and credits release replay-buffer flits and return credits. -/
  | idleFlit (k : Nat) (f : BitVec 2048) (fec : Nat)
  /-- R588: PG_IN has been high for 1 ms, so a RESET_N release that came earlier now takes effect and start-up
  begins. -/
  | pgInHigh
  /-- R583: PERST_W_N or PERST_E_N goes high and releases that port's PHY and configuration space from reset. -/
  | perstDeassert (p : Nat)
  /-- R62: A host port finishes PCIe training and its configuration space and mailbox answer. -/
  | hostPortTrained (p width speed : Nat) (cxl : Bool)
  /-- R589: Removal of VDD_AON and the other rails makes the package unpowered, which loses the held cause code and
  every state. -/
  | powerRemoval
  /-- R538: VDD_CORE stays outside 0.60 V to 0.90 V for 1 ms and causes a fatal error with cause 0x22. -/
  | vddCoreExcursion
  /-- R538: A Causeway row port is lost at run time, which is a fatal error leading to the hard shoulder with cause
  0x22. -/
  | causewayRowPortLoss (r : Nat)
  /-- R67: The drain of all partitions under ENTER_SHOULDER completes and the device enters the hard shoulder with
  cause 0x21. -/
  | shoulderDrainComplete (lanes : List (Nat × List Nat))
  /-- R67: amend_drain_limit expires during the ENTER_SHOULDER drain, and the remaining partitions are forced into
  the hard shoulder. -/
  | shoulderDrainLimit (lanes : List (Nat × List Nat))
  /-- R68: The erase, program and read-back of a WRITE_FLASH command finish, and done is set with its result. -/
  | flashWriteComplete (mismatch : Bool)
  /-- R562: TRST_N low resets the JTAG TAP, which selects IDCODE. -/
  | trstNAssert
  /-- R495: A lane's PRBS checker gains lock and starts counting errors. -/
  | prbsLock (k l : Nat)
  /-- R495: A lane's PRBS checker loses lock and stops counting errors. -/
  | prbsLockLoss (k l errors : Nat)
  /-- R496: The delay of an armed kind-3 injection runs out, the held data flits are sent and arm clears. -/
  | injectionDelayEnd (k : Nat)
  /-- R328: The 32-core-cycle atomic ownership hold of an L2 ends, and the deferred forward is answered. -/
  | ownershipHoldExpiry (a l : Nat)
  /-- R489: The pause time that a PFC frame set on priority pcp runs out, and transmission on that priority resumes.
  -/
  | pfcPauseExpiry (k : Nat)
  /-- R412: The host answers a CXL back-invalidate, so the home may grant ownership or apply the write. -/
  | backInvalidateResponse (l : Nat)
  /-- R388: A host port receives the completion of a device read of host memory and delivers the data to the waiting
  agent. -/
  | hostReadCompletion (port bus : Nat) (bs : List (BitVec 8))
  /-- R111: A word with an unlisted opcode, such as an all-zero word, issues and raises illegal instruction. -/
  | illegalInstruction (k n : Nat) (w : Word)
deriving DecidableEq, Repr

end Sys2Proof
end

