-- ==== Sys2Proof/Config.lean ====
section
/-! DEFINITION. What an implementation fixes and the free values: constants without a body, so that nothing can be
proved of the value they give. Each is named in the assumption log. -/

namespace Sys2Proof.Config

/-- The value of a datum the spec leaves open, one per read of the counter `Dev.freeCtr` (log entry 4). -/
opaque freeValue : Nat → BitVec 64

/-- R304: the L2 set is a hash of the line address the spec does not give; line number to set, taken modulo 1,024
(log entry 5). -/
opaque l2Hash : Nat → Nat

/-- R304: the set index of a directory slice or home agent, which the spec does not give; home and line (log entry 5). -/
opaque dirHash : Nat → Nat → Nat

/-- R283: whether a corrupted line with eight or more wrong symbols is another codeword; the code's generator is not in
the spec (log entry 6). -/
opaque eccMisses : List (Nat × Nat) → Bool

/-- R42: the hash of the key that Omhild fuses in slot 0 at manufacture; the spec does not give it (log entry 26). -/
opaque factoryKeyHash : BitVec 384

/-- R395: the engine and unit a partition's dispatcher names in its translation requests, which the spec does not give
(log entry 32). -/
opaque dispatcherEngine : Nat → BitVec 8
opaque dispatcherUnit : Nat → BitVec 16

end Sys2Proof.Config
end

