-- ==== Sys2Proof/Machine/Crypto.lean ====
section
/-! DEFINITION. The cited standards the spec builds on: AES-256 with XTS (IEEE 1619) and Key Wrap (SP 800-38F) for
R300 and R408, SHA-384 and ECDSA over P-384 for R42 and R59, and the CRCs of R267. The algorithms themselves are
PRESUMED from the standards the spec names; the spec gives their use. -/

namespace Sys2Proof.Machine

/-! ### AES-256 (FIPS 197), on bytes held as numbers -/

/-- Multiplication by x in the AES field. -/
def aesXtime (a : Nat) : Nat := if a < 128 then 2 * a else (2 * a) ^^^ 0x11b

/-- Multiplication in the AES field; the second factor is read bit by bit. -/
def aesMulN : Nat → Nat → Nat → Nat
  | 0, _, _ => 0
  | k + 1, a, b => (if b % 2 = 1 then a else 0) ^^^ aesMulN k (aesXtime a) (b / 2)

def aesMul (a b : Nat) : Nat := aesMulN 8 a b

/-- Inverse in the AES field, a to the power 254 (0 for 0). -/
def aesInv (a : Nat) : Nat :=
  let a2 := aesMul a a
  let a4 := aesMul a2 a2
  let a8 := aesMul a4 a4
  let a16 := aesMul a8 a8
  let a32 := aesMul a16 a16
  let a64 := aesMul a32 a32
  let a128 := aesMul a64 a64
  aesMul (aesMul (aesMul a128 a64) (aesMul a32 a16)) (aesMul (aesMul a8 a4) a2)

/-- Left rotation of a byte. -/
def rotl8 (a k : Nat) : Nat := ((a <<< k) ||| (a >>> (8 - k))) % 256

def aesSbox (a : Nat) : Nat :=
  let b := aesInv a
  b ^^^ rotl8 b 1 ^^^ rotl8 b 2 ^^^ rotl8 b 3 ^^^ rotl8 b 4 ^^^ 0x63

def aesInvSbox (a : Nat) : Nat := aesInv (rotl8 a 1 ^^^ rotl8 a 3 ^^^ rotl8 a 6 ^^^ 5)

def xorBytes (a b : List Nat) : List Nat := List.zipWith (· ^^^ ·) a b

/-- Key expansion: `k` further words, from the words so far, latest first; `i` is the index of the next word. -/
def aesExpand : Nat → Nat → Nat → List (List Nat) → List (List Nat)
  | 0, _, _, ws => ws
  | k + 1, i, rc, ws =>
    let prev := ws.headD []
    let old := ws.getD 7 []
    let rot := match prev with
      | a :: r => r ++ [a]
      | [] => []
    let t := if i % 8 = 0 then xorBytes (rot.map aesSbox) [rc, 0, 0, 0]
      else if i % 8 = 4 then prev.map aesSbox else prev
    aesExpand k (i + 1) (if i % 8 = 0 then aesXtime rc else rc) (xorBytes old t :: ws)

/-- A list cut into pieces of `n`; the first argument bounds the number of pieces. -/
def chunksOf {α : Type} : Nat → Nat → List α → List (List α)
  | 0, _, _ => []
  | k + 1, n, l => if l.isEmpty then [] else l.take n :: chunksOf k n (l.drop n)

/-- The fifteen round keys of a 32-byte key. -/
def aesRoundKeys (key : List Nat) : List (List Nat) :=
  let ws := (aesExpand 52 8 1 (chunksOf 8 4 key).reverse).reverse
  (chunksOf 15 4 ws).map (·.flatten)

def aesShiftRows (s : List Nat) : List Nat :=
  (List.range 16).map fun i => s.getD ((i + 4 * (i % 4)) % 16) 0

def aesInvShiftRows (s : List Nat) : List Nat :=
  (List.range 16).map fun i => s.getD ((i + 16 - 4 * (i % 4)) % 16) 0

def aesMixWith (m0 m1 m2 m3 : Nat) (s : List Nat) : List Nat :=
  (List.range 16).map fun i =>
    let c := i / 4 * 4
    let r := i % 4
    aesMul m0 (s.getD (c + r) 0) ^^^ aesMul m1 (s.getD (c + (r + 1) % 4) 0)
      ^^^ aesMul m2 (s.getD (c + (r + 2) % 4) 0) ^^^ aesMul m3 (s.getD (c + (r + 3) % 4) 0)

def aesEncryptRounds : List (List Nat) → List Nat → List Nat
  | [], s => s
  | [k], s => xorBytes (aesShiftRows (s.map aesSbox)) k
  | k :: ks, s => aesEncryptRounds ks (xorBytes (aesMixWith 2 3 1 1 (aesShiftRows (s.map aesSbox))) k)

/-- One AES-256 block under a 32-byte key. -/
def aesEncrypt (key blk : List Nat) : List Nat :=
  match aesRoundKeys key with
  | [] => blk
  | k :: ks => aesEncryptRounds ks (xorBytes blk k)

def aesDecryptRounds : List (List Nat) → List Nat → List Nat
  | [], s => s
  | [k], s => xorBytes ((aesInvShiftRows s).map aesInvSbox) k
  | k :: ks, s => aesDecryptRounds ks (aesMixWith 14 11 13 9 (xorBytes ((aesInvShiftRows s).map aesInvSbox) k))

/-- The inverse of `aesEncrypt`. -/
def aesDecrypt (key blk : List Nat) : List Nat :=
  match (aesRoundKeys key).reverse with
  | [] => blk
  | k :: ks => aesDecryptRounds ks (xorBytes blk k)

/-- A number as a list of `k` byte values, least significant first. -/
def natBytes (n : Nat) : Nat → List Nat
  | 0 => []
  | k + 1 => n % 256 :: natBytes (n / 256) k

/-- The number of a little-endian list of byte values. -/
def bytesNat : List Nat → Nat
  | [] => 0
  | b :: bs => b + 256 * bytesNat bs

/-- Multiplication of an XTS tweak by the primitive element (IEEE 1619). -/
def xtsNext (t : Nat) : Nat := if t < 2 ^ 127 then 2 * t else (2 * t - 2 ^ 128) ^^^ 0x87

/-- XTS over `k` blocks of 16 bytes, with the block cipher given. -/
def xtsBlocks (f : List Nat → List Nat) : Nat → Nat → Nat → Nat
  | 0, _, _ => 0
  | k + 1, t, n =>
    let tb := natBytes t 16
    let c := xorBytes (f (xorBytes (natBytes n 16) tb)) tb
    bytesNat c + 2 ^ 128 * xtsBlocks f k (xtsNext t) (n / 2 ^ 128)

/-- A 64-byte XTS key: Key1 in bytes 0 to 31 and Key2 in bytes 32 to 63 (R408). -/
abbrev XtsKey := BitVec 512

/-- AES-256-XTS of one 128-byte line, the tweak a 128-bit little-endian value (R300). -/
def xtsEncryptLine (key : XtsKey) (tweak : Nat) (data : BitVec 1024) : BitVec 1024 :=
  let k1 := natBytes key.toNat 32
  let k2 := natBytes (key.toNat / 2 ^ 256) 32
  let t := bytesNat (aesEncrypt k2 (natBytes tweak 16))
  BitVec.ofNat 1024 (xtsBlocks (aesEncrypt k1) 8 t data.toNat)

def xtsDecryptLine (key : XtsKey) (tweak : Nat) (data : BitVec 1024) : BitVec 1024 :=
  let k1 := natBytes key.toNat 32
  let k2 := natBytes (key.toNat / 2 ^ 256) 32
  let t := bytesNat (aesEncrypt k2 (natBytes tweak 16))
  BitVec.ofNat 1024 (xtsBlocks (aesDecrypt k1) 8 t data.toNat)

/-! ### AES Key Wrap, unwrapping (SP 800-38F) -/

/-- One inner step of the unwrapping: `a` the register, `r` the semiblocks, `t` the step number, `i` the index. -/
def kwStep (kek : List Nat) (n t : Nat) (ar : List Nat × List (List Nat)) : List Nat × List (List Nat) :=
  let i := (t - 1) % n
  let a := xorBytes ar.1 (natBytes t 8).reverse
  let b := aesDecrypt kek (a ++ ar.2.getD i [])
  (b.take 8, ar.2.set i (b.drop 8))

/-- Steps `t` down to 1. -/
def kwSteps (kek : List Nat) (n : Nat) : Nat → List Nat × List (List Nat) → List Nat × List (List Nat)
  | 0, ar => ar
  | t + 1, ar => kwSteps kek n t (kwStep kek n (t + 1) ar)

/-- Unwraps the 72 bytes of a wrapped data key; none when the integrity check value is wrong (R408). -/
def kwUnwrap (kek : BitVec 256) (wrapped : List Nat) : Option XtsKey :=
  let sb := chunksOf 9 8 wrapped
  let ar := kwSteps (natBytes kek.toNat 32) 8 48 (sb.headD [], sb.drop 1)
  if ar.1 = List.replicate 8 0xa6 then some (BitVec.ofNat 512 (bytesNat ar.2.flatten)) else none

/-! ### CRCs (R267): the parameters are in the caller -/

/-- Bit reflection of the low `w` bits. -/
def reflect : Nat → Nat → Nat
  | 0, _ => 0
  | w + 1, n => (n % 2) * 2 ^ w + reflect w (n / 2)

/-- `k` steps of a reflected CRC register with polynomial `p` (already reflected). -/
def crcShiftR (p : Nat) : Nat → Nat → Nat
  | 0, r => r
  | k + 1, r => crcShiftR p k (if r % 2 = 1 then (r / 2) ^^^ p else r / 2)

/-- `k` steps of a most-significant-first CRC register of `w` bits with polynomial `p`. -/
def crcShiftL (w p : Nat) : Nat → Nat → Nat
  | 0, r => r
  | k + 1, r => crcShiftL w p k
      (if 2 ^ (w - 1) ≤ r then ((2 * r) % 2 ^ w) ^^^ p else 2 * r)

def crcByteR (p r : Nat) (b : Byte) : Nat := crcShiftR p 8 (r ^^^ b.toNat)

def crcByteL (w p r : Nat) (b : Byte) : Nat := crcShiftL w p 8 (r ^^^ (b.toNat * 2 ^ (w - 8)))

/-- The initial register of polynomial `poly` of R267: 0 CRC-32, 1 CRC-32C, 2 CRC-64, 3 CRC-16. -/
def crcInit (poly : Nat) : Nat := match poly with | 2 => 0 | 3 => 0xffff | _ => 0xffffffff
/-- The final XOR, which is its own inverse. -/
def crcFinal (poly r : Nat) : Nat := if poly = 2 || poly = 3 then r else r ^^^ 0xffffffff
/-- One byte folded into the register; the reflected polynomials are written reflected. -/
def crcByte (poly r : Nat) (b : Byte) : Nat :=
  match poly with
  | 0 => crcByteR 0xedb88320 r b
  | 1 => crcByteR 0x82f63b78 r b
  | 2 => crcByteL 64 0x42f0e1eba9ea3693 r b
  | _ => crcByteL 16 0x1021 r b
/-- R268: the finished CRC of bytes folded after a finished value. -/
def crcContinue (poly v : Nat) (bs : List Byte) : Nat := crcFinal poly (bs.foldl (crcByte poly) (crcFinal poly v))
/-- The CRC of a byte string. -/
def crcOf (poly : Nat) (bs : List Byte) : Nat := crcFinal poly (bs.foldl (crcByte poly) (crcInit poly))

/-! ### SHA-384 (FIPS 180-4) -/

/-- The first 80 primes. -/
def shaPrimes : List Nat :=
  [2, 3, 5, 7, 11, 13, 17, 19, 23, 29, 31, 37, 41, 43, 47, 53, 59, 61, 67, 71, 73, 79, 83, 89, 97, 101, 103, 107,
   109, 113, 127, 131, 137, 139, 149, 151, 157, 163, 167, 173] ++
  [179, 181, 191, 193, 197, 199, 211, 223, 227, 229, 233, 239, 241, 251, 257, 263, 269, 271, 277, 281, 283, 293,
   307, 311, 313, 317, 331, 337, 347, 349, 353, 359, 367, 373, 379, 383, 389, 397, 401, 409]

/-- The largest `r` with `r ^ e ≤ n`, found bit by bit from bit `k - 1` down. -/
def rootBits (e n : Nat) : Nat → Nat → Nat
  | 0, r => r
  | k + 1, r => rootBits e n k (if (r + 2 ^ k) ^ e ≤ n then r + 2 ^ k else r)

/-- Round constants: the first 64 bits of the fractional parts of the cube roots of the primes. -/
def shaK : List Nat := shaPrimes.map fun p => rootBits 3 (p * 2 ^ 192) 68 0 % 2 ^ 64

/-- Initial hash value: the first 64 bits of the fractional parts of the square roots of the ninth to sixteenth primes. -/
def shaInit : List Nat := ((shaPrimes.drop 8).take 8).map fun p => rootBits 2 (p * 2 ^ 128) 68 0 % 2 ^ 64

def rotr64 (x k : Nat) : Nat := ((x >>> k) ||| (x <<< (64 - k))) % 2 ^ 64

/-- The message schedule extended by `k` words, latest first. -/
def shaExtend : Nat → List Nat → List Nat
  | 0, w => w
  | k + 1, w =>
    let a := w.getD 1 0
    let b := w.getD 14 0
    let s1 := rotr64 a 19 ^^^ rotr64 a 61 ^^^ (a >>> 6)
    let s0 := rotr64 b 1 ^^^ rotr64 b 8 ^^^ (b >>> 7)
    shaExtend k (((s1 + w.getD 6 0 + s0 + w.getD 15 0) % 2 ^ 64) :: w)

def shaRound (h : List Nat) (kw : Nat × Nat) : List Nat :=
  match h with
  | [a, b, c, d, e, f, g, hh] =>
    let s1 := rotr64 e 14 ^^^ rotr64 e 18 ^^^ rotr64 e 41
    let ch := (e &&& f) ^^^ ((2 ^ 64 - 1 - e) &&& g)
    let t1 := hh + s1 + ch + kw.1 + kw.2
    let s0 := rotr64 a 28 ^^^ rotr64 a 34 ^^^ rotr64 a 39
    let maj := (a &&& b) ^^^ (a &&& c) ^^^ (b &&& c)
    [(t1 + s0 + maj) % 2 ^ 64, a, b, c, (d + t1) % 2 ^ 64, e, f, g]
  | h => h

/-- One block of 16 words. -/
def shaBlock (h blk : List Nat) : List Nat :=
  let w := (shaExtend 64 blk.reverse).reverse
  List.zipWith (fun x y => (x + y) % 2 ^ 64) h ((List.zip shaK w).foldl shaRound h)

/-- SHA-384 of a byte string, as its 48 octets. -/
def sha384 (msg : List Byte) : List Byte :=
  let len := msg.length
  let pad := (239 - len % 128) % 128
  let m := msg ++ [0x80] ++ List.replicate pad 0 ++ beBytes (8 * len) 16
  let words := (chunksOf (m.length / 8 + 1) 8 m).map beNat
  let h := (chunksOf (words.length / 16 + 1) 16 words).foldl shaBlock shaInit
  ((h.take 6).map (fun x => beBytes x 8)).flatten

/-! ### ECDSA verification over P-384 (FIPS 186) -/

def p384p : Nat := 2 ^ 384 - 2 ^ 128 - 2 ^ 96 + 2 ^ 32 - 1
def p384n : Nat :=
  0xffffffffffffffffffffffffffffffffffffffffffffffffc7634d81f4372ddf581a0db248b0a77aecec196accc52973
def p384b : Nat :=
  0xb3312fa7e23ee7e4988e056be3f82d19181d9c6efe8141120314088f5013875ac656398d8a2ed19d2a85c8edd3ec2aef
def p384g : Nat × Nat :=
  (0xaa87ca22be8b05378eb1c71ef320ad746e1d3b628ba79b9859f741e082542a385502f25dbf55296c3a545e3872760ab7,
   0x3617de4a96262c6f5d9e98bf9292dc29f8f41dbd289a147ce9da3113b5f0b8c00a60b1ce1d7e819d7a431d7c90ea0e5f)

/-- Modular power, the exponent read from bit `k - 1` down. -/
def powModBits (m a e : Nat) : Nat → Nat → Nat
  | 0, r => r
  | k + 1, r =>
    let r2 := r * r % m
    powModBits m a e k (if bitAt e k then r2 * a % m else r2)

/-- Inverse modulo a prime. -/
def invMod (m a : Nat) : Nat := powModBits m a (m - 2) 384 1

/-- Addition on the curve; none is the point at infinity. -/
def ecAdd (p q : Option (Nat × Nat)) : Option (Nat × Nat) :=
  match p, q with
  | none, q => q
  | p, none => p
  | some (x1, y1), some (x2, y2) =>
    let m := p384p
    if x1 = x2 then
      if (y1 + y2) % m = 0 then none
      else
        let l := (3 * x1 * x1 + (m - 3)) % m * invMod m (2 * y1 % m) % m
        let x3 := (l * l + 2 * (m - x1)) % m
        some (x3, (l * (x1 + m - x3) + (m - y1)) % m)
    else
      let l := (y2 + m - y1) % m * invMod m ((x2 + m - x1) % m) % m
      let x3 := (l * l + (m - x1) + (m - x2)) % m
      some (x3, (l * (x1 + m - x3) + (m - y1)) % m)

/-- Scalar multiple, the scalar read from bit `k - 1` down. -/
def ecMulBits (n : Nat) (p : Option (Nat × Nat)) : Nat → Option (Nat × Nat) → Option (Nat × Nat)
  | 0, r => r
  | k + 1, r =>
    let r2 := ecAdd r r
    ecMulBits n p k (if bitAt n k then ecAdd r2 p else r2)

def ecOnCurve (x y : Nat) : Bool :=
  x < p384p && y < p384p && (y * y) % p384p == (x * x * x + (p384p - 3) * x + p384b) % p384p

/-- Verification of signature (r, s) over a hash, under the public key (x, y). -/
def ecdsaVerify (hash : List Byte) (x y r s : Nat) : Bool :=
  if !ecOnCurve x y || r = 0 || p384n ≤ r || s = 0 || p384n ≤ s then false
  else
    let w := invMod p384n s
    let u1 := beNat hash * w % p384n
    let u2 := r * w % p384n
    match ecAdd (ecMulBits u1 (some p384g) 384 none) (ecMulBits u2 (some (x, y)) 384 none) with
    | none => false
    | some (px, _) => px % p384n == r

end Sys2Proof.Machine
end

