-- ==== Sys2Proof/Machine/RegNames.lean ====
section
/-! DEFINITION. The names of the register blocks, registers and fields of the spec's register maps (R6, R575). -/

namespace Sys2Proof.Machine

/-- Access codes of R7. -/
inductive Acc where
  | RW | RO | WO | W1C | W1S | RWL
deriving DecidableEq, Repr

/-- The register blocks of R575, and the three sets outside BAR0 that are registers (R66, R414). -/
inductive Block where
  | rlb | hif | pwr | wdn | prt | xlt | msa | cvu | dbg | mov | msb | dir | lpd | lnk | cvy | arr
  | dbgCore | vlt | dbgCl | qpage | mbx
deriving DecidableEq, Repr

/-- Every register the spec names, under its own name. -/
inductive Reg where
  | RLB_STATUS | RLB_BOOK_VERSION | RLB_AMEND_COUNT | RLB_LOCKED_WRITE_COUNT | RLB_LOCKED_WRITE_ADDR
  | RLB_CRC | RLB_DIGEST | RLB_AMEND_ADDR | RLB_AMEND_CTRL | RLB_AMEND_STATUS | HIF_STATUS
  | HIF_PORT_STATUS | HIF_W4_BASE | HIF_W4_KEY | HIF_SELF_HART | HIF_SELF_START | HIF_DROPPED_WRITES
  | HIF_CTX_CFG | HIF_CTX_TAGS | PWR_STATUS | PWR_ROOT_CTRL | PWR_PKG_CTRL | PWR_PKG_STATUS
  | PWR_MEASURE | PWR_REFUSED_COUNT | PWR_ABORT_COUNT | PWR_FORCED_COUNT | PWR_WAKE_TOL
  | PWR_PART_CREDIT | PWR_QUAD_STATUS | PWR_CLUSTER_STATUS | WDN_STATUS | WDN_SPARE_LEFT
  | WDN_ERR_RING | WDN_ERR_HEAD | WDN_ERR_TAIL | WDN_EVENT_CTRL | WDN_PROP | WDN_PROP_CTRL
  | WDN_CORE_BACK | WDN_VAULT_BACK | WDN_QOR_BACK | PRT_STATUS | PRT_SLICE_CTRL | PRT_SAVE_CFG
  | PRT_SLOW_RING | PRT_SLOW_HEAD | PRT_SLOW_TAIL | PRT_SLOW_CTRL | PRT_SLOW_LAST
  | PRT_PREEMPT_COUNT | PRT_FORCED_COUNT | PRT_STEAL_COUNT | PRT_CTX_SAVE | XLT_INV_VA
  | XLT_INV_CTRL | XLT_INV_STATUS | XLT_KEK_CTRL | XLT_KEK | XLT_KEY_DATA | XLT_KEY_CTRL
  | XLT_KEY_STATUS | XLT_KEY_LOADED | XLT_KEY_DROP_COUNT | XLT_HKEY | XLT_REQ_RING | XLT_RSP_RING
  | XLT_REQ_HEAD | XLT_REQ_TAIL | XLT_RSP_HEAD | XLT_RSP_TAIL | XLT_REQ_CTRL | XLT_PSTATUS
  | XLT_MISS_COUNT | XLT_BAD_RSP | XLT_ROOT | XLT_CTX_KEYMASK | XLT_CTX_CTRL | XLT_CTX_STATUS
  | XLT_CTX_FAULT_VA | MS_SEL | MS_OPERAND | MS_OP | MS_VALUE | MS_FORCE_WAKE | MS_WDOG_CTRL
  | MS_WDOG_RING | MS_WDOG_HEAD | MS_WDOG_TAIL | MS_WDOG_STATUS | MS_WDOG_DROPPED | MS_WDOG_PERIOD
  | MOV_CVU_CTRL | MOV_CVU_STATUS | MOV_CVU_START | MOV_CVU_LENGTH | MOV_CVU_VALUE | MOV_CVU_MS
  | DBG_FREEZE_CTRL | DBG_FREEZE_STATUS | DBG_FREEZE_TIME | DBG_FREEZE_ORIGIN | DBG_FREEZE_OTIME
  | DBG_FREEZE_LINKS | DBG_JTAG_CTRL | DBG_ACTIVE | DBG_ARRAY_BUSY | DBG_VALU_BUSY | DBG_MEM_BUSY
  | DBG_TRACE_RING | DBG_TRACE_HEAD | DBG_TRACE_TAIL | DBG_TRACE_CTRL | DBG_TRACE_DROPPED | DBG_ERR
  | MOV_STATUS | MOV_FAULT_INFO | MOV_DROP_COUNT | MOV_POISON_COUNT | MOV_DESC_COUNT
  | MOV_BYTES_WRITTEN | MS_BLOCK_STATUS | MS_WATCH_OVERFLOW | MS_OP_COUNT | DIR_L2_CONFIG
  | DIR_FLUSH | DIR_ENTRIES_USED | DIR_L2_HITS | DIR_L2_MISSES | DIR_EVICT_COUNT | DIR_COARSE_COUNT
  | DIR_FWD_COUNT | DIR_SNOOP_COUNT | LPD_STATUS | LPD_LINK_CE_COUNT | LPD_UE_COUNT
  | LPD_POISON_USED | LNK_STATUS | LNK_CTRL | LNK_PEER_NODE | LNK_RX_CFG | LNK_TEST_CTRL
  | LNK_INJECT | LNK_CAP_CTRL | LNK_CAP_STATUS | LNK_PEER_DIGEST | LNK_NODE_ID | LNK_PRBS | LNK_CNT
  | LNK_PQ_RING | LNK_PQ_CFG | LNK_PQ_STATUS | LNK_PQ_TAIL | LNK_PQ_HEAD | LNK_PQ_DONE | LNK_PQ_ERR
  | CVY_CORE_STATUS | CVY_DBG_HALT | CVY_DBG_RESUME | CVY_DBG_STEP | CVY_DBG_CTRL | CVY_REG_SEL
  | CVY_REG_DATA | CVY_STATE | CVY_PC | CVY_ACTIVE | CVY_LIVE | CVY_PARKED | CVY_TRAP_INFO
  | CVY_TRAP_LANES | CVY_TRAP_PC | CVY_BAR_STATUS | CVY_BAR_RELEASE | CVY_L1_CONFIG | CVY_L1_DIRTY
  | CVY_SEQ_STATUS | CVY_L1_HITS | CVY_L1_MISSES | CVY_RT_STATUS | CVY_RT_STALLS | CVY_FENCE_CYCLES
  | CVY_FENCE_COUNT | ARR_STATUS | ARR_CTRL | ARR_FAULT_STATUS | ARR_SPARE_MAP | ARR_FAULT_INFO
  | ARR_TRANSIENT_COUNT | ARR_PERSIST_COUNT | ARR_MMA_COUNT | ARR_INJECT | ARR_DETOUR_ACTIVE
  | ARR_DETOUR_COUNT | ARR_FLAG_COUNT | ARR_DETOUR_INFO | DBG_CORE_SEL | DBG_CORE_CNT | VLT_STATUS
  | VLT_LANES | VLT_TEMP | VLT_NEAR | VLT_CE_COUNT | VLT_UE_COUNT | VLT_ECC_LAST | VLT_INJECT
  | VLT_READ_LINES | VLT_WRITE_LINES | VLT_TURN_COUNT | DBG_CL_SEL | DBG_CL_CNT | HIF_Q_TAIL
  | HIF_Q_HEAD | HIF_Q_CTRL | HIF_Q_STATUS | HIF_Q_RING | HIF_Q_EVRING | HIF_Q_EVHEAD | HIF_Q_EVTAIL
  | HIF_Q_CANCEL | HIF_Q_CANCEL_STATUS | HIF_Q_GRANTED | WDN_MBX_STATUS | WDN_MBX_CMD | WDN_MBX_ARG
deriving DecidableEq, Repr

/-- A field of a register: bits hi to lo. -/
structure Fld where
  reg : Reg
  hi : Nat
  lo : Nat
deriving DecidableEq, Repr

/-- Where a register sits in its block: offset of instance 0, size in bytes, copies, spacing. -/
structure RegRow where
  off : Nat
  bytes : Nat
  count : Nat
  stride : Nat
deriving DecidableEq, Repr

end Sys2Proof.Machine
end

