-- ==== Sys2Proof/Machine/Regs.lean ====
section
/-! DEFINITION. The register maps of the spec as tables: each register's block, offset, size and instances (R69,
R70, R104, R181, R236, R272, R273, R302, R303, R330, R331, R362, R383, R384, R410, R443, R444, R467, R499, R526,
R546, R565, R566), the access code of each field (R7), the reset values, and the fields by name. -/

namespace Sys2Proof.Machine

/-- Every register. -/
def Reg.all : List Reg :=
  [
    .RLB_STATUS, .RLB_BOOK_VERSION, .RLB_AMEND_COUNT, .RLB_LOCKED_WRITE_COUNT,
    .RLB_LOCKED_WRITE_ADDR, .RLB_CRC, .RLB_DIGEST, .RLB_AMEND_ADDR, .RLB_AMEND_CTRL,
    .RLB_AMEND_STATUS, .HIF_STATUS, .HIF_PORT_STATUS, .HIF_W4_BASE, .HIF_W4_KEY, .HIF_SELF_HART,
    .HIF_SELF_START, .HIF_DROPPED_WRITES, .HIF_CTX_CFG, .HIF_CTX_TAGS, .PWR_STATUS, .PWR_ROOT_CTRL,
    .PWR_PKG_CTRL, .PWR_PKG_STATUS, .PWR_MEASURE, .PWR_REFUSED_COUNT, .PWR_ABORT_COUNT,
    .PWR_FORCED_COUNT, .PWR_WAKE_TOL, .PWR_PART_CREDIT, .PWR_QUAD_STATUS, .PWR_CLUSTER_STATUS,
    .WDN_STATUS, .WDN_SPARE_LEFT, .WDN_ERR_RING, .WDN_ERR_HEAD, .WDN_ERR_TAIL, .WDN_EVENT_CTRL,
    .WDN_PROP, .WDN_PROP_CTRL, .WDN_CORE_BACK] ++
  [
    .WDN_VAULT_BACK, .WDN_QOR_BACK, .PRT_STATUS, .PRT_SLICE_CTRL, .PRT_SAVE_CFG, .PRT_SLOW_RING,
    .PRT_SLOW_HEAD, .PRT_SLOW_TAIL, .PRT_SLOW_CTRL, .PRT_SLOW_LAST, .PRT_PREEMPT_COUNT,
    .PRT_FORCED_COUNT, .PRT_STEAL_COUNT, .PRT_CTX_SAVE, .XLT_INV_VA, .XLT_INV_CTRL, .XLT_INV_STATUS,
    .XLT_KEK_CTRL, .XLT_KEK, .XLT_KEY_DATA, .XLT_KEY_CTRL, .XLT_KEY_STATUS, .XLT_KEY_LOADED,
    .XLT_KEY_DROP_COUNT, .XLT_HKEY, .XLT_REQ_RING, .XLT_RSP_RING, .XLT_REQ_HEAD, .XLT_REQ_TAIL,
    .XLT_RSP_HEAD, .XLT_RSP_TAIL, .XLT_REQ_CTRL, .XLT_PSTATUS, .XLT_MISS_COUNT, .XLT_BAD_RSP,
    .XLT_ROOT, .XLT_CTX_KEYMASK, .XLT_CTX_CTRL, .XLT_CTX_STATUS, .XLT_CTX_FAULT_VA] ++
  [
    .MS_SEL, .MS_OPERAND, .MS_OP, .MS_VALUE, .MS_FORCE_WAKE, .MS_WDOG_CTRL, .MS_WDOG_RING,
    .MS_WDOG_HEAD, .MS_WDOG_TAIL, .MS_WDOG_STATUS, .MS_WDOG_DROPPED, .MS_WDOG_PERIOD, .MOV_CVU_CTRL,
    .MOV_CVU_STATUS, .MOV_CVU_START, .MOV_CVU_LENGTH, .MOV_CVU_VALUE, .MOV_CVU_MS, .DBG_FREEZE_CTRL,
    .DBG_FREEZE_STATUS, .DBG_FREEZE_TIME, .DBG_FREEZE_ORIGIN, .DBG_FREEZE_OTIME, .DBG_FREEZE_LINKS,
    .DBG_JTAG_CTRL, .DBG_ACTIVE, .DBG_ARRAY_BUSY, .DBG_VALU_BUSY, .DBG_MEM_BUSY, .DBG_TRACE_RING,
    .DBG_TRACE_HEAD, .DBG_TRACE_TAIL, .DBG_TRACE_CTRL, .DBG_TRACE_DROPPED, .DBG_ERR, .MOV_STATUS,
    .MOV_FAULT_INFO, .MOV_DROP_COUNT, .MOV_POISON_COUNT, .MOV_DESC_COUNT] ++
  [
    .MOV_BYTES_WRITTEN, .MS_BLOCK_STATUS, .MS_WATCH_OVERFLOW, .MS_OP_COUNT, .DIR_L2_CONFIG,
    .DIR_FLUSH, .DIR_ENTRIES_USED, .DIR_L2_HITS, .DIR_L2_MISSES, .DIR_EVICT_COUNT,
    .DIR_COARSE_COUNT, .DIR_FWD_COUNT, .DIR_SNOOP_COUNT, .LPD_STATUS, .LPD_LINK_CE_COUNT,
    .LPD_UE_COUNT, .LPD_POISON_USED, .LNK_STATUS, .LNK_CTRL, .LNK_PEER_NODE, .LNK_RX_CFG,
    .LNK_TEST_CTRL, .LNK_INJECT, .LNK_CAP_CTRL, .LNK_CAP_STATUS, .LNK_PEER_DIGEST, .LNK_NODE_ID,
    .LNK_PRBS, .LNK_CNT, .LNK_PQ_RING, .LNK_PQ_CFG, .LNK_PQ_STATUS, .LNK_PQ_TAIL, .LNK_PQ_HEAD,
    .LNK_PQ_DONE, .LNK_PQ_ERR, .CVY_CORE_STATUS, .CVY_DBG_HALT, .CVY_DBG_RESUME, .CVY_DBG_STEP] ++
  [
    .CVY_DBG_CTRL, .CVY_REG_SEL, .CVY_REG_DATA, .CVY_STATE, .CVY_PC, .CVY_ACTIVE, .CVY_LIVE,
    .CVY_PARKED, .CVY_TRAP_INFO, .CVY_TRAP_LANES, .CVY_TRAP_PC, .CVY_BAR_STATUS, .CVY_BAR_RELEASE,
    .CVY_L1_CONFIG, .CVY_L1_DIRTY, .CVY_SEQ_STATUS, .CVY_L1_HITS, .CVY_L1_MISSES, .CVY_RT_STATUS,
    .CVY_RT_STALLS, .CVY_FENCE_CYCLES, .CVY_FENCE_COUNT, .ARR_STATUS, .ARR_CTRL, .ARR_FAULT_STATUS,
    .ARR_SPARE_MAP, .ARR_FAULT_INFO, .ARR_TRANSIENT_COUNT, .ARR_PERSIST_COUNT, .ARR_MMA_COUNT,
    .ARR_INJECT, .ARR_DETOUR_ACTIVE, .ARR_DETOUR_COUNT, .ARR_FLAG_COUNT, .ARR_DETOUR_INFO,
    .DBG_CORE_SEL, .DBG_CORE_CNT, .VLT_STATUS, .VLT_LANES, .VLT_TEMP] ++
  [
    .VLT_NEAR, .VLT_CE_COUNT, .VLT_UE_COUNT, .VLT_ECC_LAST, .VLT_INJECT, .VLT_READ_LINES,
    .VLT_WRITE_LINES, .VLT_TURN_COUNT, .DBG_CL_SEL, .DBG_CL_CNT, .HIF_Q_TAIL, .HIF_Q_HEAD,
    .HIF_Q_CTRL, .HIF_Q_STATUS, .HIF_Q_RING, .HIF_Q_EVRING, .HIF_Q_EVHEAD, .HIF_Q_EVTAIL,
    .HIF_Q_CANCEL, .HIF_Q_CANCEL_STATUS, .HIF_Q_GRANTED, .WDN_MBX_STATUS, .WDN_MBX_CMD, .WDN_MBX_ARG]

/-- The block a register belongs to. -/
def Reg.block : Reg → Block
  | .RLB_STATUS | .RLB_BOOK_VERSION | .RLB_AMEND_COUNT | .RLB_LOCKED_WRITE_COUNT
  | .RLB_LOCKED_WRITE_ADDR | .RLB_CRC | .RLB_DIGEST | .RLB_AMEND_ADDR | .RLB_AMEND_CTRL
  | .RLB_AMEND_STATUS => .rlb
  | .HIF_STATUS | .HIF_PORT_STATUS | .HIF_W4_BASE | .HIF_W4_KEY | .HIF_SELF_HART | .HIF_SELF_START
  | .HIF_DROPPED_WRITES | .HIF_CTX_CFG | .HIF_CTX_TAGS => .hif
  | .PWR_STATUS | .PWR_ROOT_CTRL | .PWR_PKG_CTRL | .PWR_PKG_STATUS | .PWR_MEASURE
  | .PWR_REFUSED_COUNT | .PWR_ABORT_COUNT | .PWR_FORCED_COUNT | .PWR_WAKE_TOL | .PWR_PART_CREDIT
  | .PWR_QUAD_STATUS | .PWR_CLUSTER_STATUS => .pwr
  | .WDN_STATUS | .WDN_SPARE_LEFT | .WDN_ERR_RING | .WDN_ERR_HEAD | .WDN_ERR_TAIL | .WDN_EVENT_CTRL
  | .WDN_PROP | .WDN_PROP_CTRL | .WDN_CORE_BACK | .WDN_VAULT_BACK | .WDN_QOR_BACK => .wdn
  | .PRT_STATUS | .PRT_SLICE_CTRL | .PRT_SAVE_CFG | .PRT_SLOW_RING | .PRT_SLOW_HEAD | .PRT_SLOW_TAIL
  | .PRT_SLOW_CTRL | .PRT_SLOW_LAST | .PRT_PREEMPT_COUNT | .PRT_FORCED_COUNT | .PRT_STEAL_COUNT
  | .PRT_CTX_SAVE => .prt
  | .XLT_INV_VA | .XLT_INV_CTRL | .XLT_INV_STATUS | .XLT_KEK_CTRL | .XLT_KEK | .XLT_KEY_DATA
  | .XLT_KEY_CTRL | .XLT_KEY_STATUS | .XLT_KEY_LOADED | .XLT_KEY_DROP_COUNT | .XLT_HKEY
  | .XLT_REQ_RING | .XLT_RSP_RING | .XLT_REQ_HEAD | .XLT_REQ_TAIL | .XLT_RSP_HEAD | .XLT_RSP_TAIL
  | .XLT_REQ_CTRL | .XLT_PSTATUS | .XLT_MISS_COUNT | .XLT_BAD_RSP | .XLT_ROOT | .XLT_CTX_KEYMASK
  | .XLT_CTX_CTRL | .XLT_CTX_STATUS | .XLT_CTX_FAULT_VA => .xlt
  | .MS_SEL | .MS_OPERAND | .MS_OP | .MS_VALUE | .MS_FORCE_WAKE | .MS_WDOG_CTRL | .MS_WDOG_RING
  | .MS_WDOG_HEAD | .MS_WDOG_TAIL | .MS_WDOG_STATUS | .MS_WDOG_DROPPED | .MS_WDOG_PERIOD => .msa
  | .MOV_CVU_CTRL | .MOV_CVU_STATUS | .MOV_CVU_START | .MOV_CVU_LENGTH | .MOV_CVU_VALUE
  | .MOV_CVU_MS => .cvu
  | .DBG_FREEZE_CTRL | .DBG_FREEZE_STATUS | .DBG_FREEZE_TIME | .DBG_FREEZE_ORIGIN
  | .DBG_FREEZE_OTIME | .DBG_FREEZE_LINKS | .DBG_JTAG_CTRL | .DBG_ACTIVE | .DBG_ARRAY_BUSY
  | .DBG_VALU_BUSY | .DBG_MEM_BUSY | .DBG_TRACE_RING | .DBG_TRACE_HEAD | .DBG_TRACE_TAIL
  | .DBG_TRACE_CTRL | .DBG_TRACE_DROPPED | .DBG_ERR => .dbg
  | .MOV_STATUS | .MOV_FAULT_INFO | .MOV_DROP_COUNT | .MOV_POISON_COUNT | .MOV_DESC_COUNT
  | .MOV_BYTES_WRITTEN => .mov
  | .MS_BLOCK_STATUS | .MS_WATCH_OVERFLOW | .MS_OP_COUNT => .msb
  | .DIR_L2_CONFIG | .DIR_FLUSH | .DIR_ENTRIES_USED | .DIR_L2_HITS | .DIR_L2_MISSES
  | .DIR_EVICT_COUNT | .DIR_COARSE_COUNT | .DIR_FWD_COUNT | .DIR_SNOOP_COUNT => .dir
  | .LPD_STATUS | .LPD_LINK_CE_COUNT | .LPD_UE_COUNT | .LPD_POISON_USED => .lpd
  | .LNK_STATUS | .LNK_CTRL | .LNK_PEER_NODE | .LNK_RX_CFG | .LNK_TEST_CTRL | .LNK_INJECT
  | .LNK_CAP_CTRL | .LNK_CAP_STATUS | .LNK_PEER_DIGEST | .LNK_NODE_ID | .LNK_PRBS | .LNK_CNT
  | .LNK_PQ_RING | .LNK_PQ_CFG | .LNK_PQ_STATUS | .LNK_PQ_TAIL | .LNK_PQ_HEAD | .LNK_PQ_DONE
  | .LNK_PQ_ERR => .lnk
  | .CVY_CORE_STATUS | .CVY_DBG_HALT | .CVY_DBG_RESUME | .CVY_DBG_STEP | .CVY_DBG_CTRL
  | .CVY_REG_SEL | .CVY_REG_DATA | .CVY_STATE | .CVY_PC | .CVY_ACTIVE | .CVY_LIVE | .CVY_PARKED
  | .CVY_TRAP_INFO | .CVY_TRAP_LANES | .CVY_TRAP_PC | .CVY_BAR_STATUS | .CVY_BAR_RELEASE
  | .CVY_L1_CONFIG | .CVY_L1_DIRTY | .CVY_SEQ_STATUS | .CVY_L1_HITS | .CVY_L1_MISSES
  | .CVY_RT_STATUS | .CVY_RT_STALLS | .CVY_FENCE_CYCLES | .CVY_FENCE_COUNT => .cvy
  | .ARR_STATUS | .ARR_CTRL | .ARR_FAULT_STATUS | .ARR_SPARE_MAP | .ARR_FAULT_INFO
  | .ARR_TRANSIENT_COUNT | .ARR_PERSIST_COUNT | .ARR_MMA_COUNT | .ARR_INJECT | .ARR_DETOUR_ACTIVE
  | .ARR_DETOUR_COUNT | .ARR_FLAG_COUNT | .ARR_DETOUR_INFO => .arr
  | .DBG_CORE_SEL | .DBG_CORE_CNT => .dbgCore
  | .VLT_STATUS | .VLT_LANES | .VLT_TEMP | .VLT_NEAR | .VLT_CE_COUNT | .VLT_UE_COUNT | .VLT_ECC_LAST
  | .VLT_INJECT | .VLT_READ_LINES | .VLT_WRITE_LINES | .VLT_TURN_COUNT => .vlt
  | .DBG_CL_SEL | .DBG_CL_CNT => .dbgCl
  | .HIF_Q_TAIL | .HIF_Q_HEAD | .HIF_Q_CTRL | .HIF_Q_STATUS | .HIF_Q_RING | .HIF_Q_EVRING
  | .HIF_Q_EVHEAD | .HIF_Q_EVTAIL | .HIF_Q_CANCEL | .HIF_Q_CANCEL_STATUS | .HIF_Q_GRANTED => .qpage
  | .WDN_MBX_STATUS | .WDN_MBX_CMD | .WDN_MBX_ARG => .mbx

/-- Offset in the block, size, how many copies and their spacing. -/
def Reg.row : Reg → RegRow
  | .RLB_STATUS => ⟨0x0, 4, 1, 0x4⟩
  | .RLB_BOOK_VERSION => ⟨0x4, 4, 1, 0x4⟩
  | .RLB_AMEND_COUNT => ⟨0x8, 4, 1, 0x4⟩
  | .RLB_LOCKED_WRITE_COUNT => ⟨0xc, 4, 1, 0x4⟩
  | .RLB_LOCKED_WRITE_ADDR => ⟨0x10, 4, 1, 0x4⟩
  | .RLB_CRC => ⟨0x18, 8, 1, 0x8⟩
  | .RLB_DIGEST => ⟨0x20, 8, 6, 0x8⟩
  | .RLB_AMEND_ADDR => ⟨0x80, 8, 1, 0x8⟩
  | .RLB_AMEND_CTRL => ⟨0x88, 4, 1, 0x4⟩
  | .RLB_AMEND_STATUS => ⟨0x8c, 4, 1, 0x4⟩
  | .HIF_STATUS => ⟨0x0, 4, 1, 0x4⟩
  | .HIF_PORT_STATUS => ⟨0x8, 4, 2, 0x4⟩
  | .HIF_W4_BASE => ⟨0x10, 8, 1, 0x8⟩
  | .HIF_W4_KEY => ⟨0x18, 4, 1, 0x4⟩
  | .HIF_SELF_HART => ⟨0x1c, 4, 1, 0x4⟩
  | .HIF_SELF_START => ⟨0x20, 4, 1, 0x4⟩
  | .HIF_DROPPED_WRITES => ⟨0x24, 4, 1, 0x4⟩
  | .HIF_CTX_CFG => ⟨0x100, 4, 64, 0x8⟩
  | .HIF_CTX_TAGS => ⟨0x104, 4, 64, 0x8⟩
  | .PWR_STATUS => ⟨0x0, 4, 1, 0x4⟩
  | .PWR_ROOT_CTRL => ⟨0x4, 4, 1, 0x4⟩
  | .PWR_PKG_CTRL => ⟨0x8, 4, 1, 0x4⟩
  | .PWR_PKG_STATUS => ⟨0xc, 4, 1, 0x4⟩
  | .PWR_MEASURE => ⟨0x10, 4, 1, 0x4⟩
  | .PWR_REFUSED_COUNT => ⟨0x14, 4, 1, 0x4⟩
  | .PWR_ABORT_COUNT => ⟨0x18, 4, 1, 0x4⟩
  | .PWR_FORCED_COUNT => ⟨0x1c, 4, 1, 0x4⟩
  | .PWR_WAKE_TOL => ⟨0x40, 4, 16, 0x4⟩
  | .PWR_PART_CREDIT => ⟨0x80, 8, 16, 0x8⟩
  | .PWR_QUAD_STATUS => ⟨0x100, 4, 50, 0x4⟩
  | .PWR_CLUSTER_STATUS => ⟨0x200, 4, 200, 0x4⟩
  | .WDN_STATUS => ⟨0x0, 4, 1, 0x4⟩
  | .WDN_SPARE_LEFT => ⟨0x8, 8, 1, 0x8⟩
  | .WDN_ERR_RING => ⟨0x10, 8, 1, 0x8⟩
  | .WDN_ERR_HEAD => ⟨0x18, 4, 1, 0x4⟩
  | .WDN_ERR_TAIL => ⟨0x1c, 4, 1, 0x4⟩
  | .WDN_EVENT_CTRL => ⟨0x20, 4, 1, 0x4⟩
  | .WDN_PROP => ⟨0x100, 8, 32, 0x10⟩
  | .WDN_PROP_CTRL => ⟨0x108, 4, 32, 0x10⟩
  | .WDN_CORE_BACK => ⟨0x400, 4, 64, 0x4⟩
  | .WDN_VAULT_BACK => ⟨0x500, 4, 8, 0x4⟩
  | .WDN_QOR_BACK => ⟨0x520, 4, 4, 0x4⟩
  | .PRT_STATUS => ⟨0x0, 4, 16, 0x80⟩
  | .PRT_SLICE_CTRL => ⟨0x4, 4, 16, 0x80⟩
  | .PRT_SAVE_CFG => ⟨0x8, 8, 16, 0x80⟩
  | .PRT_SLOW_RING => ⟨0x10, 8, 16, 0x80⟩
  | .PRT_SLOW_HEAD => ⟨0x18, 4, 16, 0x80⟩
  | .PRT_SLOW_TAIL => ⟨0x1c, 4, 16, 0x80⟩
  | .PRT_SLOW_CTRL => ⟨0x20, 4, 16, 0x80⟩
  | .PRT_SLOW_LAST => ⟨0x24, 4, 16, 0x80⟩
  | .PRT_PREEMPT_COUNT => ⟨0x28, 8, 16, 0x80⟩
  | .PRT_FORCED_COUNT => ⟨0x30, 8, 16, 0x80⟩
  | .PRT_STEAL_COUNT => ⟨0x38, 8, 16, 0x80⟩
  | .PRT_CTX_SAVE => ⟨0x800, 4, 64, 0x4⟩
  | .XLT_INV_VA => ⟨0x0, 8, 1, 0x8⟩
  | .XLT_INV_CTRL => ⟨0x8, 4, 1, 0x4⟩
  | .XLT_INV_STATUS => ⟨0xc, 4, 1, 0x4⟩
  | .XLT_KEK_CTRL => ⟨0x10, 4, 1, 0x4⟩
  | .XLT_KEK => ⟨0x20, 8, 4, 0x8⟩
  | .XLT_KEY_DATA => ⟨0x40, 8, 9, 0x8⟩
  | .XLT_KEY_CTRL => ⟨0x88, 4, 1, 0x4⟩
  | .XLT_KEY_STATUS => ⟨0x8c, 4, 1, 0x4⟩
  | .XLT_KEY_LOADED => ⟨0x90, 8, 1, 0x8⟩
  | .XLT_KEY_DROP_COUNT => ⟨0x98, 4, 1, 0x4⟩
  | .XLT_HKEY => ⟨0xa0, 4, 24, 0x8⟩
  | .XLT_REQ_RING => ⟨0x400, 8, 16, 0x40⟩
  | .XLT_RSP_RING => ⟨0x408, 8, 16, 0x40⟩
  | .XLT_REQ_HEAD => ⟨0x410, 4, 16, 0x40⟩
  | .XLT_REQ_TAIL => ⟨0x414, 4, 16, 0x40⟩
  | .XLT_RSP_HEAD => ⟨0x418, 4, 16, 0x40⟩
  | .XLT_RSP_TAIL => ⟨0x41c, 4, 16, 0x40⟩
  | .XLT_REQ_CTRL => ⟨0x420, 4, 16, 0x40⟩
  | .XLT_PSTATUS => ⟨0x424, 4, 16, 0x40⟩
  | .XLT_MISS_COUNT => ⟨0x428, 8, 16, 0x40⟩
  | .XLT_BAD_RSP => ⟨0x430, 4, 16, 0x40⟩
  | .XLT_ROOT => ⟨0x800, 8, 64, 0x20⟩
  | .XLT_CTX_KEYMASK => ⟨0x808, 8, 64, 0x20⟩
  | .XLT_CTX_CTRL => ⟨0x810, 4, 64, 0x20⟩
  | .XLT_CTX_STATUS => ⟨0x814, 4, 64, 0x20⟩
  | .XLT_CTX_FAULT_VA => ⟨0x818, 8, 64, 0x20⟩
  | .MS_SEL => ⟨0x0, 8, 1, 0x8⟩
  | .MS_OPERAND => ⟨0x8, 8, 1, 0x8⟩
  | .MS_OP => ⟨0x10, 4, 1, 0x4⟩
  | .MS_VALUE => ⟨0x18, 8, 1, 0x8⟩
  | .MS_FORCE_WAKE => ⟨0x20, 4, 1, 0x4⟩
  | .MS_WDOG_CTRL => ⟨0x100, 4, 16, 0x40⟩
  | .MS_WDOG_RING => ⟨0x108, 8, 16, 0x40⟩
  | .MS_WDOG_HEAD => ⟨0x110, 4, 16, 0x40⟩
  | .MS_WDOG_TAIL => ⟨0x114, 4, 16, 0x40⟩
  | .MS_WDOG_STATUS => ⟨0x118, 4, 16, 0x40⟩
  | .MS_WDOG_DROPPED => ⟨0x11c, 4, 16, 0x40⟩
  | .MS_WDOG_PERIOD => ⟨0x120, 4, 16, 0x40⟩
  | .MOV_CVU_CTRL => ⟨0x0, 4, 16, 0x40⟩
  | .MOV_CVU_STATUS => ⟨0x4, 4, 16, 0x40⟩
  | .MOV_CVU_START => ⟨0x8, 8, 16, 0x40⟩
  | .MOV_CVU_LENGTH => ⟨0x10, 8, 16, 0x40⟩
  | .MOV_CVU_VALUE => ⟨0x18, 8, 16, 0x40⟩
  | .MOV_CVU_MS => ⟨0x20, 8, 16, 0x40⟩
  | .DBG_FREEZE_CTRL => ⟨0x0, 4, 1, 0x4⟩
  | .DBG_FREEZE_STATUS => ⟨0x4, 4, 1, 0x4⟩
  | .DBG_FREEZE_TIME => ⟨0x8, 8, 1, 0x8⟩
  | .DBG_FREEZE_ORIGIN => ⟨0x10, 8, 1, 0x8⟩
  | .DBG_FREEZE_OTIME => ⟨0x18, 8, 1, 0x8⟩
  | .DBG_FREEZE_LINKS => ⟨0x20, 4, 1, 0x4⟩
  | .DBG_JTAG_CTRL => ⟨0x24, 4, 1, 0x4⟩
  | .DBG_ACTIVE => ⟨0x1000, 8, 16, 0x400⟩
  | .DBG_ARRAY_BUSY => ⟨0x1008, 8, 16, 0x400⟩
  | .DBG_VALU_BUSY => ⟨0x1010, 8, 16, 0x400⟩
  | .DBG_MEM_BUSY => ⟨0x1018, 8, 16, 0x400⟩
  | .DBG_TRACE_RING => ⟨0x1200, 8, 16, 0x400⟩
  | .DBG_TRACE_HEAD => ⟨0x1208, 4, 16, 0x400⟩
  | .DBG_TRACE_TAIL => ⟨0x120c, 4, 16, 0x400⟩
  | .DBG_TRACE_CTRL => ⟨0x1210, 8, 16, 0x400⟩
  | .DBG_TRACE_DROPPED => ⟨0x1218, 4, 16, 0x400⟩
  | .DBG_ERR => ⟨0x1080, 8, 256, 0x8⟩
  | .MOV_STATUS => ⟨0x0, 4, 1, 0x4⟩
  | .MOV_FAULT_INFO => ⟨0x8, 8, 1, 0x8⟩
  | .MOV_DROP_COUNT => ⟨0x10, 4, 1, 0x4⟩
  | .MOV_POISON_COUNT => ⟨0x14, 4, 1, 0x4⟩
  | .MOV_DESC_COUNT => ⟨0x18, 8, 1, 0x8⟩
  | .MOV_BYTES_WRITTEN => ⟨0x20, 8, 1, 0x8⟩
  | .MS_BLOCK_STATUS => ⟨0x0, 4, 1, 0x4⟩
  | .MS_WATCH_OVERFLOW => ⟨0x4, 4, 1, 0x4⟩
  | .MS_OP_COUNT => ⟨0x8, 8, 1, 0x8⟩
  | .DIR_L2_CONFIG => ⟨0x0, 4, 1, 0x4⟩
  | .DIR_FLUSH => ⟨0x4, 4, 1, 0x4⟩
  | .DIR_ENTRIES_USED => ⟨0x8, 4, 1, 0x4⟩
  | .DIR_L2_HITS => ⟨0x10, 8, 1, 0x8⟩
  | .DIR_L2_MISSES => ⟨0x18, 8, 1, 0x8⟩
  | .DIR_EVICT_COUNT => ⟨0x20, 4, 1, 0x4⟩
  | .DIR_COARSE_COUNT => ⟨0x24, 4, 1, 0x4⟩
  | .DIR_FWD_COUNT => ⟨0x28, 8, 1, 0x8⟩
  | .DIR_SNOOP_COUNT => ⟨0x30, 8, 1, 0x8⟩
  | .LPD_STATUS => ⟨0x0, 4, 1, 0x4⟩
  | .LPD_LINK_CE_COUNT => ⟨0x4, 4, 1, 0x4⟩
  | .LPD_UE_COUNT => ⟨0x8, 4, 1, 0x4⟩
  | .LPD_POISON_USED => ⟨0xc, 4, 1, 0x4⟩
  | .LNK_STATUS => ⟨0x0, 4, 1, 0x4⟩
  | .LNK_CTRL => ⟨0x4, 4, 1, 0x4⟩
  | .LNK_PEER_NODE => ⟨0x8, 8, 1, 0x8⟩
  | .LNK_RX_CFG => ⟨0x10, 4, 1, 0x4⟩
  | .LNK_TEST_CTRL => ⟨0x14, 4, 1, 0x4⟩
  | .LNK_INJECT => ⟨0x18, 4, 1, 0x4⟩
  | .LNK_CAP_CTRL => ⟨0x1c, 4, 1, 0x4⟩
  | .LNK_CAP_STATUS => ⟨0x20, 4, 1, 0x4⟩
  | .LNK_PEER_DIGEST => ⟨0x28, 8, 6, 0x8⟩
  | .LNK_NODE_ID => ⟨0x60, 8, 1, 0x8⟩
  | .LNK_PRBS => ⟨0x80, 8, 5, 0x8⟩
  | .LNK_CNT => ⟨0x100, 8, 16, 0x8⟩
  | .LNK_PQ_RING => ⟨0x200, 8, 4, 0x20⟩
  | .LNK_PQ_CFG => ⟨0x208, 4, 4, 0x20⟩
  | .LNK_PQ_STATUS => ⟨0x20c, 4, 4, 0x20⟩
  | .LNK_PQ_TAIL => ⟨0x210, 4, 4, 0x20⟩
  | .LNK_PQ_HEAD => ⟨0x214, 4, 4, 0x20⟩
  | .LNK_PQ_DONE => ⟨0x218, 4, 4, 0x20⟩
  | .LNK_PQ_ERR => ⟨0x21c, 4, 4, 0x20⟩
  | .CVY_CORE_STATUS => ⟨0x0, 4, 1, 0x4⟩
  | .CVY_DBG_HALT => ⟨0x8, 4, 1, 0x4⟩
  | .CVY_DBG_RESUME => ⟨0xc, 4, 1, 0x4⟩
  | .CVY_DBG_STEP => ⟨0x10, 4, 1, 0x4⟩
  | .CVY_DBG_CTRL => ⟨0x14, 4, 1, 0x4⟩
  | .CVY_REG_SEL => ⟨0x20, 4, 1, 0x4⟩
  | .CVY_REG_DATA => ⟨0x28, 8, 1, 0x8⟩
  | .CVY_STATE => ⟨0x100, 4, 16, 0x40⟩
  | .CVY_PC => ⟨0x108, 8, 16, 0x40⟩
  | .CVY_ACTIVE => ⟨0x110, 8, 16, 0x40⟩
  | .CVY_LIVE => ⟨0x118, 8, 16, 0x40⟩
  | .CVY_PARKED => ⟨0x120, 8, 16, 0x40⟩
  | .CVY_TRAP_INFO => ⟨0x128, 4, 16, 0x40⟩
  | .CVY_TRAP_LANES => ⟨0x130, 8, 16, 0x40⟩
  | .CVY_TRAP_PC => ⟨0x138, 8, 16, 0x40⟩
  | .CVY_BAR_STATUS => ⟨0x500, 8, 128, 0x8⟩
  | .CVY_BAR_RELEASE => ⟨0x900, 4, 16, 0x8⟩
  | .CVY_L1_CONFIG => ⟨0xa00, 4, 1, 0x4⟩
  | .CVY_L1_DIRTY => ⟨0xa04, 4, 1, 0x4⟩
  | .CVY_SEQ_STATUS => ⟨0xa08, 4, 1, 0x4⟩
  | .CVY_L1_HITS => ⟨0xa10, 8, 1, 0x8⟩
  | .CVY_L1_MISSES => ⟨0xa18, 8, 1, 0x8⟩
  | .CVY_RT_STATUS => ⟨0xa20, 4, 1, 0x4⟩
  | .CVY_RT_STALLS => ⟨0xa28, 8, 1, 0x8⟩
  | .CVY_FENCE_CYCLES => ⟨0xa30, 8, 1, 0x8⟩
  | .CVY_FENCE_COUNT => ⟨0xa38, 8, 1, 0x8⟩
  | .ARR_STATUS => ⟨0x0, 4, 1, 0x4⟩
  | .ARR_CTRL => ⟨0x4, 4, 1, 0x4⟩
  | .ARR_FAULT_STATUS => ⟨0x8, 4, 1, 0x4⟩
  | .ARR_SPARE_MAP => ⟨0xc, 4, 1, 0x4⟩
  | .ARR_FAULT_INFO => ⟨0x10, 8, 1, 0x8⟩
  | .ARR_TRANSIENT_COUNT => ⟨0x18, 4, 1, 0x4⟩
  | .ARR_PERSIST_COUNT => ⟨0x1c, 4, 1, 0x4⟩
  | .ARR_MMA_COUNT => ⟨0x20, 8, 1, 0x8⟩
  | .ARR_INJECT => ⟨0x28, 4, 1, 0x4⟩
  | .ARR_DETOUR_ACTIVE => ⟨0x30, 4, 1, 0x4⟩
  | .ARR_DETOUR_COUNT => ⟨0x34, 4, 1, 0x4⟩
  | .ARR_FLAG_COUNT => ⟨0x38, 4, 1, 0x4⟩
  | .ARR_DETOUR_INFO => ⟨0x40, 8, 1, 0x8⟩
  | .DBG_CORE_SEL => ⟨0x0, 8, 8, 0x10⟩
  | .DBG_CORE_CNT => ⟨0x8, 8, 8, 0x10⟩
  | .VLT_STATUS => ⟨0x0, 4, 1, 0x4⟩
  | .VLT_LANES => ⟨0x4, 4, 1, 0x4⟩
  | .VLT_TEMP => ⟨0x8, 4, 1, 0x4⟩
  | .VLT_NEAR => ⟨0xc, 4, 1, 0x4⟩
  | .VLT_CE_COUNT => ⟨0x10, 4, 1, 0x4⟩
  | .VLT_UE_COUNT => ⟨0x14, 4, 1, 0x4⟩
  | .VLT_ECC_LAST => ⟨0x18, 8, 1, 0x8⟩
  | .VLT_INJECT => ⟨0x20, 4, 1, 0x4⟩
  | .VLT_READ_LINES => ⟨0x28, 8, 1, 0x8⟩
  | .VLT_WRITE_LINES => ⟨0x30, 8, 1, 0x8⟩
  | .VLT_TURN_COUNT => ⟨0x38, 8, 1, 0x8⟩
  | .DBG_CL_SEL => ⟨0x0, 8, 16, 0x10⟩
  | .DBG_CL_CNT => ⟨0x8, 8, 16, 0x10⟩
  | .HIF_Q_TAIL => ⟨0x0, 4, 1, 0x4⟩
  | .HIF_Q_HEAD => ⟨0x4, 4, 1, 0x4⟩
  | .HIF_Q_CTRL => ⟨0x8, 4, 1, 0x4⟩
  | .HIF_Q_STATUS => ⟨0xc, 4, 1, 0x4⟩
  | .HIF_Q_RING => ⟨0x10, 8, 1, 0x8⟩
  | .HIF_Q_EVRING => ⟨0x18, 8, 1, 0x8⟩
  | .HIF_Q_EVHEAD => ⟨0x20, 4, 1, 0x4⟩
  | .HIF_Q_EVTAIL => ⟨0x24, 4, 1, 0x4⟩
  | .HIF_Q_CANCEL => ⟨0x28, 8, 1, 0x8⟩
  | .HIF_Q_CANCEL_STATUS => ⟨0x30, 4, 1, 0x4⟩
  | .HIF_Q_GRANTED => ⟨0x34, 4, 1, 0x4⟩
  | .WDN_MBX_STATUS => ⟨0x8, 4, 1, 0x4⟩
  | .WDN_MBX_CMD => ⟨0xc, 4, 1, 0x4⟩
  | .WDN_MBX_ARG => ⟨0x10, 4, 4, 0x4⟩

/-- The fields of a register that are not Reserved: high bit, low bit and access code. -/
def Reg.fields : Reg → List (Nat × Nat × Acc)

  | .RLB_STATUS => [(15, 15, .RO), (14, 14, .RO), (13, 13, .RO), (12, 12, .RO), (11, 10, .RO), (9, 8, .RO), (4, 4, .RO), (3, 0, .RO)]
  | .RLB_BOOK_VERSION => [(31, 0, .RO)]
  | .RLB_AMEND_COUNT => [(31, 0, .RO)]
  | .RLB_LOCKED_WRITE_COUNT => [(31, 0, .RO)]
  | .RLB_LOCKED_WRITE_ADDR => [(25, 0, .RO)]
  | .RLB_CRC => [(63, 0, .RO)]
  | .RLB_DIGEST => [(63, 0, .RO)]
  | .RLB_AMEND_ADDR => [(63, 7, .RW)]
  | .RLB_AMEND_CTRL => [(31, 31, .WO)]
  | .RLB_AMEND_STATUS => [(27, 24, .RO), (8, 8, .W1C), (7, 0, .RO)]
  | .HIF_STATUS => [(9, 9, .W1C), (8, 8, .RO), (2, 2, .RO), (1, 0, .RO)]
  | .HIF_PORT_STATUS => [(27, 22, .RO), (21, 20, .RO), (19, 19, .RO), (12, 8, .RO), (3, 0, .RO)]
  | .HIF_W4_BASE => [(63, 30, .RW)]
  | .HIF_W4_KEY => [(5, 0, .RW)]
  | .HIF_SELF_HART => [(4, 0, .RW)]
  | .HIF_SELF_START => [(23, 0, .W1S)]
  | .HIF_DROPPED_WRITES => [(31, 0, .RO)]
  | .HIF_CTX_CFG => [(31, 31, .RW), (19, 16, .RW), (15, 15, .RW), (14, 8, .RW)]
  | .HIF_CTX_TAGS => [(28, 16, .RW), (11, 0, .RW)]
  | .PWR_STATUS => [(28, 16, .RO), (15, 15, .RO), (14, 14, .RO), (13, 12, .RO), (9, 0, .RO)]
  | .PWR_ROOT_CTRL => [(31, 31, .WO), (30, 30, .RO), (29, 29, .W1C), (12, 0, .RW)]
  | .PWR_PKG_CTRL => [(31, 31, .WO), (2, 2, .RW), (1, 0, .RW)]
  | .PWR_PKG_STATUS => [(31, 31, .RO), (2, 0, .RO)]
  | .PWR_MEASURE => [(31, 16, .RO), (15, 0, .RO)]
  | .PWR_REFUSED_COUNT => [(31, 0, .RO)]
  | .PWR_ABORT_COUNT => [(31, 0, .RO)]
  | .PWR_FORCED_COUNT => [(31, 0, .RO)]
  | .PWR_WAKE_TOL => [(19, 0, .RW)]
  | .PWR_PART_CREDIT => [(63, 32, .RO), (31, 0, .RO)]
  | .PWR_QUAD_STATUS => [(31, 31, .W1C), (25, 16, .RO), (15, 8, .RO), (0, 0, .RO)]

  | .PWR_CLUSTER_STATUS => [(31, 29, .RO), (28, 28, .RO), (27, 23, .RO), (22, 18, .RO), (15, 8, .RO), (7, 0, .RO)]

  | .WDN_STATUS => [(31, 31, .RO), (30, 30, .RO), (29, 29, .RO), (23, 16, .RO), (15, 15, .W1C), (14, 14, .W1C), (5, 0, .RO)]

  | .WDN_SPARE_LEFT => [(47, 40, .RO), (39, 32, .RO), (31, 24, .RO), (23, 16, .RO), (15, 8, .RO), (7, 0, .RO)]
  | .WDN_ERR_RING => [(63, 12, .RW), (3, 0, .RW)]
  | .WDN_ERR_HEAD => [(12, 0, .RO)]
  | .WDN_ERR_TAIL => [(12, 0, .RW)]
  | .WDN_EVENT_CTRL => [(31, 31, .RW), (13, 13, .RW), (12, 12, .RW), (10, 0, .RW)]

  | .WDN_PROP => [(63, 56, .RO), (55, 52, .RO), (47, 40, .RO), (39, 32, .RO), (31, 24, .RO), (23, 16, .RO), (15, 8, .RO), (7, 0, .RO)]
  | .WDN_PROP_CTRL => [(31, 31, .WO), (30, 29, .RW)]
  | .WDN_CORE_BACK => [(31, 31, .RO), (30, 30, .RO), (15, 8, .RO), (7, 0, .RO)]
  | .WDN_VAULT_BACK => [(31, 31, .RO), (30, 30, .RO), (15, 8, .RO), (7, 0, .RO)]
  | .WDN_QOR_BACK => [(31, 31, .RO), (30, 30, .RO), (15, 8, .RO), (7, 0, .RO)]

  | .PRT_STATUS => [(31, 26, .RO), (25, 25, .RO), (24, 22, .RO), (21, 21, .W1C), (20, 14, .RO), (13, 9, .RO), (8, 8, .W1C)]
  | .PRT_SLICE_CTRL => [(31, 31, .WO), (23, 16, .RW), (9, 0, .RWL)]
  | .PRT_SAVE_CFG => [(47, 42, .RW), (38, 32, .RW), (29, 22, .RW)]
  | .PRT_SLOW_RING => [(63, 12, .RW), (3, 0, .RW)]
  | .PRT_SLOW_HEAD => [(12, 0, .RO)]
  | .PRT_SLOW_TAIL => [(12, 0, .RW)]
  | .PRT_SLOW_CTRL => [(31, 31, .RW), (13, 13, .RW), (12, 12, .RW), (10, 0, .RW)]
  | .PRT_SLOW_LAST => [(31, 16, .RO), (15, 0, .RO)]
  | .PRT_PREEMPT_COUNT => [(63, 0, .RO)]
  | .PRT_FORCED_COUNT => [(63, 0, .RO)]
  | .PRT_STEAL_COUNT => [(63, 0, .RO)]
  | .PRT_CTX_SAVE => [(31, 31, .RO), (5, 0, .RO)]
  | .XLT_INV_VA => [(63, 12, .RW)]
  | .XLT_INV_CTRL => [(31, 31, .WO), (25, 24, .RW), (21, 16, .RW), (15, 0, .RW)]
  | .XLT_INV_STATUS => [(31, 16, .RO), (1, 1, .W1C), (0, 0, .RO)]
  | .XLT_KEK_CTRL => [(31, 31, .WO), (0, 0, .RO)]
  | .XLT_KEK => [(63, 0, .WO)]
  | .XLT_KEY_DATA => [(63, 0, .WO)]
  | .XLT_KEY_CTRL => [(31, 31, .WO), (25, 24, .RW), (5, 0, .RW)]
  | .XLT_KEY_STATUS => [(31, 31, .RO), (7, 0, .RO)]
  | .XLT_KEY_LOADED => [(63, 0, .RO)]
  | .XLT_KEY_DROP_COUNT => [(31, 0, .RO)]
  | .XLT_HKEY => [(5, 0, .RW)]
  | .XLT_REQ_RING => [(63, 12, .RW), (3, 0, .RW)]
  | .XLT_RSP_RING => [(63, 12, .RW), (3, 0, .RW)]
  | .XLT_REQ_HEAD => [(13, 0, .RO)]
  | .XLT_REQ_TAIL => [(13, 0, .RW)]
  | .XLT_RSP_HEAD => [(13, 0, .RO)]
  | .XLT_RSP_TAIL => [(13, 0, .RW)]
  | .XLT_REQ_CTRL => [(31, 31, .RW), (29, 16, .RW), (13, 13, .RW), (12, 12, .RW), (10, 0, .RW)]
  | .XLT_PSTATUS => [(26, 16, .RO), (11, 8, .RO), (1, 1, .W1C), (0, 0, .W1C)]
  | .XLT_MISS_COUNT => [(63, 0, .RO)]
  | .XLT_BAD_RSP => [(31, 0, .RO)]
  | .XLT_ROOT => [(63, 12, .RW)]
  | .XLT_CTX_KEYMASK => [(63, 0, .RW)]
  | .XLT_CTX_CTRL => [(31, 31, .WO), (0, 0, .RW)]
  | .XLT_CTX_STATUS => [(31, 31, .RO), (15, 8, .RO), (7, 0, .RO)]
  | .XLT_CTX_FAULT_VA => [(63, 0, .RO)]
  | .MS_SEL => [(63, 0, .RW)]
  | .MS_OPERAND => [(63, 0, .RW)]
  | .MS_OP => [(31, 31, .WO), (30, 30, .RO), (29, 29, .RO), (1, 0, .RW)]
  | .MS_VALUE => [(63, 0, .RO)]
  | .MS_FORCE_WAKE => [(31, 31, .WO), (30, 30, .RO), (23, 16, .RW), (10, 8, .RW), (3, 0, .RW)]
  | .MS_WDOG_CTRL => [(31, 31, .RW), (12, 12, .RW), (10, 0, .RW)]
  | .MS_WDOG_RING => [(63, 12, .RW), (3, 0, .RW)]
  | .MS_WDOG_HEAD => [(14, 0, .RO)]
  | .MS_WDOG_TAIL => [(14, 0, .RW)]
  | .MS_WDOG_STATUS => [(16, 16, .W1C), (15, 0, .RO)]
  | .MS_WDOG_DROPPED => [(31, 0, .RO)]
  | .MS_WDOG_PERIOD => [(31, 0, .RWL)]

  | .MOV_CVU_CTRL => [(31, 31, .WO), (30, 30, .WO), (29, 29, .WO), (28, 28, .RW), (22, 22, .RW), (21, 16, .RW), (15, 15, .RW), (1, 0, .RW)]
  | .MOV_CVU_STATUS => [(31, 28, .RO), (9, 9, .W1C), (8, 8, .W1C), (7, 0, .RO)]
  | .MOV_CVU_START => [(63, 0, .RW)]
  | .MOV_CVU_LENGTH => [(40, 0, .RW)]
  | .MOV_CVU_VALUE => [(63, 0, .RW)]
  | .MOV_CVU_MS => [(63, 0, .RW)]

  | .DBG_FREEZE_CTRL => [(31, 31, .WO), (30, 30, .WO), (29, 29, .WO), (28, 28, .RW), (27, 27, .RW), (26, 26, .RW), (19, 16, .RW), (15, 0, .RW)]
  | .DBG_FREEZE_STATUS => [(31, 31, .RO), (30, 29, .RO), (28, 24, .RO), (23, 20, .RO), (15, 0, .RO)]
  | .DBG_FREEZE_TIME => [(63, 0, .RO)]
  | .DBG_FREEZE_ORIGIN => [(63, 0, .RO)]
  | .DBG_FREEZE_OTIME => [(63, 0, .RO)]
  | .DBG_FREEZE_LINKS => [(31, 0, .RW)]
  | .DBG_JTAG_CTRL => [(0, 0, .RW)]
  | .DBG_ACTIVE => [(63, 0, .RO)]
  | .DBG_ARRAY_BUSY => [(63, 0, .RO)]
  | .DBG_VALU_BUSY => [(63, 0, .RO)]
  | .DBG_MEM_BUSY => [(63, 0, .RO)]
  | .DBG_TRACE_RING => [(63, 12, .RW), (3, 0, .RW)]
  | .DBG_TRACE_HEAD => [(12, 0, .RO)]
  | .DBG_TRACE_TAIL => [(12, 0, .RW)]

  | .DBG_TRACE_CTRL => [(63, 63, .RW), (62, 62, .RW), (61, 61, .RW), (47, 32, .RW), (31, 16, .RW), (15, 0, .RW)]
  | .DBG_TRACE_DROPPED => [(31, 0, .RO)]
  | .DBG_ERR => [(63, 0, .RO)]
  | .MOV_STATUS => [(22, 16, .RO), (11, 8, .RO), (1, 1, .RO), (0, 0, .RO)]

  | .MOV_FAULT_INFO => [(63, 48, .RO), (47, 32, .RO), (31, 20, .RO), (19, 16, .RO), (15, 15, .W1C), (7, 0, .RO)]
  | .MOV_DROP_COUNT => [(31, 0, .RO)]
  | .MOV_POISON_COUNT => [(31, 0, .RO)]
  | .MOV_DESC_COUNT => [(63, 0, .RO)]
  | .MOV_BYTES_WRITTEN => [(63, 0, .RO)]
  | .MS_BLOCK_STATUS => [(10, 0, .RO)]
  | .MS_WATCH_OVERFLOW => [(31, 0, .RO)]
  | .MS_OP_COUNT => [(63, 0, .RO)]
  | .DIR_L2_CONFIG => [(15, 5, .RWL), (4, 0, .RO)]
  | .DIR_FLUSH => [(31, 31, .WO), (0, 0, .RO)]
  | .DIR_ENTRIES_USED => [(16, 0, .RO)]
  | .DIR_L2_HITS => [(63, 0, .RO)]
  | .DIR_L2_MISSES => [(63, 0, .RO)]
  | .DIR_EVICT_COUNT => [(31, 0, .RO)]
  | .DIR_COARSE_COUNT => [(31, 0, .RO)]
  | .DIR_FWD_COUNT => [(63, 0, .RO)]
  | .DIR_SNOOP_COUNT => [(63, 0, .RO)]
  | .LPD_STATUS => [(29, 16, .RO), (15, 12, .RO), (11, 10, .RO), (9, 8, .RO), (2, 0, .RO)]
  | .LPD_LINK_CE_COUNT => [(31, 0, .RO)]
  | .LPD_UE_COUNT => [(31, 0, .RO)]
  | .LPD_POISON_USED => [(31, 0, .RO)]

  | .LNK_STATUS => [(31, 28, .RO), (27, 27, .RO), (26, 24, .RO), (23, 23, .RO), (22, 22, .RO), (21, 21, .W1C), (20, 20, .RO), (19, 18, .RO), (17, 17, .RO), (15, 8, .RO), (7, 0, .RO)]
  | .LNK_CTRL => [(31, 31, .RW), (30, 30, .WO)]
  | .LNK_PEER_NODE => [(63, 0, .RO)]
  | .LNK_RX_CFG => [(31, 31, .RW), (5, 0, .RW)]
  | .LNK_TEST_CTRL => [(31, 31, .WO), (30, 30, .RW), (29, 28, .RW), (27, 27, .RW), (8, 0, .RW)]

  | .LNK_INJECT => [(31, 31, .RW), (30, 30, .RO), (29, 28, .RW), (27, 25, .RW), (24, 15, .RW), (14, 0, .RW)]

  | .LNK_CAP_CTRL => [(31, 31, .WO), (30, 30, .WO), (29, 28, .RW), (26, 22, .RW), (21, 20, .RW), (16, 8, .RW)]
  | .LNK_CAP_STATUS => [(31, 31, .RO), (30, 30, .RO), (29, 29, .RO), (7, 0, .RO)]
  | .LNK_PEER_DIGEST => [(63, 0, .RO)]
  | .LNK_NODE_ID => [(63, 0, .RW)]
  | .LNK_PRBS => [(63, 63, .RO), (31, 0, .W1C)]
  | .LNK_CNT => [(63, 0, .RO)]
  | .LNK_PQ_RING => [(63, 12, .RW), (3, 0, .RW)]
  | .LNK_PQ_CFG => [(31, 31, .RW), (30, 30, .WO), (29, 29, .WO), (5, 0, .RW)]
  | .LNK_PQ_STATUS => [(31, 29, .RO), (15, 8, .RO), (0, 0, .W1C)]
  | .LNK_PQ_TAIL => [(31, 0, .RW)]
  | .LNK_PQ_HEAD => [(31, 0, .RO)]
  | .LNK_PQ_DONE => [(31, 0, .RO)]
  | .LNK_PQ_ERR => [(31, 0, .RO)]
  | .CVY_CORE_STATUS => [(27, 23, .RO), (22, 12, .RO), (11, 8, .RO), (4, 0, .RO)]
  | .CVY_DBG_HALT => [(15, 0, .W1S)]
  | .CVY_DBG_RESUME => [(15, 0, .WO)]
  | .CVY_DBG_STEP => [(15, 0, .WO)]
  | .CVY_DBG_CTRL => [(1, 1, .RW), (0, 0, .RW)]

  | .CVY_REG_SEL => [(31, 31, .WO), (30, 30, .RW), (29, 29, .RO), (27, 24, .RW), (23, 22, .RW), (21, 16, .RW), (15, 14, .RW), (6, 0, .RW)]
  | .CVY_REG_DATA => [(63, 0, .RW)]

  | .CVY_STATE => [(31, 28, .RO), (27, 24, .RO), (23, 20, .RO), (19, 16, .RO), (15, 10, .RO), (7, 0, .RO)]
  | .CVY_PC => [(63, 0, .RO)]
  | .CVY_ACTIVE => [(63, 0, .RO)]
  | .CVY_LIVE => [(63, 0, .RO)]
  | .CVY_PARKED => [(63, 0, .RO)]
  | .CVY_TRAP_INFO => [(16, 16, .W1C), (7, 0, .RO)]
  | .CVY_TRAP_LANES => [(63, 0, .RO)]
  | .CVY_TRAP_PC => [(63, 0, .RO)]
  | .CVY_BAR_STATUS => [(47, 32, .RO), (31, 16, .RO), (0, 0, .RO)]
  | .CVY_BAR_RELEASE => [(7, 0, .WO)]
  | .CVY_L1_CONFIG => [(15, 8, .RWL), (3, 0, .RO)]
  | .CVY_L1_DIRTY => [(10, 0, .RO)]
  | .CVY_SEQ_STATUS => [(19, 16, .RO), (15, 12, .RO), (11, 8, .RO), (7, 4, .RO), (3, 0, .RO)]
  | .CVY_L1_HITS => [(63, 0, .RO)]
  | .CVY_L1_MISSES => [(63, 0, .RO)]
  | .CVY_RT_STATUS => [(23, 16, .W1C), (7, 7, .RO), (6, 0, .RO)]
  | .CVY_RT_STALLS => [(63, 0, .RO)]
  | .CVY_FENCE_CYCLES => [(63, 0, .RO)]
  | .CVY_FENCE_COUNT => [(63, 0, .RO)]

  | .ARR_STATUS => [(21, 21, .RO), (20, 20, .RO), (19, 19, .RO), (18, 18, .RO), (17, 17, .RO), (15, 12, .RO), (7, 0, .RO)]
  | .ARR_CTRL => [(1, 0, .RWL)]
  | .ARR_FAULT_STATUS => [(18, 18, .RO), (17, 17, .RO), (16, 16, .W1C), (9, 8, .RO), (4, 0, .RO)]
  | .ARR_SPARE_MAP => [(15, 15, .RO), (13, 8, .RO), (7, 7, .RO), (5, 0, .RO)]

  | .ARR_FAULT_INFO => [(63, 48, .RO), (47, 32, .RO), (31, 20, .RO), (19, 16, .RO), (14, 12, .RO), (11, 7, .RO), (5, 0, .RO)]
  | .ARR_TRANSIENT_COUNT => [(31, 0, .RO)]
  | .ARR_PERSIST_COUNT => [(31, 0, .RO)]
  | .ARR_MMA_COUNT => [(63, 0, .RO)]
  | .ARR_INJECT => [(31, 31, .RW), (30, 30, .RW), (21, 16, .RW), (13, 8, .RW), (4, 0, .RW)]
  | .ARR_DETOUR_ACTIVE => [(31, 16, .RO), (15, 0, .RO)]
  | .ARR_DETOUR_COUNT => [(31, 0, .RO)]
  | .ARR_FLAG_COUNT => [(31, 0, .RO)]

  | .ARR_DETOUR_INFO => [(63, 48, .RO), (47, 32, .RO), (31, 20, .RO), (19, 16, .RO), (15, 14, .RO), (13, 11, .RO), (10, 6, .RO), (5, 5, .RO), (4, 4, .RO)]

  | .DBG_CORE_SEL => [(63, 63, .RW), (62, 62, .RW), (61, 61, .RW), (60, 60, .RW), (55, 48, .RW), (47, 32, .RW), (31, 16, .RW), (11, 0, .RW)]
  | .DBG_CORE_CNT => [(63, 63, .W1C), (47, 0, .RW)]
  | .VLT_STATUS => [(11, 10, .RO), (9, 9, .RO), (8, 8, .RO), (7, 7, .RO), (6, 6, .RO), (2, 0, .RO)]
  | .VLT_LANES => [(15, 8, .RO), (3, 0, .RO)]
  | .VLT_TEMP => [(31, 24, .RO), (23, 16, .RO), (15, 8, .RO), (7, 0, .RO)]
  | .VLT_NEAR => [(7, 0, .RO)]
  | .VLT_CE_COUNT => [(31, 0, .RO)]
  | .VLT_UE_COUNT => [(31, 0, .RO)]
  | .VLT_ECC_LAST => [(40, 40, .W1C), (39, 39, .RO), (38, 32, .RO), (22, 0, .RO)]
  | .VLT_INJECT => [(31, 31, .RW), (30, 30, .RW), (22, 16, .RW), (15, 0, .RW)]
  | .VLT_READ_LINES => [(63, 0, .RO)]
  | .VLT_WRITE_LINES => [(63, 0, .RO)]
  | .VLT_TURN_COUNT => [(63, 0, .RO)]

  | .DBG_CL_SEL => [(63, 63, .RW), (62, 62, .RW), (61, 61, .RW), (60, 60, .RW), (55, 48, .RW), (47, 32, .RW), (31, 16, .RW), (11, 0, .RW)]
  | .DBG_CL_CNT => [(63, 63, .W1C), (47, 0, .RW)]
  | .HIF_Q_TAIL => [(31, 0, .RW)]
  | .HIF_Q_HEAD => [(31, 0, .RO)]

  | .HIF_Q_CTRL => [(31, 31, .RW), (30, 30, .WO), (29, 29, .WO), (28, 28, .RW), (27, 27, .RW), (26, 22, .RW), (10, 0, .RW)]

  | .HIF_Q_STATUS => [(31, 29, .RO), (28, 28, .RO), (27, 27, .RO), (26, 26, .W1C), (25, 25, .W1C), (24, 24, .W1C), (23, 16, .RO)]
  | .HIF_Q_RING => [(63, 12, .RW), (3, 0, .RW)]
  | .HIF_Q_EVRING => [(63, 12, .RW), (3, 0, .RW)]
  | .HIF_Q_EVHEAD => [(31, 0, .RO)]
  | .HIF_Q_EVTAIL => [(31, 0, .RW)]
  | .HIF_Q_CANCEL => [(63, 63, .WO), (62, 62, .RW), (31, 0, .RW)]
  | .HIF_Q_CANCEL_STATUS => [(31, 31, .RO), (30, 30, .W1C), (2, 0, .RO)]
  | .HIF_Q_GRANTED => [(31, 0, .RO)]

  | .WDN_MBX_STATUS => [(31, 24, .RO), (23, 16, .RO), (9, 9, .W1C), (8, 8, .W1C), (7, 7, .RO), (3, 0, .RO)]
  | .WDN_MBX_CMD => [(31, 31, .WO), (15, 8, .RW), (7, 0, .RW)]
  | .WDN_MBX_ARG => [(31, 0, .RW)]

/-- The value a register holds after reset (the Reset columns). A field whose Reset column names a route-book value
holds zero until the book loads (R9). -/
def Reg.resetValue (r : Reg) (i : Nat) : Word :=
  match r with
  | .PWR_STATUS => 0x19000000
  | .PWR_ROOT_CTRL => 0x1900
  | .PWR_PKG_CTRL => 0x4
  | .PWR_CLUSTER_STATUS => 0x2000000
  | .PRT_SLICE_CTRL => 0x80000
  | .PRT_SLOW_LAST => 0x1000000
  | .XLT_KEY_LOADED => 0x1
  | .XLT_REQ_CTRL => 0x640000
  | .XLT_CTX_KEYMASK => 0x1
  | .MS_WDOG_CTRL => 0x80000000
  | .DBG_FREEZE_CTRL => 0x1c0f0000
  | .DIR_L2_CONFIG => 0x10
  | .LNK_TEST_CTRL => 0x100
  | .CVY_L1_CONFIG => 0xc
  | .VLT_NEAR => BitVec.ofNat 64 i
  | _ => 0

end Sys2Proof.Machine

/-! ### The fields by name -/

namespace Sys2Proof.Machine.F

abbrev RLB_STATUS_floor_spent : Fld := ⟨.RLB_STATUS, 15, 15⟩
abbrev RLB_STATUS_floor_raised : Fld := ⟨.RLB_STATUS, 14, 14⟩
abbrev RLB_STATUS_copy_b_bad : Fld := ⟨.RLB_STATUS, 13, 13⟩
abbrev RLB_STATUS_copy_a_bad : Fld := ⟨.RLB_STATUS, 12, 12⟩
abbrev RLB_STATUS_source : Fld := ⟨.RLB_STATUS, 11, 10⟩
abbrev RLB_STATUS_key_slot : Fld := ⟨.RLB_STATUS, 9, 8⟩
abbrev RLB_STATUS_sealed : Fld := ⟨.RLB_STATUS, 4, 4⟩
abbrev RLB_STATUS_state : Fld := ⟨.RLB_STATUS, 3, 0⟩
abbrev RLB_BOOK_VERSION_value : Fld := ⟨.RLB_BOOK_VERSION, 31, 0⟩
abbrev RLB_AMEND_COUNT_value : Fld := ⟨.RLB_AMEND_COUNT, 31, 0⟩
abbrev RLB_LOCKED_WRITE_COUNT_value : Fld := ⟨.RLB_LOCKED_WRITE_COUNT, 31, 0⟩
abbrev RLB_LOCKED_WRITE_ADDR_offset : Fld := ⟨.RLB_LOCKED_WRITE_ADDR, 25, 0⟩
abbrev RLB_CRC_value : Fld := ⟨.RLB_CRC, 63, 0⟩
abbrev RLB_DIGEST_value : Fld := ⟨.RLB_DIGEST, 63, 0⟩
abbrev RLB_AMEND_ADDR_addr : Fld := ⟨.RLB_AMEND_ADDR, 63, 7⟩
abbrev RLB_AMEND_CTRL_go : Fld := ⟨.RLB_AMEND_CTRL, 31, 31⟩
abbrev RLB_AMEND_STATUS_partition : Fld := ⟨.RLB_AMEND_STATUS, 27, 24⟩
abbrev RLB_AMEND_STATUS_busy_reject : Fld := ⟨.RLB_AMEND_STATUS, 8, 8⟩
abbrev RLB_AMEND_STATUS_code : Fld := ⟨.RLB_AMEND_STATUS, 7, 0⟩
abbrev HIF_STATUS_ctx_busy : Fld := ⟨.HIF_STATUS, 9, 9⟩
abbrev HIF_STATUS_self_boot_failed : Fld := ⟨.HIF_STATUS, 8, 8⟩
abbrev HIF_STATUS_primary : Fld := ⟨.HIF_STATUS, 2, 2⟩
abbrev HIF_STATUS_mode : Fld := ⟨.HIF_STATUS, 1, 0⟩
abbrev HIF_PORT_STATUS_vf_count : Fld := ⟨.HIF_PORT_STATUS, 27, 22⟩
abbrev HIF_PORT_STATUS_role : Fld := ⟨.HIF_PORT_STATUS, 21, 20⟩
abbrev HIF_PORT_STATUS_cxl : Fld := ⟨.HIF_PORT_STATUS, 19, 19⟩
abbrev HIF_PORT_STATUS_width : Fld := ⟨.HIF_PORT_STATUS, 12, 8⟩
abbrev HIF_PORT_STATUS_speed : Fld := ⟨.HIF_PORT_STATUS, 3, 0⟩
abbrev HIF_W4_BASE_base : Fld := ⟨.HIF_W4_BASE, 63, 30⟩
abbrev HIF_W4_KEY_slot : Fld := ⟨.HIF_W4_KEY, 5, 0⟩
abbrev HIF_SELF_HART_hart : Fld := ⟨.HIF_SELF_HART, 4, 0⟩
abbrev HIF_SELF_START_value : Fld := ⟨.HIF_SELF_START, 23, 0⟩
abbrev HIF_DROPPED_WRITES_count : Fld := ⟨.HIF_DROPPED_WRITES, 31, 0⟩
abbrev HIF_CTX_CFG_enable : Fld := ⟨.HIF_CTX_CFG, 31, 31⟩
abbrev HIF_CTX_CFG_partition : Fld := ⟨.HIF_CTX_CFG, 19, 16⟩
abbrev HIF_CTX_CFG_port : Fld := ⟨.HIF_CTX_CFG, 15, 15⟩
abbrev HIF_CTX_CFG_function : Fld := ⟨.HIF_CTX_CFG, 14, 8⟩
abbrev HIF_CTX_TAGS_tag_count : Fld := ⟨.HIF_CTX_TAGS, 28, 16⟩
abbrev HIF_CTX_TAGS_tag_base : Fld := ⟨.HIF_CTX_TAGS, 11, 0⟩
abbrev PWR_STATUS_root_mhz : Fld := ⟨.PWR_STATUS, 28, 16⟩
abbrev PWR_STATUS_retuning : Fld := ⟨.PWR_STATUS, 15, 15⟩
abbrev PWR_STATUS_limiting : Fld := ⟨.PWR_STATUS, 14, 14⟩
abbrev PWR_STATUS_pkg_state : Fld := ⟨.PWR_STATUS, 13, 12⟩
abbrev PWR_STATUS_envelope : Fld := ⟨.PWR_STATUS, 9, 0⟩
abbrev PWR_ROOT_CTRL_go : Fld := ⟨.PWR_ROOT_CTRL, 31, 31⟩
abbrev PWR_ROOT_CTRL_busy : Fld := ⟨.PWR_ROOT_CTRL, 30, 30⟩
abbrev PWR_ROOT_CTRL_refused : Fld := ⟨.PWR_ROOT_CTRL, 29, 29⟩
abbrev PWR_ROOT_CTRL_target_mhz : Fld := ⟨.PWR_ROOT_CTRL, 12, 0⟩
abbrev PWR_PKG_CTRL_go : Fld := ⟨.PWR_PKG_CTRL, 31, 31⟩
abbrev PWR_PKG_CTRL_p2_auto : Fld := ⟨.PWR_PKG_CTRL, 2, 2⟩
abbrev PWR_PKG_CTRL_target : Fld := ⟨.PWR_PKG_CTRL, 1, 0⟩
abbrev PWR_PKG_STATUS_busy : Fld := ⟨.PWR_PKG_STATUS, 31, 31⟩
abbrev PWR_PKG_STATUS_result : Fld := ⟨.PWR_PKG_STATUS, 2, 0⟩
abbrev PWR_MEASURE_avg_1ms : Fld := ⟨.PWR_MEASURE, 31, 16⟩
abbrev PWR_MEASURE_last_100us : Fld := ⟨.PWR_MEASURE, 15, 0⟩
abbrev PWR_REFUSED_COUNT_count : Fld := ⟨.PWR_REFUSED_COUNT, 31, 0⟩
abbrev PWR_ABORT_COUNT_count : Fld := ⟨.PWR_ABORT_COUNT, 31, 0⟩
abbrev PWR_FORCED_COUNT_count : Fld := ⟨.PWR_FORCED_COUNT, 31, 0⟩
abbrev PWR_WAKE_TOL_us : Fld := ⟨.PWR_WAKE_TOL, 19, 0⟩
abbrev PWR_PART_CREDIT_allowance_mw : Fld := ⟨.PWR_PART_CREDIT, 63, 32⟩
abbrev PWR_PART_CREDIT_pool_mw : Fld := ⟨.PWR_PART_CREDIT, 31, 0⟩
abbrev PWR_QUAD_STATUS_forced : Fld := ⟨.PWR_QUAD_STATUS, 31, 31⟩
abbrev PWR_QUAD_STATUS_voltage_mv : Fld := ⟨.PWR_QUAD_STATUS, 25, 16⟩
abbrev PWR_QUAD_STATUS_temp : Fld := ⟨.PWR_QUAD_STATUS, 15, 8⟩
abbrev PWR_QUAD_STATUS_powered : Fld := ⟨.PWR_QUAD_STATUS, 0, 0⟩
abbrev PWR_CLUSTER_STATUS_state : Fld := ⟨.PWR_CLUSTER_STATUS, 31, 29⟩
abbrev PWR_CLUSTER_STATUS_wake_latched : Fld := ⟨.PWR_CLUSTER_STATUS, 28, 28⟩
abbrev PWR_CLUSTER_STATUS_divider : Fld := ⟨.PWR_CLUSTER_STATUS, 27, 23⟩
abbrev PWR_CLUSTER_STATUS_thermal_cap : Fld := ⟨.PWR_CLUSTER_STATUS, 22, 18⟩
abbrev PWR_CLUSTER_STATUS_temp : Fld := ⟨.PWR_CLUSTER_STATUS, 15, 8⟩
abbrev PWR_CLUSTER_STATUS_gated : Fld := ⟨.PWR_CLUSTER_STATUS, 7, 0⟩
abbrev WDN_STATUS_west_failed : Fld := ⟨.WDN_STATUS, 31, 31⟩
abbrev WDN_STATUS_east_failed : Fld := ⟨.WDN_STATUS, 30, 30⟩
abbrev WDN_STATUS_lead : Fld := ⟨.WDN_STATUS, 29, 29⟩
abbrev WDN_STATUS_restarts : Fld := ⟨.WDN_STATUS, 23, 16⟩
abbrev WDN_STATUS_err_dropped : Fld := ⟨.WDN_STATUS, 15, 15⟩
abbrev WDN_STATUS_reserve_low : Fld := ⟨.WDN_STATUS, 14, 14⟩
abbrev WDN_STATUS_open : Fld := ⟨.WDN_STATUS, 5, 0⟩
abbrev WDN_SPARE_LEFT_east_cores : Fld := ⟨.WDN_SPARE_LEFT, 47, 40⟩
abbrev WDN_SPARE_LEFT_west_cores : Fld := ⟨.WDN_SPARE_LEFT, 39, 32⟩
abbrev WDN_SPARE_LEFT_east_vaults : Fld := ⟨.WDN_SPARE_LEFT, 31, 24⟩
abbrev WDN_SPARE_LEFT_west_vaults : Fld := ⟨.WDN_SPARE_LEFT, 23, 16⟩
abbrev WDN_SPARE_LEFT_east_qor : Fld := ⟨.WDN_SPARE_LEFT, 15, 8⟩
abbrev WDN_SPARE_LEFT_west_qor : Fld := ⟨.WDN_SPARE_LEFT, 7, 0⟩
abbrev WDN_ERR_RING_base : Fld := ⟨.WDN_ERR_RING, 63, 12⟩
abbrev WDN_ERR_RING_log2_entries : Fld := ⟨.WDN_ERR_RING, 3, 0⟩
abbrev WDN_ERR_HEAD_index : Fld := ⟨.WDN_ERR_HEAD, 12, 0⟩
abbrev WDN_ERR_TAIL_index : Fld := ⟨.WDN_ERR_TAIL, 12, 0⟩
abbrev WDN_EVENT_CTRL_enable : Fld := ⟨.WDN_EVENT_CTRL, 31, 31⟩
abbrev WDN_EVENT_CTRL_self : Fld := ⟨.WDN_EVENT_CTRL, 13, 13⟩
abbrev WDN_EVENT_CTRL_port : Fld := ⟨.WDN_EVENT_CTRL, 12, 12⟩
abbrev WDN_EVENT_CTRL_vector : Fld := ⟨.WDN_EVENT_CTRL, 10, 0⟩
abbrev WDN_PROP_kind : Fld := ⟨.WDN_PROP, 63, 56⟩
abbrev WDN_PROP_state : Fld := ⟨.WDN_PROP, 55, 52⟩
abbrev WDN_PROP_partition : Fld := ⟨.WDN_PROP, 47, 40⟩
abbrev WDN_PROP_reason : Fld := ⟨.WDN_PROP, 39, 32⟩
abbrev WDN_PROP_sub : Fld := ⟨.WDN_PROP, 31, 24⟩
abbrev WDN_PROP_row : Fld := ⟨.WDN_PROP, 23, 16⟩
abbrev WDN_PROP_unit : Fld := ⟨.WDN_PROP, 15, 8⟩
abbrev WDN_PROP_slot : Fld := ⟨.WDN_PROP, 7, 0⟩
abbrev WDN_PROP_CTRL_go : Fld := ⟨.WDN_PROP_CTRL, 31, 31⟩
abbrev WDN_PROP_CTRL_decision : Fld := ⟨.WDN_PROP_CTRL, 30, 29⟩
abbrev WDN_CORE_BACK_valid : Fld := ⟨.WDN_CORE_BACK, 31, 31⟩
abbrev WDN_CORE_BACK_bad : Fld := ⟨.WDN_CORE_BACK, 30, 30⟩
abbrev WDN_CORE_BACK_cluster : Fld := ⟨.WDN_CORE_BACK, 15, 8⟩
abbrev WDN_CORE_BACK_unit : Fld := ⟨.WDN_CORE_BACK, 7, 0⟩
abbrev WDN_VAULT_BACK_valid : Fld := ⟨.WDN_VAULT_BACK, 31, 31⟩
abbrev WDN_VAULT_BACK_bad : Fld := ⟨.WDN_VAULT_BACK, 30, 30⟩
abbrev WDN_VAULT_BACK_cluster : Fld := ⟨.WDN_VAULT_BACK, 15, 8⟩
abbrev WDN_VAULT_BACK_unit : Fld := ⟨.WDN_VAULT_BACK, 7, 0⟩
abbrev WDN_QOR_BACK_valid : Fld := ⟨.WDN_QOR_BACK, 31, 31⟩
abbrev WDN_QOR_BACK_bad : Fld := ⟨.WDN_QOR_BACK, 30, 30⟩
abbrev WDN_QOR_BACK_cluster : Fld := ⟨.WDN_QOR_BACK, 15, 8⟩
abbrev WDN_QOR_BACK_unit : Fld := ⟨.WDN_QOR_BACK, 7, 0⟩
abbrev PRT_STATUS_holder : Fld := ⟨.PRT_STATUS, 31, 26⟩
abbrev PRT_STATUS_holder_valid : Fld := ⟨.PRT_STATUS, 25, 25⟩
abbrev PRT_STATUS_phase : Fld := ⟨.PRT_STATUS, 24, 22⟩
abbrev PRT_STATUS_slot_starved : Fld := ⟨.PRT_STATUS, 21, 21⟩
abbrev PRT_STATUS_slots_used : Fld := ⟨.PRT_STATUS, 20, 14⟩
abbrev PRT_STATUS_launches : Fld := ⟨.PRT_STATUS, 13, 9⟩
abbrev PRT_STATUS_slow_dropped : Fld := ⟨.PRT_STATUS, 8, 8⟩
abbrev PRT_SLICE_CTRL_end_now : Fld := ⟨.PRT_SLICE_CTRL, 31, 31⟩
abbrev PRT_SLICE_CTRL_grace : Fld := ⟨.PRT_SLICE_CTRL, 23, 16⟩
abbrev PRT_SLICE_CTRL_quantum : Fld := ⟨.PRT_SLICE_CTRL, 9, 0⟩
abbrev PRT_SAVE_CFG_key : Fld := ⟨.PRT_SAVE_CFG, 47, 42⟩
abbrev PRT_SAVE_CFG_slots : Fld := ⟨.PRT_SAVE_CFG, 38, 32⟩
abbrev PRT_SAVE_CFG_band : Fld := ⟨.PRT_SAVE_CFG, 29, 22⟩
abbrev PRT_SLOW_RING_base : Fld := ⟨.PRT_SLOW_RING, 63, 12⟩
abbrev PRT_SLOW_RING_log2_entries : Fld := ⟨.PRT_SLOW_RING, 3, 0⟩
abbrev PRT_SLOW_HEAD_index : Fld := ⟨.PRT_SLOW_HEAD, 12, 0⟩
abbrev PRT_SLOW_TAIL_index : Fld := ⟨.PRT_SLOW_TAIL, 12, 0⟩
abbrev PRT_SLOW_CTRL_enable : Fld := ⟨.PRT_SLOW_CTRL, 31, 31⟩
abbrev PRT_SLOW_CTRL_self : Fld := ⟨.PRT_SLOW_CTRL, 13, 13⟩
abbrev PRT_SLOW_CTRL_port : Fld := ⟨.PRT_SLOW_CTRL, 12, 12⟩
abbrev PRT_SLOW_CTRL_vector : Fld := ⟨.PRT_SLOW_CTRL, 10, 0⟩
abbrev PRT_SLOW_LAST_slowdown : Fld := ⟨.PRT_SLOW_LAST, 31, 16⟩
abbrev PRT_SLOW_LAST_period : Fld := ⟨.PRT_SLOW_LAST, 15, 0⟩
abbrev PRT_PREEMPT_COUNT_count : Fld := ⟨.PRT_PREEMPT_COUNT, 63, 0⟩
abbrev PRT_FORCED_COUNT_count : Fld := ⟨.PRT_FORCED_COUNT, 63, 0⟩
abbrev PRT_STEAL_COUNT_count : Fld := ⟨.PRT_STEAL_COUNT, 63, 0⟩
abbrev PRT_CTX_SAVE_saved : Fld := ⟨.PRT_CTX_SAVE, 31, 31⟩
abbrev PRT_CTX_SAVE_slot : Fld := ⟨.PRT_CTX_SAVE, 5, 0⟩
abbrev XLT_INV_VA_addr : Fld := ⟨.XLT_INV_VA, 63, 12⟩
abbrev XLT_INV_CTRL_go : Fld := ⟨.XLT_INV_CTRL, 31, 31⟩
abbrev XLT_INV_CTRL_form : Fld := ⟨.XLT_INV_CTRL, 25, 24⟩
abbrev XLT_INV_CTRL_asid : Fld := ⟨.XLT_INV_CTRL, 21, 16⟩
abbrev XLT_INV_CTRL_count_m1 : Fld := ⟨.XLT_INV_CTRL, 15, 0⟩
abbrev XLT_INV_STATUS_completed : Fld := ⟨.XLT_INV_STATUS, 31, 16⟩
abbrev XLT_INV_STATUS_done : Fld := ⟨.XLT_INV_STATUS, 1, 1⟩
abbrev XLT_INV_STATUS_busy : Fld := ⟨.XLT_INV_STATUS, 0, 0⟩
abbrev XLT_KEK_CTRL_load : Fld := ⟨.XLT_KEK_CTRL, 31, 31⟩
abbrev XLT_KEK_CTRL_locked : Fld := ⟨.XLT_KEK_CTRL, 0, 0⟩
abbrev XLT_KEK_value : Fld := ⟨.XLT_KEK, 63, 0⟩
abbrev XLT_KEY_DATA_value : Fld := ⟨.XLT_KEY_DATA, 63, 0⟩
abbrev XLT_KEY_CTRL_go : Fld := ⟨.XLT_KEY_CTRL, 31, 31⟩
abbrev XLT_KEY_CTRL_op : Fld := ⟨.XLT_KEY_CTRL, 25, 24⟩
abbrev XLT_KEY_CTRL_slot : Fld := ⟨.XLT_KEY_CTRL, 5, 0⟩
abbrev XLT_KEY_STATUS_busy : Fld := ⟨.XLT_KEY_STATUS, 31, 31⟩
abbrev XLT_KEY_STATUS_result : Fld := ⟨.XLT_KEY_STATUS, 7, 0⟩
abbrev XLT_KEY_LOADED_slots : Fld := ⟨.XLT_KEY_LOADED, 63, 0⟩
abbrev XLT_KEY_DROP_COUNT_count : Fld := ⟨.XLT_KEY_DROP_COUNT, 31, 0⟩
abbrev XLT_HKEY_slot : Fld := ⟨.XLT_HKEY, 5, 0⟩
abbrev XLT_REQ_RING_base : Fld := ⟨.XLT_REQ_RING, 63, 12⟩
abbrev XLT_REQ_RING_log2_entries : Fld := ⟨.XLT_REQ_RING, 3, 0⟩
abbrev XLT_RSP_RING_base : Fld := ⟨.XLT_RSP_RING, 63, 12⟩
abbrev XLT_RSP_RING_log2_entries : Fld := ⟨.XLT_RSP_RING, 3, 0⟩
abbrev XLT_REQ_HEAD_index : Fld := ⟨.XLT_REQ_HEAD, 13, 0⟩
abbrev XLT_REQ_TAIL_index : Fld := ⟨.XLT_REQ_TAIL, 13, 0⟩
abbrev XLT_RSP_HEAD_index : Fld := ⟨.XLT_RSP_HEAD, 13, 0⟩
abbrev XLT_RSP_TAIL_index : Fld := ⟨.XLT_RSP_TAIL, 13, 0⟩
abbrev XLT_REQ_CTRL_enable : Fld := ⟨.XLT_REQ_CTRL, 31, 31⟩
abbrev XLT_REQ_CTRL_timeout : Fld := ⟨.XLT_REQ_CTRL, 29, 16⟩
abbrev XLT_REQ_CTRL_self : Fld := ⟨.XLT_REQ_CTRL, 13, 13⟩
abbrev XLT_REQ_CTRL_port : Fld := ⟨.XLT_REQ_CTRL, 12, 12⟩
abbrev XLT_REQ_CTRL_vector : Fld := ⟨.XLT_REQ_CTRL, 10, 0⟩
abbrev XLT_PSTATUS_outstanding : Fld := ⟨.XLT_PSTATUS, 26, 16⟩
abbrev XLT_PSTATUS_cache : Fld := ⟨.XLT_PSTATUS, 11, 8⟩
abbrev XLT_PSTATUS_stuck : Fld := ⟨.XLT_PSTATUS, 1, 1⟩
abbrev XLT_PSTATUS_ring_full : Fld := ⟨.XLT_PSTATUS, 0, 0⟩
abbrev XLT_MISS_COUNT_count : Fld := ⟨.XLT_MISS_COUNT, 63, 0⟩
abbrev XLT_BAD_RSP_count : Fld := ⟨.XLT_BAD_RSP, 31, 0⟩
abbrev XLT_ROOT_addr : Fld := ⟨.XLT_ROOT, 63, 12⟩
abbrev XLT_CTX_KEYMASK_slots : Fld := ⟨.XLT_CTX_KEYMASK, 63, 0⟩
abbrev XLT_CTX_CTRL_clear_fault : Fld := ⟨.XLT_CTX_CTRL, 31, 31⟩
abbrev XLT_CTX_CTRL_enable : Fld := ⟨.XLT_CTX_CTRL, 0, 0⟩
abbrev XLT_CTX_STATUS_faulted : Fld := ⟨.XLT_CTX_STATUS, 31, 31⟩
abbrev XLT_CTX_STATUS_kind : Fld := ⟨.XLT_CTX_STATUS, 15, 8⟩
abbrev XLT_CTX_STATUS_cause : Fld := ⟨.XLT_CTX_STATUS, 7, 0⟩
abbrev XLT_CTX_FAULT_VA_va : Fld := ⟨.XLT_CTX_FAULT_VA, 63, 0⟩
abbrev MS_SEL_value : Fld := ⟨.MS_SEL, 63, 0⟩
abbrev MS_OPERAND_value : Fld := ⟨.MS_OPERAND, 63, 0⟩
abbrev MS_OP_go : Fld := ⟨.MS_OP, 31, 31⟩
abbrev MS_OP_busy : Fld := ⟨.MS_OP, 30, 30⟩
abbrev MS_OP_error : Fld := ⟨.MS_OP, 29, 29⟩
abbrev MS_OP_op : Fld := ⟨.MS_OP, 1, 0⟩
abbrev MS_VALUE_value : Fld := ⟨.MS_VALUE, 63, 0⟩
abbrev MS_FORCE_WAKE_go : Fld := ⟨.MS_FORCE_WAKE, 31, 31⟩
abbrev MS_FORCE_WAKE_error : Fld := ⟨.MS_FORCE_WAKE, 30, 30⟩
abbrev MS_FORCE_WAKE_cluster : Fld := ⟨.MS_FORCE_WAKE, 23, 16⟩
abbrev MS_FORCE_WAKE_core_slot : Fld := ⟨.MS_FORCE_WAKE, 10, 8⟩
abbrev MS_FORCE_WAKE_convoy_slot : Fld := ⟨.MS_FORCE_WAKE, 3, 0⟩
abbrev MS_WDOG_CTRL_enable : Fld := ⟨.MS_WDOG_CTRL, 31, 31⟩
abbrev MS_WDOG_CTRL_port : Fld := ⟨.MS_WDOG_CTRL, 12, 12⟩
abbrev MS_WDOG_CTRL_vector : Fld := ⟨.MS_WDOG_CTRL, 10, 0⟩
abbrev MS_WDOG_RING_base : Fld := ⟨.MS_WDOG_RING, 63, 12⟩
abbrev MS_WDOG_RING_log2_entries : Fld := ⟨.MS_WDOG_RING, 3, 0⟩
abbrev MS_WDOG_HEAD_index : Fld := ⟨.MS_WDOG_HEAD, 14, 0⟩
abbrev MS_WDOG_TAIL_index : Fld := ⟨.MS_WDOG_TAIL, 14, 0⟩
abbrev MS_WDOG_STATUS_dropped : Fld := ⟨.MS_WDOG_STATUS, 16, 16⟩
abbrev MS_WDOG_STATUS_hung : Fld := ⟨.MS_WDOG_STATUS, 15, 0⟩
abbrev MS_WDOG_DROPPED_count : Fld := ⟨.MS_WDOG_DROPPED, 31, 0⟩
abbrev MS_WDOG_PERIOD_ms : Fld := ⟨.MS_WDOG_PERIOD, 31, 0⟩
abbrev MOV_CVU_CTRL_go : Fld := ⟨.MOV_CVU_CTRL, 31, 31⟩
abbrev MOV_CVU_CTRL_suspend : Fld := ⟨.MOV_CVU_CTRL, 30, 30⟩
abbrev MOV_CVU_CTRL_abort : Fld := ⟨.MOV_CVU_CTRL, 29, 29⟩
abbrev MOV_CVU_CTRL_init : Fld := ⟨.MOV_CVU_CTRL, 28, 28⟩
abbrev MOV_CVU_CTRL_ms_en : Fld := ⟨.MOV_CVU_CTRL, 22, 22⟩
abbrev MOV_CVU_CTRL_asid : Fld := ⟨.MOV_CVU_CTRL, 21, 16⟩
abbrev MOV_CVU_CTRL_phys : Fld := ⟨.MOV_CVU_CTRL, 15, 15⟩
abbrev MOV_CVU_CTRL_poly : Fld := ⟨.MOV_CVU_CTRL, 1, 0⟩
abbrev MOV_CVU_STATUS_state : Fld := ⟨.MOV_CVU_STATUS, 31, 28⟩
abbrev MOV_CVU_STATUS_write_reject : Fld := ⟨.MOV_CVU_STATUS, 9, 9⟩
abbrev MOV_CVU_STATUS_busy_reject : Fld := ⟨.MOV_CVU_STATUS, 8, 8⟩
abbrev MOV_CVU_STATUS_fault : Fld := ⟨.MOV_CVU_STATUS, 7, 0⟩
abbrev MOV_CVU_START_addr : Fld := ⟨.MOV_CVU_START, 63, 0⟩
abbrev MOV_CVU_LENGTH_length : Fld := ⟨.MOV_CVU_LENGTH, 40, 0⟩
abbrev MOV_CVU_VALUE_value : Fld := ⟨.MOV_CVU_VALUE, 63, 0⟩
abbrev MOV_CVU_MS_handle : Fld := ⟨.MOV_CVU_MS, 63, 0⟩
abbrev DBG_FREEZE_CTRL_freeze : Fld := ⟨.DBG_FREEZE_CTRL, 31, 31⟩
abbrev DBG_FREEZE_CTRL_thaw : Fld := ⟨.DBG_FREEZE_CTRL, 30, 30⟩
abbrev DBG_FREEZE_CTRL_resume : Fld := ⟨.DBG_FREEZE_CTRL, 29, 29⟩
abbrev DBG_FREEZE_CTRL_in_en : Fld := ⟨.DBG_FREEZE_CTRL, 28, 28⟩
abbrev DBG_FREEZE_CTRL_accept_link : Fld := ⟨.DBG_FREEZE_CTRL, 27, 27⟩
abbrev DBG_FREEZE_CTRL_forward : Fld := ⟨.DBG_FREEZE_CTRL, 26, 26⟩
abbrev DBG_FREEZE_CTRL_max_hops : Fld := ⟨.DBG_FREEZE_CTRL, 19, 16⟩
abbrev DBG_FREEZE_CTRL_halt_mask : Fld := ⟨.DBG_FREEZE_CTRL, 15, 0⟩
abbrev DBG_FREEZE_STATUS_frozen : Fld := ⟨.DBG_FREEZE_STATUS, 31, 31⟩
abbrev DBG_FREEZE_STATUS_source : Fld := ⟨.DBG_FREEZE_STATUS, 30, 29⟩
abbrev DBG_FREEZE_STATUS_link : Fld := ⟨.DBG_FREEZE_STATUS, 28, 24⟩
abbrev DBG_FREEZE_STATUS_hops : Fld := ⟨.DBG_FREEZE_STATUS, 23, 20⟩
abbrev DBG_FREEZE_STATUS_ignored : Fld := ⟨.DBG_FREEZE_STATUS, 15, 0⟩
abbrev DBG_FREEZE_TIME_value : Fld := ⟨.DBG_FREEZE_TIME, 63, 0⟩
abbrev DBG_FREEZE_ORIGIN_value : Fld := ⟨.DBG_FREEZE_ORIGIN, 63, 0⟩
abbrev DBG_FREEZE_OTIME_value : Fld := ⟨.DBG_FREEZE_OTIME, 63, 0⟩
abbrev DBG_FREEZE_LINKS_links : Fld := ⟨.DBG_FREEZE_LINKS, 31, 0⟩
abbrev DBG_JTAG_CTRL_enable : Fld := ⟨.DBG_JTAG_CTRL, 0, 0⟩
abbrev DBG_ACTIVE_count : Fld := ⟨.DBG_ACTIVE, 63, 0⟩
abbrev DBG_ARRAY_BUSY_count : Fld := ⟨.DBG_ARRAY_BUSY, 63, 0⟩
abbrev DBG_VALU_BUSY_count : Fld := ⟨.DBG_VALU_BUSY, 63, 0⟩
abbrev DBG_MEM_BUSY_count : Fld := ⟨.DBG_MEM_BUSY, 63, 0⟩
abbrev DBG_TRACE_RING_base : Fld := ⟨.DBG_TRACE_RING, 63, 12⟩
abbrev DBG_TRACE_RING_log2_entries : Fld := ⟨.DBG_TRACE_RING, 3, 0⟩
abbrev DBG_TRACE_HEAD_index : Fld := ⟨.DBG_TRACE_HEAD, 12, 0⟩
abbrev DBG_TRACE_TAIL_index : Fld := ⟨.DBG_TRACE_TAIL, 12, 0⟩
abbrev DBG_TRACE_CTRL_enable : Fld := ⟨.DBG_TRACE_CTRL, 63, 63⟩
abbrev DBG_TRACE_CTRL_f_layer : Fld := ⟨.DBG_TRACE_CTRL, 62, 62⟩
abbrev DBG_TRACE_CTRL_f_op : Fld := ⟨.DBG_TRACE_CTRL, 61, 61⟩
abbrev DBG_TRACE_CTRL_layer : Fld := ⟨.DBG_TRACE_CTRL, 47, 32⟩
abbrev DBG_TRACE_CTRL_operator : Fld := ⟨.DBG_TRACE_CTRL, 31, 16⟩
abbrev DBG_TRACE_CTRL_kinds : Fld := ⟨.DBG_TRACE_CTRL, 15, 0⟩
abbrev DBG_TRACE_DROPPED_count : Fld := ⟨.DBG_TRACE_DROPPED, 31, 0⟩
abbrev DBG_ERR_count : Fld := ⟨.DBG_ERR, 63, 0⟩
abbrev MOV_STATUS_queued : Fld := ⟨.MOV_STATUS, 22, 16⟩
abbrev MOV_STATUS_executing : Fld := ⟨.MOV_STATUS, 11, 8⟩
abbrev MOV_STATUS_prepass : Fld := ⟨.MOV_STATUS, 1, 1⟩
abbrev MOV_STATUS_stalled : Fld := ⟨.MOV_STATUS, 0, 0⟩
abbrev MOV_FAULT_INFO_layer : Fld := ⟨.MOV_FAULT_INFO, 63, 48⟩
abbrev MOV_FAULT_INFO_operator : Fld := ⟨.MOV_FAULT_INFO, 47, 32⟩
abbrev MOV_FAULT_INFO_ctx_tag : Fld := ⟨.MOV_FAULT_INFO, 31, 20⟩
abbrev MOV_FAULT_INFO_core_slot : Fld := ⟨.MOV_FAULT_INFO, 19, 16⟩
abbrev MOV_FAULT_INFO_valid : Fld := ⟨.MOV_FAULT_INFO, 15, 15⟩
abbrev MOV_FAULT_INFO_cause : Fld := ⟨.MOV_FAULT_INFO, 7, 0⟩
abbrev MOV_DROP_COUNT_count : Fld := ⟨.MOV_DROP_COUNT, 31, 0⟩
abbrev MOV_POISON_COUNT_count : Fld := ⟨.MOV_POISON_COUNT, 31, 0⟩
abbrev MOV_DESC_COUNT_count : Fld := ⟨.MOV_DESC_COUNT, 63, 0⟩
abbrev MOV_BYTES_WRITTEN_count : Fld := ⟨.MOV_BYTES_WRITTEN, 63, 0⟩
abbrev MS_BLOCK_STATUS_watch_used : Fld := ⟨.MS_BLOCK_STATUS, 10, 0⟩
abbrev MS_WATCH_OVERFLOW_count : Fld := ⟨.MS_WATCH_OVERFLOW, 31, 0⟩
abbrev MS_OP_COUNT_count : Fld := ⟨.MS_OP_COUNT, 63, 0⟩
abbrev DIR_L2_CONFIG_cluster_kib : Fld := ⟨.DIR_L2_CONFIG, 15, 5⟩
abbrev DIR_L2_CONFIG_cache_ways : Fld := ⟨.DIR_L2_CONFIG, 4, 0⟩
abbrev DIR_FLUSH_go : Fld := ⟨.DIR_FLUSH, 31, 31⟩
abbrev DIR_FLUSH_busy : Fld := ⟨.DIR_FLUSH, 0, 0⟩
abbrev DIR_ENTRIES_USED_entries : Fld := ⟨.DIR_ENTRIES_USED, 16, 0⟩
abbrev DIR_L2_HITS_count : Fld := ⟨.DIR_L2_HITS, 63, 0⟩
abbrev DIR_L2_MISSES_count : Fld := ⟨.DIR_L2_MISSES, 63, 0⟩
abbrev DIR_EVICT_COUNT_count : Fld := ⟨.DIR_EVICT_COUNT, 31, 0⟩
abbrev DIR_COARSE_COUNT_count : Fld := ⟨.DIR_COARSE_COUNT, 31, 0⟩
abbrev DIR_FWD_COUNT_count : Fld := ⟨.DIR_FWD_COUNT, 63, 0⟩
abbrev DIR_SNOOP_COUNT_count : Fld := ⟨.DIR_SNOOP_COUNT, 63, 0⟩
abbrev LPD_STATUS_rate : Fld := ⟨.LPD_STATUS, 29, 16⟩
abbrev LPD_STATUS_channels_trained : Fld := ⟨.LPD_STATUS, 15, 12⟩
abbrev LPD_STATUS_ranks : Fld := ⟨.LPD_STATUS, 11, 10⟩
abbrev LPD_STATUS_capacity : Fld := ⟨.LPD_STATUS, 9, 8⟩
abbrev LPD_STATUS_state : Fld := ⟨.LPD_STATUS, 2, 0⟩
abbrev LPD_LINK_CE_COUNT_count : Fld := ⟨.LPD_LINK_CE_COUNT, 31, 0⟩
abbrev LPD_UE_COUNT_count : Fld := ⟨.LPD_UE_COUNT, 31, 0⟩
abbrev LPD_POISON_USED_count : Fld := ⟨.LPD_POISON_USED, 31, 0⟩
abbrev LNK_STATUS_state : Fld := ⟨.LNK_STATUS, 31, 28⟩
abbrev LNK_STATUS_spare_in : Fld := ⟨.LNK_STATUS, 27, 27⟩
abbrev LNK_STATUS_spare_for : Fld := ⟨.LNK_STATUS, 26, 24⟩
abbrev LNK_STATUS_digest_mismatch : Fld := ⟨.LNK_STATUS, 23, 23⟩
abbrev LNK_STATUS_node_invalid : Fld := ⟨.LNK_STATUS, 22, 22⟩
abbrev LNK_STATUS_stranger : Fld := ⟨.LNK_STATUS, 21, 21⟩
abbrev LNK_STATUS_eth_lane_bad : Fld := ⟨.LNK_STATUS, 20, 20⟩
abbrev LNK_STATUS_role : Fld := ⟨.LNK_STATUS, 19, 18⟩
abbrev LNK_STATUS_peer_valid : Fld := ⟨.LNK_STATUS, 17, 17⟩
abbrev LNK_STATUS_peer_link : Fld := ⟨.LNK_STATUS, 15, 8⟩
abbrev LNK_STATUS_peer_index : Fld := ⟨.LNK_STATUS, 7, 0⟩
abbrev LNK_CTRL_enable : Fld := ⟨.LNK_CTRL, 31, 31⟩
abbrev LNK_CTRL_retrain : Fld := ⟨.LNK_CTRL, 30, 30⟩
abbrev LNK_PEER_NODE_value : Fld := ⟨.LNK_PEER_NODE, 63, 0⟩
abbrev LNK_RX_CFG_enable : Fld := ⟨.LNK_RX_CFG, 31, 31⟩
abbrev LNK_RX_CFG_asid : Fld := ⟨.LNK_RX_CFG, 5, 0⟩
abbrev LNK_TEST_CTRL_go : Fld := ⟨.LNK_TEST_CTRL, 31, 31⟩
abbrev LNK_TEST_CTRL_det : Fld := ⟨.LNK_TEST_CTRL, 30, 30⟩
abbrev LNK_TEST_CTRL_mode : Fld := ⟨.LNK_TEST_CTRL, 29, 28⟩
abbrev LNK_TEST_CTRL_pattern : Fld := ⟨.LNK_TEST_CTRL, 27, 27⟩
abbrev LNK_TEST_CTRL_rate : Fld := ⟨.LNK_TEST_CTRL, 8, 0⟩
abbrev LNK_INJECT_arm : Fld := ⟨.LNK_INJECT, 31, 31⟩
abbrev LNK_INJECT_error : Fld := ⟨.LNK_INJECT, 30, 30⟩
abbrev LNK_INJECT_kind : Fld := ⟨.LNK_INJECT, 29, 28⟩
abbrev LNK_INJECT_lane : Fld := ⟨.LNK_INJECT, 27, 25⟩
abbrev LNK_INJECT_count : Fld := ⟨.LNK_INJECT, 24, 15⟩
abbrev LNK_INJECT_delay : Fld := ⟨.LNK_INJECT, 14, 0⟩
abbrev LNK_CAP_CTRL_go : Fld := ⟨.LNK_CAP_CTRL, 31, 31⟩
abbrev LNK_CAP_CTRL_stop : Fld := ⟨.LNK_CAP_CTRL, 30, 30⟩
abbrev LNK_CAP_CTRL_dir : Fld := ⟨.LNK_CAP_CTRL, 29, 28⟩
abbrev LNK_CAP_CTRL_types : Fld := ⟨.LNK_CAP_CTRL, 26, 22⟩
abbrev LNK_CAP_CTRL_trigger : Fld := ⟨.LNK_CAP_CTRL, 21, 20⟩
abbrev LNK_CAP_CTRL_post : Fld := ⟨.LNK_CAP_CTRL, 16, 8⟩
abbrev LNK_CAP_STATUS_running : Fld := ⟨.LNK_CAP_STATUS, 31, 31⟩
abbrev LNK_CAP_STATUS_triggered : Fld := ⟨.LNK_CAP_STATUS, 30, 30⟩
abbrev LNK_CAP_STATUS_wrapped : Fld := ⟨.LNK_CAP_STATUS, 29, 29⟩
abbrev LNK_CAP_STATUS_next : Fld := ⟨.LNK_CAP_STATUS, 7, 0⟩
abbrev LNK_PEER_DIGEST_value : Fld := ⟨.LNK_PEER_DIGEST, 63, 0⟩
abbrev LNK_NODE_ID_value : Fld := ⟨.LNK_NODE_ID, 63, 0⟩
abbrev LNK_PRBS_locked : Fld := ⟨.LNK_PRBS, 63, 63⟩
abbrev LNK_PRBS_errors : Fld := ⟨.LNK_PRBS, 31, 0⟩
abbrev LNK_CNT_count : Fld := ⟨.LNK_CNT, 63, 0⟩
abbrev LNK_PQ_RING_base : Fld := ⟨.LNK_PQ_RING, 63, 12⟩
abbrev LNK_PQ_RING_log2_entries : Fld := ⟨.LNK_PQ_RING, 3, 0⟩
abbrev LNK_PQ_CFG_enable : Fld := ⟨.LNK_PQ_CFG, 31, 31⟩
abbrev LNK_PQ_CFG_resume : Fld := ⟨.LNK_PQ_CFG, 30, 30⟩
abbrev LNK_PQ_CFG_reset : Fld := ⟨.LNK_PQ_CFG, 29, 29⟩
abbrev LNK_PQ_CFG_asid : Fld := ⟨.LNK_PQ_CFG, 5, 0⟩
abbrev LNK_PQ_STATUS_state : Fld := ⟨.LNK_PQ_STATUS, 31, 29⟩
abbrev LNK_PQ_STATUS_error : Fld := ⟨.LNK_PQ_STATUS, 15, 8⟩
abbrev LNK_PQ_STATUS_bad_tail : Fld := ⟨.LNK_PQ_STATUS, 0, 0⟩
abbrev LNK_PQ_TAIL_count : Fld := ⟨.LNK_PQ_TAIL, 31, 0⟩
abbrev LNK_PQ_HEAD_count : Fld := ⟨.LNK_PQ_HEAD, 31, 0⟩
abbrev LNK_PQ_DONE_count : Fld := ⟨.LNK_PQ_DONE, 31, 0⟩
abbrev LNK_PQ_ERR_count : Fld := ⟨.LNK_PQ_ERR, 31, 0⟩
abbrev CVY_CORE_STATUS_workgroups : Fld := ⟨.CVY_CORE_STATUS, 27, 23⟩
abbrev CVY_CORE_STATUS_reg_units : Fld := ⟨.CVY_CORE_STATUS, 22, 12⟩
abbrev CVY_CORE_STATUS_tiles : Fld := ⟨.CVY_CORE_STATUS, 11, 8⟩
abbrev CVY_CORE_STATUS_convoys : Fld := ⟨.CVY_CORE_STATUS, 4, 0⟩
abbrev CVY_DBG_HALT_slots : Fld := ⟨.CVY_DBG_HALT, 15, 0⟩
abbrev CVY_DBG_RESUME_slots : Fld := ⟨.CVY_DBG_RESUME, 15, 0⟩
abbrev CVY_DBG_STEP_slots : Fld := ⟨.CVY_DBG_STEP, 15, 0⟩
abbrev CVY_DBG_CTRL_halt_on_launch : Fld := ⟨.CVY_DBG_CTRL, 1, 1⟩
abbrev CVY_DBG_CTRL_halt_on_trap : Fld := ⟨.CVY_DBG_CTRL, 0, 0⟩
abbrev CVY_REG_SEL_go : Fld := ⟨.CVY_REG_SEL, 31, 31⟩
abbrev CVY_REG_SEL_dir : Fld := ⟨.CVY_REG_SEL, 30, 30⟩
abbrev CVY_REG_SEL_error : Fld := ⟨.CVY_REG_SEL, 29, 29⟩
abbrev CVY_REG_SEL_slot : Fld := ⟨.CVY_REG_SEL, 27, 24⟩
abbrev CVY_REG_SEL_class : Fld := ⟨.CVY_REG_SEL, 23, 22⟩
abbrev CVY_REG_SEL_lane : Fld := ⟨.CVY_REG_SEL, 21, 16⟩
abbrev CVY_REG_SEL_word : Fld := ⟨.CVY_REG_SEL, 15, 14⟩
abbrev CVY_REG_SEL_index : Fld := ⟨.CVY_REG_SEL, 6, 0⟩
abbrev CVY_REG_DATA_value : Fld := ⟨.CVY_REG_DATA, 63, 0⟩
abbrev CVY_STATE_state : Fld := ⟨.CVY_STATE, 31, 28⟩
abbrev CVY_STATE_bar_index : Fld := ⟨.CVY_STATE, 27, 24⟩
abbrev CVY_STATE_wg_slot : Fld := ⟨.CVY_STATE, 23, 20⟩
abbrev CVY_STATE_convoy_index : Fld := ⟨.CVY_STATE, 19, 16⟩
abbrev CVY_STATE_stack_depth : Fld := ⟨.CVY_STATE, 15, 10⟩
abbrev CVY_STATE_v_regs : Fld := ⟨.CVY_STATE, 7, 0⟩
abbrev CVY_PC_value : Fld := ⟨.CVY_PC, 63, 0⟩
abbrev CVY_ACTIVE_value : Fld := ⟨.CVY_ACTIVE, 63, 0⟩
abbrev CVY_LIVE_value : Fld := ⟨.CVY_LIVE, 63, 0⟩
abbrev CVY_PARKED_value : Fld := ⟨.CVY_PARKED, 63, 0⟩
abbrev CVY_TRAP_INFO_valid : Fld := ⟨.CVY_TRAP_INFO, 16, 16⟩
abbrev CVY_TRAP_INFO_cause : Fld := ⟨.CVY_TRAP_INFO, 7, 0⟩
abbrev CVY_TRAP_LANES_value : Fld := ⟨.CVY_TRAP_LANES, 63, 0⟩
abbrev CVY_TRAP_PC_value : Fld := ⟨.CVY_TRAP_PC, 63, 0⟩
abbrev CVY_BAR_STATUS_missing : Fld := ⟨.CVY_BAR_STATUS, 47, 32⟩
abbrev CVY_BAR_STATUS_arrived : Fld := ⟨.CVY_BAR_STATUS, 31, 16⟩
abbrev CVY_BAR_STATUS_waiting : Fld := ⟨.CVY_BAR_STATUS, 0, 0⟩
abbrev CVY_BAR_RELEASE_barriers : Fld := ⟨.CVY_BAR_RELEASE, 7, 0⟩
abbrev CVY_L1_CONFIG_local_kib : Fld := ⟨.CVY_L1_CONFIG, 15, 8⟩
abbrev CVY_L1_CONFIG_cache_ways : Fld := ⟨.CVY_L1_CONFIG, 3, 0⟩
abbrev CVY_L1_DIRTY_lines : Fld := ⟨.CVY_L1_DIRTY, 10, 0⟩
abbrev CVY_SEQ_STATUS_no_allocate : Fld := ⟨.CVY_SEQ_STATUS, 19, 16⟩
abbrev CVY_SEQ_STATUS_count3 : Fld := ⟨.CVY_SEQ_STATUS, 15, 12⟩
abbrev CVY_SEQ_STATUS_count2 : Fld := ⟨.CVY_SEQ_STATUS, 11, 8⟩
abbrev CVY_SEQ_STATUS_count1 : Fld := ⟨.CVY_SEQ_STATUS, 7, 4⟩
abbrev CVY_SEQ_STATUS_count0 : Fld := ⟨.CVY_SEQ_STATUS, 3, 0⟩
abbrev CVY_L1_HITS_count : Fld := ⟨.CVY_L1_HITS, 63, 0⟩
abbrev CVY_L1_MISSES_count : Fld := ⟨.CVY_L1_MISSES, 63, 0⟩
abbrev CVY_RT_STATUS_peak : Fld := ⟨.CVY_RT_STATUS, 23, 16⟩
abbrev CVY_RT_STATUS_full : Fld := ⟨.CVY_RT_STATUS, 7, 7⟩
abbrev CVY_RT_STATUS_in_use : Fld := ⟨.CVY_RT_STATUS, 6, 0⟩
abbrev CVY_RT_STALLS_count : Fld := ⟨.CVY_RT_STALLS, 63, 0⟩
abbrev CVY_FENCE_CYCLES_count : Fld := ⟨.CVY_FENCE_CYCLES, 63, 0⟩
abbrev CVY_FENCE_COUNT_count : Fld := ⟨.CVY_FENCE_COUNT, 63, 0⟩
abbrev ARR_STATUS_replaying : Fld := ⟨.ARR_STATUS, 21, 21⟩
abbrev ARR_STATUS_stage_busy : Fld := ⟨.ARR_STATUS, 20, 20⟩
abbrev ARR_STATUS_back_complete : Fld := ⟨.ARR_STATUS, 19, 19⟩
abbrev ARR_STATUS_front_valid : Fld := ⟨.ARR_STATUS, 18, 18⟩
abbrev ARR_STATUS_owned : Fld := ⟨.ARR_STATUS, 17, 17⟩
abbrev ARR_STATUS_owner_wg : Fld := ⟨.ARR_STATUS, 15, 12⟩
abbrev ARR_STATUS_tiles_reserved : Fld := ⟨.ARR_STATUS, 7, 0⟩
abbrev ARR_CTRL_ckrow_rate : Fld := ⟨.ARR_CTRL, 1, 0⟩
abbrev ARR_FAULT_STATUS_injected : Fld := ⟨.ARR_FAULT_STATUS, 18, 18⟩
abbrev ARR_FAULT_STATUS_repair_pending : Fld := ⟨.ARR_FAULT_STATUS, 17, 17⟩
abbrev ARR_FAULT_STATUS_faulted : Fld := ⟨.ARR_FAULT_STATUS, 16, 16⟩
abbrev ARR_FAULT_STATUS_located : Fld := ⟨.ARR_FAULT_STATUS, 9, 8⟩
abbrev ARR_FAULT_STATUS_column : Fld := ⟨.ARR_FAULT_STATUS, 4, 0⟩
abbrev ARR_SPARE_MAP_spare1_in : Fld := ⟨.ARR_SPARE_MAP, 15, 15⟩
abbrev ARR_SPARE_MAP_spare1_col : Fld := ⟨.ARR_SPARE_MAP, 13, 8⟩
abbrev ARR_SPARE_MAP_spare0_in : Fld := ⟨.ARR_SPARE_MAP, 7, 7⟩
abbrev ARR_SPARE_MAP_spare0_col : Fld := ⟨.ARR_SPARE_MAP, 5, 0⟩
abbrev ARR_FAULT_INFO_layer : Fld := ⟨.ARR_FAULT_INFO, 63, 48⟩
abbrev ARR_FAULT_INFO_operator : Fld := ⟨.ARR_FAULT_INFO, 47, 32⟩
abbrev ARR_FAULT_INFO_ctx_tag : Fld := ⟨.ARR_FAULT_INFO, 31, 20⟩
abbrev ARR_FAULT_INFO_convoy_slot : Fld := ⟨.ARR_FAULT_INFO, 19, 16⟩
abbrev ARR_FAULT_INFO_tile : Fld := ⟨.ARR_FAULT_INFO, 14, 12⟩
abbrev ARR_FAULT_INFO_fmt_b : Fld := ⟨.ARR_FAULT_INFO, 11, 7⟩
abbrev ARR_FAULT_INFO_row : Fld := ⟨.ARR_FAULT_INFO, 5, 0⟩
abbrev ARR_TRANSIENT_COUNT_count : Fld := ⟨.ARR_TRANSIENT_COUNT, 31, 0⟩
abbrev ARR_PERSIST_COUNT_count : Fld := ⟨.ARR_PERSIST_COUNT, 31, 0⟩
abbrev ARR_MMA_COUNT_count : Fld := ⟨.ARR_MMA_COUNT, 63, 0⟩
abbrev ARR_INJECT_arm : Fld := ⟨.ARR_INJECT, 31, 31⟩
abbrev ARR_INJECT_sticky : Fld := ⟨.ARR_INJECT, 30, 30⟩
abbrev ARR_INJECT_row : Fld := ⟨.ARR_INJECT, 21, 16⟩
abbrev ARR_INJECT_column : Fld := ⟨.ARR_INJECT, 13, 8⟩
abbrev ARR_INJECT_bit : Fld := ⟨.ARR_INJECT, 4, 0⟩
abbrev ARR_DETOUR_ACTIVE_holding : Fld := ⟨.ARR_DETOUR_ACTIVE, 31, 16⟩
abbrev ARR_DETOUR_ACTIVE_detouring : Fld := ⟨.ARR_DETOUR_ACTIVE, 15, 0⟩
abbrev ARR_DETOUR_COUNT_count : Fld := ⟨.ARR_DETOUR_COUNT, 31, 0⟩
abbrev ARR_FLAG_COUNT_count : Fld := ⟨.ARR_FLAG_COUNT, 31, 0⟩
abbrev ARR_DETOUR_INFO_layer : Fld := ⟨.ARR_DETOUR_INFO, 63, 48⟩
abbrev ARR_DETOUR_INFO_operator : Fld := ⟨.ARR_DETOUR_INFO, 47, 32⟩
abbrev ARR_DETOUR_INFO_ctx_tag : Fld := ⟨.ARR_DETOUR_INFO, 31, 20⟩
abbrev ARR_DETOUR_INFO_convoy_slot : Fld := ⟨.ARR_DETOUR_INFO, 19, 16⟩
abbrev ARR_DETOUR_INFO_outcome : Fld := ⟨.ARR_DETOUR_INFO, 15, 14⟩
abbrev ARR_DETOUR_INFO_tile : Fld := ⟨.ARR_DETOUR_INFO, 13, 11⟩
abbrev ARR_DETOUR_INFO_fmt_b : Fld := ⟨.ARR_DETOUR_INFO, 10, 6⟩
abbrev ARR_DETOUR_INFO_uf_crossed : Fld := ⟨.ARR_DETOUR_INFO, 5, 5⟩
abbrev ARR_DETOUR_INFO_sat_crossed : Fld := ⟨.ARR_DETOUR_INFO, 4, 4⟩
abbrev DBG_CORE_SEL_enable : Fld := ⟨.DBG_CORE_SEL, 63, 63⟩
abbrev DBG_CORE_SEL_f_layer : Fld := ⟨.DBG_CORE_SEL, 62, 62⟩
abbrev DBG_CORE_SEL_f_op : Fld := ⟨.DBG_CORE_SEL, 61, 61⟩
abbrev DBG_CORE_SEL_f_tag : Fld := ⟨.DBG_CORE_SEL, 60, 60⟩
abbrev DBG_CORE_SEL_event : Fld := ⟨.DBG_CORE_SEL, 55, 48⟩
abbrev DBG_CORE_SEL_layer : Fld := ⟨.DBG_CORE_SEL, 47, 32⟩
abbrev DBG_CORE_SEL_operator : Fld := ⟨.DBG_CORE_SEL, 31, 16⟩
abbrev DBG_CORE_SEL_ctx_tag : Fld := ⟨.DBG_CORE_SEL, 11, 0⟩
abbrev DBG_CORE_CNT_overflow : Fld := ⟨.DBG_CORE_CNT, 63, 63⟩
abbrev DBG_CORE_CNT_count : Fld := ⟨.DBG_CORE_CNT, 47, 0⟩
abbrev VLT_STATUS_throttle : Fld := ⟨.VLT_STATUS, 11, 10⟩
abbrev VLT_STATUS_doubled_refresh : Fld := ⟨.VLT_STATUS, 9, 9⟩
abbrev VLT_STATUS_retrain_pending : Fld := ⟨.VLT_STATUS, 8, 8⟩
abbrev VLT_STATUS_failed : Fld := ⟨.VLT_STATUS, 7, 7⟩
abbrev VLT_STATUS_backed : Fld := ⟨.VLT_STATUS, 6, 6⟩
abbrev VLT_STATUS_state : Fld := ⟨.VLT_STATUS, 2, 0⟩
abbrev VLT_LANES_bad_lanes : Fld := ⟨.VLT_LANES, 15, 8⟩
abbrev VLT_LANES_spares_used : Fld := ⟨.VLT_LANES, 3, 0⟩
abbrev VLT_TEMP_layer3 : Fld := ⟨.VLT_TEMP, 31, 24⟩
abbrev VLT_TEMP_layer2 : Fld := ⟨.VLT_TEMP, 23, 16⟩
abbrev VLT_TEMP_layer1 : Fld := ⟨.VLT_TEMP, 15, 8⟩
abbrev VLT_TEMP_layer0 : Fld := ⟨.VLT_TEMP, 7, 0⟩
abbrev VLT_NEAR_vault : Fld := ⟨.VLT_NEAR, 7, 0⟩
abbrev VLT_CE_COUNT_count : Fld := ⟨.VLT_CE_COUNT, 31, 0⟩
abbrev VLT_UE_COUNT_count : Fld := ⟨.VLT_UE_COUNT, 31, 0⟩
abbrev VLT_ECC_LAST_valid : Fld := ⟨.VLT_ECC_LAST, 40, 40⟩
abbrev VLT_ECC_LAST_uncorrectable : Fld := ⟨.VLT_ECC_LAST, 39, 39⟩
abbrev VLT_ECC_LAST_symbol : Fld := ⟨.VLT_ECC_LAST, 38, 32⟩
abbrev VLT_ECC_LAST_line : Fld := ⟨.VLT_ECC_LAST, 22, 0⟩
abbrev VLT_INJECT_arm : Fld := ⟨.VLT_INJECT, 31, 31⟩
abbrev VLT_INJECT_two : Fld := ⟨.VLT_INJECT, 30, 30⟩
abbrev VLT_INJECT_symbol : Fld := ⟨.VLT_INJECT, 22, 16⟩
abbrev VLT_INJECT_mask : Fld := ⟨.VLT_INJECT, 15, 0⟩
abbrev VLT_READ_LINES_count : Fld := ⟨.VLT_READ_LINES, 63, 0⟩
abbrev VLT_WRITE_LINES_count : Fld := ⟨.VLT_WRITE_LINES, 63, 0⟩
abbrev VLT_TURN_COUNT_count : Fld := ⟨.VLT_TURN_COUNT, 63, 0⟩
abbrev DBG_CL_SEL_enable : Fld := ⟨.DBG_CL_SEL, 63, 63⟩
abbrev DBG_CL_SEL_f_layer : Fld := ⟨.DBG_CL_SEL, 62, 62⟩
abbrev DBG_CL_SEL_f_op : Fld := ⟨.DBG_CL_SEL, 61, 61⟩
abbrev DBG_CL_SEL_f_tag : Fld := ⟨.DBG_CL_SEL, 60, 60⟩
abbrev DBG_CL_SEL_event : Fld := ⟨.DBG_CL_SEL, 55, 48⟩
abbrev DBG_CL_SEL_layer : Fld := ⟨.DBG_CL_SEL, 47, 32⟩
abbrev DBG_CL_SEL_operator : Fld := ⟨.DBG_CL_SEL, 31, 16⟩
abbrev DBG_CL_SEL_ctx_tag : Fld := ⟨.DBG_CL_SEL, 11, 0⟩
abbrev DBG_CL_CNT_overflow : Fld := ⟨.DBG_CL_CNT, 63, 63⟩
abbrev DBG_CL_CNT_count : Fld := ⟨.DBG_CL_CNT, 47, 0⟩
abbrev HIF_Q_TAIL_count : Fld := ⟨.HIF_Q_TAIL, 31, 0⟩
abbrev HIF_Q_HEAD_count : Fld := ⟨.HIF_Q_HEAD, 31, 0⟩
abbrev HIF_Q_CTRL_enable : Fld := ⟨.HIF_Q_CTRL, 31, 31⟩
abbrev HIF_Q_CTRL_resume : Fld := ⟨.HIF_Q_CTRL, 30, 30⟩
abbrev HIF_Q_CTRL_reset : Fld := ⟨.HIF_Q_CTRL, 29, 29⟩
abbrev HIF_Q_CTRL_irq_en : Fld := ⟨.HIF_Q_CTRL, 28, 28⟩
abbrev HIF_Q_CTRL_self : Fld := ⟨.HIF_Q_CTRL, 27, 27⟩
abbrev HIF_Q_CTRL_hart : Fld := ⟨.HIF_Q_CTRL, 26, 22⟩
abbrev HIF_Q_CTRL_vector : Fld := ⟨.HIF_Q_CTRL, 10, 0⟩
abbrev HIF_Q_STATUS_state : Fld := ⟨.HIF_Q_STATUS, 31, 29⟩
abbrev HIF_Q_STATUS_ctx_faulted : Fld := ⟨.HIF_Q_STATUS, 28, 28⟩
abbrev HIF_Q_STATUS_ev_full : Fld := ⟨.HIF_Q_STATUS, 27, 27⟩
abbrev HIF_Q_STATUS_bad_tail : Fld := ⟨.HIF_Q_STATUS, 26, 26⟩
abbrev HIF_Q_STATUS_bad_vector : Fld := ⟨.HIF_Q_STATUS, 25, 25⟩
abbrev HIF_Q_STATUS_resume_refused : Fld := ⟨.HIF_Q_STATUS, 24, 24⟩
abbrev HIF_Q_STATUS_running : Fld := ⟨.HIF_Q_STATUS, 23, 16⟩
abbrev HIF_Q_RING_base : Fld := ⟨.HIF_Q_RING, 63, 12⟩
abbrev HIF_Q_RING_log2_entries : Fld := ⟨.HIF_Q_RING, 3, 0⟩
abbrev HIF_Q_EVRING_base : Fld := ⟨.HIF_Q_EVRING, 63, 12⟩
abbrev HIF_Q_EVRING_log2_entries : Fld := ⟨.HIF_Q_EVRING, 3, 0⟩
abbrev HIF_Q_EVHEAD_count : Fld := ⟨.HIF_Q_EVHEAD, 31, 0⟩
abbrev HIF_Q_EVTAIL_count : Fld := ⟨.HIF_Q_EVTAIL, 31, 0⟩
abbrev HIF_Q_CANCEL_go : Fld := ⟨.HIF_Q_CANCEL, 63, 63⟩
abbrev HIF_Q_CANCEL_op : Fld := ⟨.HIF_Q_CANCEL, 62, 62⟩
abbrev HIF_Q_CANCEL_seq : Fld := ⟨.HIF_Q_CANCEL, 31, 0⟩
abbrev HIF_Q_CANCEL_STATUS_busy : Fld := ⟨.HIF_Q_CANCEL_STATUS, 31, 31⟩
abbrev HIF_Q_CANCEL_STATUS_busy_reject : Fld := ⟨.HIF_Q_CANCEL_STATUS, 30, 30⟩
abbrev HIF_Q_CANCEL_STATUS_result : Fld := ⟨.HIF_Q_CANCEL_STATUS, 2, 0⟩
abbrev HIF_Q_GRANTED_count : Fld := ⟨.HIF_Q_GRANTED, 31, 0⟩
abbrev WDN_MBX_STATUS_result : Fld := ⟨.WDN_MBX_STATUS, 31, 24⟩
abbrev WDN_MBX_STATUS_cause : Fld := ⟨.WDN_MBX_STATUS, 23, 16⟩
abbrev WDN_MBX_STATUS_busy_reject : Fld := ⟨.WDN_MBX_STATUS, 9, 9⟩
abbrev WDN_MBX_STATUS_done : Fld := ⟨.WDN_MBX_STATUS, 8, 8⟩
abbrev WDN_MBX_STATUS_busy : Fld := ⟨.WDN_MBX_STATUS, 7, 7⟩
abbrev WDN_MBX_STATUS_state : Fld := ⟨.WDN_MBX_STATUS, 3, 0⟩
abbrev WDN_MBX_CMD_go : Fld := ⟨.WDN_MBX_CMD, 31, 31⟩
abbrev WDN_MBX_CMD_tag : Fld := ⟨.WDN_MBX_CMD, 15, 8⟩
abbrev WDN_MBX_CMD_opcode : Fld := ⟨.WDN_MBX_CMD, 7, 0⟩
abbrev WDN_MBX_ARG_value : Fld := ⟨.WDN_MBX_ARG, 31, 0⟩

end Sys2Proof.Machine.F
end

