-- ==== Sys2Proof/Machine/Float.lean ====
section
/-! DEFINITION. Exact floating-point values, one rounding, and the arithmetic of the vector pipes over the wide
formats (R187, R204 to R207, R116 to R119). Nothing here keeps state: every result is a function of its operands. -/

namespace Sys2Proof.Machine

/-- Rounding directions of R114. -/
inductive Rnd where
  | rne | rz | rm | rp | rna | sr
deriving DecidableEq, Repr

/-- The direction a 3-bit rnd field names; codes 6 and 7 are reserved. -/
def Rnd.ofCode : Nat → Option Rnd
  | 0 => some .rne | 1 => some .rz | 2 => some .rm | 3 => some .rp | 4 => some .rna | 5 => some .sr
  | _ => none

/-- A floating-point datum: a NaN, an infinity, or (-1)^neg × m × 2^e. -/
inductive FV where
  | nan
  | inf (neg : Bool)
  | fin (neg : Bool) (m : Nat) (e : Int)
deriving DecidableEq, Repr

def FV.neg : FV → FV
  | .nan => .nan
  | .inf s => .inf (!s)
  | .fin s m e => .fin (!s) m e

def FV.isNan : FV → Bool
  | .nan => true
  | _ => false

def FV.signBit : FV → Bool
  | .nan => false
  | .inf s => s
  | .fin s _ _ => s

/-- An IEEE-structured format: exponent bits and fraction bits (R187). -/
structure FFmt where
  eb : Nat
  fb : Nat
deriving DecidableEq, Repr

def fmtF64 : FFmt := ⟨11, 52⟩
def fmtF32 : FFmt := ⟨8, 23⟩
def fmtF19 : FFmt := ⟨8, 10⟩
def fmtBF16 : FFmt := ⟨8, 7⟩
def fmtF16 : FFmt := ⟨5, 10⟩

def FFmt.bias (f : FFmt) : Nat := 2 ^ (f.eb - 1) - 1
/-- Exponent of the least significant bit of a subnormal. -/
def FFmt.qmin (f : FFmt) : Int := 1 - (f.bias : Int) - f.fb
/-- The canonical NaN of R187. -/
def FFmt.nan (f : FFmt) : Nat := (2 ^ f.eb - 1) * 2 ^ f.fb + 2 ^ (f.fb - 1)
def FFmt.infBits (f : FFmt) (neg : Bool) : Nat := b2n neg * 2 ^ (f.eb + f.fb) + (2 ^ f.eb - 1) * 2 ^ f.fb
def FFmt.maxBits (f : FFmt) (neg : Bool) : Nat := f.infBits neg - 1

/-- The value of a bit pattern (R187). -/
def FFmt.decode (f : FFmt) (n : Nat) : FV :=
  let frac := n % 2 ^ f.fb
  let ex := (n >>> f.fb) % 2 ^ f.eb
  let s := bitAt n (f.eb + f.fb)
  if ex = 2 ^ f.eb - 1 then (if frac = 0 then .inf s else .nan)
  else if ex = 0 then .fin s frac f.qmin
  else .fin s (2 ^ f.fb + frac) (f.qmin + (ex : Int) - 1)

/-- Whether a magnitude is rounded up: `neg` its sign, `odd` the kept value's lowest bit, `twice` twice the discarded
part (with one added for a discarded remainder below it) against `one`, the weight of the kept value's lowest bit. -/
def roundUp (r : Rnd) (neg odd : Bool) (twice one : Nat) : Bool :=
  match r with
  | .rne => one < twice || (twice == one && odd)
  | .rna => one ≤ twice
  | .rz => false
  | .rm => neg && 0 < twice
  | .rp => !neg && 0 < twice
  | .sr => false

/-- `q` (plus a positive remainder below one unit when `sticky`), in units of 2^e, rounded to `p` bits with no bit below
2^qmin: the rounded magnitude and its exponent. A caller that passes `sticky` gives `q` at least p + 2 bits or an
exponent below qmin - 1, so that the remainder never reaches the tie. -/
def roundTo (r : Rnd) (neg : Bool) (q : Nat) (sticky : Bool) (e : Int) (p : Nat) (qmin : Int) : Nat × Int :=
  let len := if q = 0 then 0 else Nat.log2 q + 1
  let t := max (e + len - p) qmin
  if t ≤ e then (q * 2 ^ (e - t).toNat, t)
  else
    let sh := (t - e).toNat
    let kept := q >>> sh
    let twice := 2 * (q % 2 ^ sh) + b2n sticky
    (kept + b2n (roundUp r neg (kept % 2 = 1) twice (2 ^ sh)), t)

/-- The overflow result of IEEE 754 for a direction (R119). -/
def FFmt.overflow (f : FFmt) (r : Rnd) (neg : Bool) : Nat :=
  match r with
  | .rz => f.maxBits neg
  | .rm => if neg then f.infBits neg else f.maxBits neg
  | .rp => if neg then f.maxBits neg else f.infBits neg
  | _ => f.infBits neg

/-- A rounded magnitude m × 2^t (m at most 2^(fb+1), t at least qmin) as bits, or none when it exceeds the largest
finite value. -/
def FFmt.pack (f : FFmt) (neg : Bool) (mt : Nat × Int) : Option Nat :=
  let s := b2n neg * 2 ^ (f.eb + f.fb)
  let (m, t) := if mt.1 = 2 ^ (f.fb + 1) then (2 ^ f.fb, mt.2 + 1) else mt
  if m < 2 ^ f.fb then some (s + m)
  else
    let ex := (t - f.qmin + 1).toNat
    if 2 ^ f.eb - 1 ≤ ex then none else some (s + ex * 2 ^ f.fb + (m - 2 ^ f.fb))

/-- One rounding of an exact magnitude with a sticky remainder into a format. -/
def FFmt.roundMag (f : FFmt) (r : Rnd) (neg : Bool) (q : Nat) (sticky : Bool) (e : Int) : Nat :=
  match f.pack neg (roundTo r neg q sticky e (f.fb + 1) f.qmin) with
  | some n => n
  | none => f.overflow r neg

/-- One rounding of an exact value into a format; a NaN gives the canonical NaN (R205). -/
def FFmt.round (f : FFmt) (r : Rnd) : FV → Nat
  | .nan => f.nan
  | .inf s => f.infBits s
  | .fin s m e => f.roundMag r s m false e

/-! ### Exact arithmetic -/

/-- A signed dyadic number brought to exponent `t`, not above its own. -/
def scaledInt (neg : Bool) (m : Nat) (e t : Int) : Int :=
  let v : Int := (m * 2 ^ (e - t).toNat : Nat)
  if neg then -v else v

def FV.mul (a b : FV) : FV :=
  match a, b with
  | .nan, _ => .nan
  | _, .nan => .nan
  | .inf s, .inf t => .inf (s != t)
  | .inf s, .fin t m _ => if m = 0 then .nan else .inf (s != t)
  | .fin s m _, .inf t => if m = 0 then .nan else .inf (s != t)
  | .fin s m e, .fin t n g => .fin (s != t) (m * n) (e + g)

/-- The exact sum; an exact zero sum of unlike operands is +0, or -0 in direction RM (R206). -/
def FV.add (r : Rnd) (a b : FV) : FV :=
  match a, b with
  | .nan, _ => .nan
  | _, .nan => .nan
  | .inf s, .inf t => if s = t then .inf s else .nan
  | .inf s, .fin _ _ _ => .inf s
  | .fin _ _ _, .inf t => .inf t
  | .fin s m e, .fin t n g =>
    if m = 0 && n = 0 then .fin (if s = t then s else r = .rm) 0 e
    else
      let k := min e g
      let v := scaledInt s m e k + scaledInt t n g k
      if v = 0 then .fin (r = .rm) 0 k else .fin (v < 0) v.natAbs k

/-- Comparison of two data: none when either is a NaN; zeros compare equal (R206). -/
def FV.cmp (a b : FV) : Option Ordering :=
  match a, b with
  | .nan, _ => none
  | _, .nan => none
  | .inf s, .inf t => some (if s = t then .eq else if s then .lt else .gt)
  | .inf s, .fin _ _ _ => some (if s then .lt else .gt)
  | .fin _ _ _, .inf t => some (if t then .gt else .lt)
  | .fin s m e, .fin t n g =>
    let k := min e g
    some (compare (scaledInt s m e k) (scaledInt t n g k))

/-! ### The operations of R117 on bit patterns -/

/-- Inverts the sign bit of a pattern (R205). -/
def FFmt.flip (f : FFmt) (c : Bool) (n : Nat) : Nat := if c then n ^^^ 2 ^ (f.eb + f.fb) else n

def FFmt.fadd (f : FFmt) (r : Rnd) (a b : Nat) : Nat := f.round r ((f.decode a).add r (f.decode b))
def FFmt.fmul (f : FFmt) (r : Rnd) (a b : Nat) : Nat := f.round r ((f.decode a).mul (f.decode b))
/-- a × b + c with one rounding. -/
def FFmt.ffma (f : FFmt) (r : Rnd) (a b c : Nat) : Nat :=
  f.round r (((f.decode a).mul (f.decode b)).add r (f.decode c))

/-- minimumNumber, or maximumNumber when `mx`: -0 orders below +0, and a NaN loses to a number (R206). -/
def FFmt.fminmax (f : FFmt) (mx : Bool) (a b : Nat) : Nat :=
  let x := f.decode a
  let y := f.decode b
  match x.cmp y with
  | none => if x.isNan && y.isNan then f.nan else if x.isNan then b else a
  | some .lt => if mx then b else a
  | some .gt => if mx then a else b
  | some .eq => if x.signBit != mx then a else b

/-- |a|: the sign bit alone is cleared (R205). -/
def FFmt.fabs (f : FFmt) (a : Nat) : Nat := a % 2 ^ (f.eb + f.fb)

/-- IEEE class mask of R117's FCLASS. -/
def FFmt.fclass (f : FFmt) (a : Nat) : Nat :=
  let frac := a % 2 ^ f.fb
  let ex := (a >>> f.fb) % 2 ^ f.eb
  let s := bitAt a (f.eb + f.fb)
  if ex = 2 ^ f.eb - 1 then
    if frac = 0 then (if s then 2 ^ 2 else 2 ^ 9)
    else if bitAt frac (f.fb - 1) then 2 ^ 1 else 2 ^ 0
  else if ex = 0 then
    if frac = 0 then (if s then 2 ^ 5 else 2 ^ 6) else (if s then 2 ^ 4 else 2 ^ 7)
  else if s then 2 ^ 3 else 2 ^ 8

/-- The integer nearest a value in a direction, with the sign. -/
def FV.toIntegral (r : Rnd) (s : Bool) (m : Nat) (e : Int) : Nat :=
  if 0 ≤ e then m * 2 ^ e.toNat else (roundTo r s m false e (Nat.log2 m + 2) 0).1

/-- FRND: rounds to an integral value in the same format; a zero result keeps the operand's sign. -/
def FFmt.frnd (f : FFmt) (r : Rnd) (a : Nat) : Nat :=
  match f.decode a with
  | .nan => f.nan
  | .inf s => f.infBits s
  | .fin s m e => if 0 ≤ e then a else f.round r (.fin s (FV.toIntegral r s m e) 0)

/-! ### Conversions of R119 and R207 -/

/-- A floating value to a two's complement or unsigned integer of `w` bits, saturating; a NaN gives 0. -/
def FV.toInt (r : Rnd) (signed : Bool) (w : Nat) (x : FV) : Int :=
  let hi : Int := if signed then 2 ^ (w - 1) - 1 else 2 ^ w - 1
  let lo : Int := if signed then -(2 ^ (w - 1)) else 0
  match x with
  | .nan => 0
  | .inf s => if s then lo else hi
  | .fin s m e =>
    let v : Int := FV.toIntegral r s m e
    let v := if s then -v else v
    max lo (min hi v)

/-- A value into a floating type; with `sat`, overflow gives the largest finite value of that sign (R119). An infinity
is representable and stays one. -/
def FFmt.cvt (f : FFmt) (r : Rnd) (sat : Bool) (x : FV) : Nat :=
  match x with
  | .fin s m e =>
    match f.pack s (roundTo r s m false e (f.fb + 1) f.qmin) with
    | some n => n
    | none => if sat then f.maxBits s else f.overflow r s
  | x => f.round r x

/-- An integer as an exact datum. -/
def FV.ofInt (i : Int) : FV := .fin (i < 0) i.natAbs 0

/-! ### Special functions of R118, on FP32 patterns

FRCP, FRSQ and FSQRT carry an exact remainder. FEX2, FLG2, FSIN and FCOS are evaluated in fixed point to far more bits
than any FP32 result needs and rounded once; an exact result is recognised. DEDUCED: no FP32 operand brings the exact
value within 2^-190 of a rounding boundary it does not sit on, so the rounding of the evaluation is the correct one. -/

/-- Floor of the square root, bit by bit. -/
def sqrtBits (n : Nat) : Nat → Nat → Nat
  | 0, r => r
  | k + 1, r => sqrtBits n k (if (r + 2 ^ k) * (r + 2 ^ k) ≤ n then r + 2 ^ k else r)

def isqrt (n : Nat) : Nat := sqrtBits n (Nat.log2 n / 2 + 1) 0

def frcp32 (a : Nat) : Nat :=
  match fmtF32.decode a with
  | .nan => fmtF32.nan
  | .inf s => b2n s * 2 ^ 31
  | .fin s m e =>
    if m = 0 then fmtF32.infBits s
    else
      let n := 2 ^ 80
      fmtF32.roundMag .rne s (n / m) (n % m ≠ 0) (-80 - e)

/-- 1/√a. With an even exponent 2h, 1/√(m 2^2h) = √(2^160 / m) × 2^(-80 - h). -/
def frsq32 (a : Nat) : Nat :=
  match fmtF32.decode a with
  | .nan => fmtF32.nan
  | .inf s => if s then fmtF32.nan else 0
  | .fin s m e =>
    if m = 0 then fmtF32.infBits s
    else if s then fmtF32.nan
    else
      let (m, e) := if e % 2 = 0 then (m, e) else (2 * m, e - 1)
      let q := isqrt (2 ^ 160 / m)
      fmtF32.roundMag .rne false q (q * q * m ≠ 2 ^ 160) (-80 - e / 2)

def fsqrt32 (r : Rnd) (a : Nat) : Nat :=
  match fmtF32.decode a with
  | .nan => fmtF32.nan
  | .inf s => if s then fmtF32.nan else a
  | .fin s m e =>
    if m = 0 then a
    else if s then fmtF32.nan
    else
      let (m, e) := if e % 2 = 0 then (m, e) else (2 * m, e - 1)
      let n := m * 2 ^ 80
      let q := isqrt n
      fmtF32.roundMag r false q (q * q ≠ n) (e / 2 - 40)

/-- Fraction bits of the fixed-point evaluations. -/
def fxP : Nat := 320

/-- Σ 1/(k 2^k), the natural logarithm of 2, over k from `i` for `n` terms, in units of 2^-P. -/
def ln2Terms (p : Nat) : Nat → Nat → Nat
  | 0, _ => 0
  | n + 1, i => 2 ^ p / (i * 2 ^ i) + ln2Terms p n (i + 1)

def ln2Fx (p : Nat) : Nat := ln2Terms p p 1

/-- Σ t^k / k! from term `x` (index `k`), `n` terms. -/
def expTerms (p t : Nat) : Nat → Nat → Nat → Nat
  | 0, _, _ => 0
  | n + 1, k, x => x + expTerms p t n (k + 1) (x * t / 2 ^ p / (k + 1))

def fex2_32 (a : Nat) : Nat :=
  match fmtF32.decode a with
  | .nan => fmtF32.nan
  | .inf s => if s then 0 else fmtF32.infBits false
  | .fin s m e =>
    -- beyond ±2^8 the result overflows, or is below half the smallest subnormal
    if m ≠ 0 && (Nat.log2 m : Int) + e ≥ 8 then (if s then 0 else fmtF32.infBits false)
    else
      let v := scaledInt s m e (-fxP)
      let i := v / 2 ^ fxP
      let f := (v % 2 ^ fxP).toNat
      if f = 0 then fmtF32.roundMag .rne false 1 false i
      else
        let t := f * ln2Fx fxP / 2 ^ fxP
        fmtF32.roundMag .rne false (expTerms fxP t 100 0 (2 ^ fxP)) true (i - fxP)

/-- Bits of log2 of y (in [1, 2), units of 2^-P): the bits found so far, and the last y. -/
def log2Bits (p : Nat) : Nat → Nat → Nat → Nat × Nat
  | 0, y, acc => (acc, y)
  | n + 1, y, acc =>
    let z := y * y / 2 ^ p
    if 2 ^ (p + 1) ≤ z then log2Bits p n (z / 2) (2 * acc + 1) else log2Bits p n z (2 * acc)

def flg2_32 (a : Nat) : Nat :=
  match fmtF32.decode a with
  | .nan => fmtF32.nan
  | .inf s => if s then fmtF32.nan else fmtF32.infBits false
  | .fin s m e =>
    if m = 0 then fmtF32.infBits true
    else if s then fmtF32.nan
    else
      let l := Nat.log2 m
      let (f, _) := log2Bits fxP 260 (m * 2 ^ (fxP - l)) 0
      let exact := m = 2 ^ l
      let v : Int := ((l : Int) + e) * 2 ^ 260 + f
      if exact then fmtF32.round .rne (FV.ofInt ((l : Int) + e))
      -- a negative value lies between v and v + 1 units: its magnitude is (|v| - 1) units and a remainder
      else if v < 0 then fmtF32.roundMag .rne true (v.natAbs - 1) true (-260)
      else fmtF32.roundMag .rne false v.toNat true (-260)

/-- Σ (-1)^k / ((2k+1) n^(2k+1)), as `pos - neg` sums, `x` = 2^P / n^(2k+1). -/
def atanInv (n2 : Nat) : Nat → Nat → Nat → Int
  | 0, _, _ => 0
  | j + 1, k, x => (x / (2 * k + 1) : Nat) - atanInv n2 j (k + 1) (x / n2)

/-- π in units of 2^-p (Machin). -/
def piFx (p : Nat) : Nat :=
  let g := p + 16
  ((16 * atanInv 25 (g / 4) 0 (2 ^ g / 5) - 4 * atanInv 57121 (g / 15) 0 (2 ^ g / 239)) / 2 ^ 16).toNat

/-- Alternating Taylor sum from term `x` with index `k`: x - x t²/((k+1)(k+2)) + … -/
def trigTerms (p t2 : Nat) : Nat → Nat → Nat → Int
  | 0, _, _ => 0
  | n + 1, k, x => (x : Int) - trigTerms p t2 n (k + 2) (x * t2 / 2 ^ p / ((k + 1) * (k + 2)))

/-- sin (`quarter` 0) or cos (`quarter` 1) of m × 2^e, m not zero: sign and magnitude in units of 2^-P. -/
def trigFx (quarter : Nat) (m : Nat) (e : Int) : Bool × Nat :=
  let g := fxP + 160
  let x := m * 2 ^ (e + g).toNat            -- e ≥ -149, so this is exact
  let h := piFx (g + 160)                   -- π in units of 2^-(g+160)
  let n := x * 2 ^ 161 / h                  -- floor of x / (π/2)
  let r := (x - n * h / 2 ^ 161) / 2 ^ 160  -- remainder in units of 2^-P
  let t2 := r * r / 2 ^ fxP
  let q := (n + quarter) % 4
  let v := if q % 2 = 0 then trigTerms fxP t2 60 1 r else trigTerms fxP t2 60 0 (2 ^ fxP)
  (2 ≤ q, v.natAbs)

def fsin32 (a : Nat) : Nat :=
  match fmtF32.decode a with
  | .nan => fmtF32.nan
  | .inf _ => fmtF32.nan
  | .fin s m e =>
    if m = 0 then a
    else
      let (g, v) := trigFx 0 m e
      fmtF32.roundMag .rne (s != g) v true (-fxP)

def fcos32 (a : Nat) : Nat :=
  match fmtF32.decode a with
  | .nan => fmtF32.nan
  | .inf _ => fmtF32.nan
  | .fin _ m e =>
    if m = 0 then fmtF32.round .rne (.fin false 1 0)
    else
      let (g, v) := trigFx 1 m e
      fmtF32.roundMag .rne g v true (-fxP)

/-- IDIVS: quotient and remainder of R118, on 32-bit patterns. -/
def idivs (signed : Bool) (a b : Nat) : Nat × Nat :=
  if b % 2 ^ 32 = 0 then (2 ^ 32 - 1, a % 2 ^ 32)
  else if signed then
    let x := toSigned 32 a
    let y := toSigned 32 b
    (ofInt 32 (x.tdiv y), ofInt 32 (x.tmod y))
  else ((a % 2 ^ 32) / (b % 2 ^ 32), (a % 2 ^ 32) % (b % 2 ^ 32))

end Sys2Proof.Machine
end

