-- ==== Sys2Proof/Machine/Formats.lean ====
section
/-! DEFINITION. The seventeen element formats, their encoding and decoding, block scales, the stochastic-rounding
generator and the exact accumulation cell (R182 to R215, R217, R218, R229). -/

namespace Sys2Proof.Machine

/-- A codebook: sixteen FP16 patterns (R46, R192). -/
abbrev Codebook := List Nat

/-- A narrow floating-point format: exponent bits, fraction bits, bias (R188). -/
structure NFmt where
  eb : Nat
  fb : Nat
  bias : Nat
deriving DecidableEq, Repr

/-- The narrow floating-point format of a format index (R188). -/
def narrowFmt : Nat → Option NFmt
  | 5 => some ⟨4, 3, 7⟩
  | 6 => some ⟨5, 2, 15⟩
  | 7 => some ⟨3, 2, 3⟩
  | 8 => some ⟨2, 3, 1⟩
  | 9 => some ⟨2, 1, 1⟩
  | _ => none

/-- The wide format of a format index (R182). -/
def wideFmt : Nat → Option FFmt
  | 0 => some fmtF64
  | 1 => some fmtF32
  | 2 => some fmtF19
  | 3 => some fmtBF16
  | 4 => some fmtF16
  | _ => none

/-- Storage width in bits of a format index (R182); codebooks are 4 bits wide (R183). -/
def fmtWidth : Nat → Nat
  | 0 => 64 | 1 => 32 | 2 => 32 | 3 => 16 | 4 => 16 | 5 => 8 | 6 => 8 | 7 => 8 | 8 => 8 | 9 => 4 | 10 => 32
  | 11 => 8 | 12 => 4 | 13 => 2 | 14 => 2 | 15 => 1 | _ => 4

def NFmt.qmin (f : NFmt) : Int := 1 - (f.bias : Int) - f.fb

/-- The code of the largest finite magnitude (R188). -/
def maxCode : Nat → Nat
  | 5 => 0x7e | 6 => 0x7b | 7 => 0x1f | 8 => 0x1f | 9 => 7 | _ => 0

/-- Value of a finite narrow code. -/
def NFmt.finite (f : NFmt) (code : Nat) : FV :=
  let frac := code % 2 ^ f.fb
  let ex := (code >>> f.fb) % 2 ^ f.eb
  let s := bitAt code (f.eb + f.fb)
  if ex = 0 then .fin s frac f.qmin else .fin s (2 ^ f.fb + frac) (f.qmin + (ex : Int) - 1)

/-- The value of an element code of format `fmt` (R184 to R193); codebook entries are FP16 values. -/
def elemVal (fmt : Nat) (cb : Codebook) (code : Nat) : FV :=
  match fmt with
  | 0 => fmtF64.decode code
  | 1 => fmtF32.decode code
  | 2 => fmtF19.decode (code >>> 13)
  | 3 => fmtBF16.decode code
  | 4 => fmtF16.decode code
  | 5 => if code % 128 = 0x7f then .nan else NFmt.finite ⟨4, 3, 7⟩ code
  | 6 => FFmt.decode ⟨5, 2⟩ code
  | 7 => NFmt.finite ⟨3, 2, 3⟩ (code % 64)
  | 8 => NFmt.finite ⟨2, 3, 1⟩ (code % 64)
  | 9 => NFmt.finite ⟨2, 1, 1⟩ (code % 16)
  | 10 => FV.ofInt (toSigned 32 code)
  | 11 => FV.ofInt (toSigned 8 code)
  | 12 => FV.ofInt (toSigned 4 code)
  | 13 => FV.ofInt (toSigned 2 code)
  | 14 => FV.ofInt (match code % 4 with | 1 => 1 | 3 => -1 | _ => 0)
  | 15 => FV.ofInt (if code % 2 = 1 then 1 else -1)
  | _ => fmtF16.decode (cb.getD (code % 16) 0)

/-- The generator of R229. -/
def sr16 (seed idx : Nat) : Nat :=
  let m := 2 ^ 64
  let z := (seed + (idx + 1) * 0x9E3779B97F4A7C15) % m
  let z := ((z ^^^ (z >>> 30)) * 0xBF58476D1CE4E5B9) % m
  let z := ((z ^^^ (z >>> 27)) * 0x94D049BB133111EB) % m
  let z := z ^^^ (z >>> 31)
  z >>> 48

/-- Rounding of an exact magnitude in any direction, stochastic rounding with the 16-bit value `r16` (R200, R203). -/
def roundNarrow (r : Rnd) (r16 : Nat) (neg : Bool) (m : Nat) (e : Int) (p : Nat) (qmin : Int) : Nat × Int :=
  match r with
  | .sr =>
    let len := if m = 0 then 0 else Nat.log2 m + 1
    let t := max (e + len - p) qmin
    if t ≤ e then (m * 2 ^ (e - t).toNat, t)
    else
      let sh := (t - e).toNat
      let up := r16 < (m % 2 ^ sh) * 65536 / 2 ^ sh
      ((m >>> sh) + b2n up, t)
  | r => roundTo r neg m false e p qmin

/-- Whether m × 2^e exceeds n × 2^g. -/
def magLt (n : Nat) (g : Int) (m : Nat) (e : Int) : Bool :=
  let k := min e g
  n * 2 ^ (g - k).toNat < m * 2 ^ (e - k).toNat

/-- The largest finite magnitude of a narrow format. -/
def NFmt.maxMag (fmt : Nat) (f : NFmt) : Nat × Int :=
  match f.finite (maxCode fmt) with
  | .fin _ m e => (m, e)
  | _ => (0, 0)

/-- Saturating conversion to a two's complement element code (R190, R200, R201). -/
def encodeInt (lo hi : Int) (w : Nat) (r : Rnd) (r16 : Nat) (x : FV) : Nat :=
  match x with
  | .nan => 0
  | .inf s => ofInt w (if s then lo else hi)
  | .fin s m e =>
    let q := roundNarrow r r16 s m e (Nat.log2 m + 2) 0
    let v : Int := (q.1 * 2 ^ q.2.toNat : Nat)
    ofInt w (max lo (min hi (if s then -v else v)))

/-- The distance of two finite data, as a magnitude in units of 2^t. -/
def fvDist (t : Int) (x y : FV) : Nat :=
  match x, y with
  | .fin s m e, .fin u n g => (scaledInt s m e t - scaledInt u n g t).natAbs
  | _, _ => 0

/-- The position of the smallest measure in a list, the lowest on a tie. -/
def argMin (f : Nat → Nat) (l : List Nat) : Nat := (minBy f l).getD 0

/-- The mover's encoding into a codebook (R194). -/
def lutEncode (cb : Codebook) (x : FV) : Nat :=
  let v (c : Nat) : FV := fmtF16.decode (cb.getD c 0)
  let codes := List.range 16
  let big : Int := 2 ^ 40
  let num (c : Nat) : Int := match v c with
    | .fin s m e => scaledInt s m e (-24)
    | _ => 0
  match x with
  | .nan => argMin (fun c => (num c).natAbs) codes
  | .inf s => argMin (fun c => (if s then num c + big else big - num c).toNat) codes
  | .fin _ _ e => argMin (fun c => fvDist (min e (-24)) x (v c)) codes

/-- The code of a source value in a narrow or codebook format (R200 to R203, R218). `sgn` is the source's sign bit,
which a binary conversion takes even from a NaN. -/
def encodeElem (fmt : Nat) (cb : Codebook) (r : Rnd) (sat umark : Bool) (r16 : Nat) (sgn : Bool) (x : FV) : Nat :=
  match fmt with
  | 11 => encodeInt (-128) 127 8 r r16 x
  | 12 => encodeInt (-8) 7 4 r r16 x
  | 13 => encodeInt (-2) 1 2 r r16 x
  | 14 => encodeInt (-1) 1 2 r r16 x
  | 15 => if sgn then 0 else 1
  | _ =>
    match narrowFmt fmt with
    | none => lutEncode cb x
    | some f =>
      let sbit := 2 ^ (f.eb + f.fb)
      let top (s : Bool) : Nat := b2n s * sbit + maxCode fmt
      let tooBig (s : Bool) : Nat :=
        if sat then top s
        else match fmt with
          | 5 => 0x7f
          | 6 => b2n s * sbit + 0x7c
          | _ => top s
      match x with
      | .nan => if fmt = 5 || fmt = 6 then 0x7f else 0
      | .inf s => tooBig s
      | .fin s m e =>
        let q := roundNarrow r r16 s m e (f.fb + 1) f.qmin
        let (qm, qt) := if q.1 = 2 ^ (f.fb + 1) then (2 ^ f.fb, q.2 + 1) else q
        let mx := NFmt.maxMag fmt f
        if qm = 0 then
          if umark then (if m = 0 then 0 else sbit) else b2n s * sbit
        else if magLt mx.1 mx.2 qm qt then tooBig s
        else if qm < 2 ^ f.fb then b2n s * sbit + qm
        else b2n s * sbit + (qt - f.qmin + 1).toNat * 2 ^ f.fb + (qm - 2 ^ f.fb)

/-- A value into any element format other than a codebook, wide formats included (the mover's conversions, R254). -/
def encodeAny (fmt : Nat) (cb : Codebook) (r : Rnd) (sat umark : Bool) (r16 : Nat) (sgn : Bool) (x : FV) : Nat :=
  match wideFmt fmt with
  | some f => if fmt = 2 then f.cvt r sat x * 2 ^ 13 else f.cvt r sat x
  | none =>
    if fmt = 10 then encodeInt (-(2 ^ 31)) (2 ^ 31 - 1) 32 r r16 x
    else encodeElem fmt cb r sat umark r16 sgn x

/-! ### Sentinels (R217) -/

/-- The value at a codebook code in units of 2^-24, as a magnitude. -/
def cbMag (cb : Codebook) (c : Nat) : Nat :=
  match fmtF16.decode (cb.getD c 0) with
  | .fin _ m e => m * 2 ^ (e + 24).toNat
  | _ => 0

/-- Whether a code is a saturation code of its format. -/
def isSatCode (fmt : Nat) (cb : Codebook) (c : Nat) : Bool :=
  match fmt with
  | 5 => c % 128 ≥ 0x7e
  | 6 => c % 128 ≥ 0x7b
  | 7 => c % 32 = 0x1f
  | 8 => c % 32 = 0x1f
  | 9 => c % 8 = 7
  | 11 => c = 0x7f || c = 0x80
  | 12 => c = 7 || c = 8
  | 13 => c = 1 || c = 2
  | 14 => c = 1 || c = 3
  | _ => if 16 ≤ fmt then (List.range 16).all (fun d => cbMag cb d ≤ cbMag cb (c % 16)) else false

/-- Whether a code is the underflow code of its format. -/
def isUfCode (fmt c : Nat) : Bool :=
  match fmt with
  | 5 => c = 0x80
  | 6 => c = 0x80
  | 7 => c % 64 = 0x20
  | 8 => c % 64 = 0x20
  | 9 => c % 16 = 8
  | _ => false

/-! ### Block scales (R196 to R199) -/

/-- The value of a block-scale code under a scaling encoding; scaling 0 is 1. -/
def scaleVal (scaling code : Nat) : FV :=
  match scaling with
  | 1 => if code % 256 = 0xff then .nan else .fin false 1 ((code % 256 : Nat) - 127 : Int)
  | 2 => elemVal 5 [] code
  | _ => .fin false 1 0

/-- A scaled element: a zero scale gives zero even for a NaN element, a NaN scale gives NaN (R196). -/
def FV.scaled (scale x : FV) : FV :=
  match scale with
  | .nan => .nan
  | .fin _ 0 _ => .fin false 0 0
  | s => s.mul x

def cbEmax (cb : Codebook) : Int :=
  let m := (List.range 16).foldl (fun a c => max a (cbMag cb c)) 0
  if m = 0 then 0 else (Nat.log2 m : Int) - 24

/-- emax of R198. -/
def fmtEmax (fmt : Nat) (cb : Codebook) : Int :=
  match fmt with
  | 5 => 8 | 6 => 15 | 7 => 4 | 8 => 2 | 9 => 2 | 11 => 6 | 12 => 2 | 13 => 0 | 14 => 0 | 15 => 0
  | _ => cbEmax cb

/-- vmax of R198. -/
def fmtVmax (fmt : Nat) (cb : Codebook) : FV :=
  match fmt with
  | 5 => .fin false 448 0 | 6 => .fin false 57344 0 | 7 => .fin false 28 0 | 8 => .fin false 15 (-1)
  | 9 => .fin false 6 0 | 11 => .fin false 127 0 | 12 => .fin false 7 0 | 13 => .fin false 1 0
  | 14 => .fin false 1 0 | 15 => .fin false 1 0
  | _ => .fin false ((List.range 16).foldl (fun a c => max a (cbMag cb c)) 0) (-24)

/-- |x|. -/
def FV.abs : FV → FV
  | .nan => .nan
  | .inf _ => .inf false
  | .fin _ m e => .fin false m e

/-- The larger of two magnitudes; an infinity counts as 2^128 (R198). -/
def magMax (a b : FV) : FV :=
  let f : FV → FV := fun x => match x with
    | .inf _ => .fin false 1 128
    | x => x.abs
  match (f a).cmp (f b) with
  | some .lt => f b
  | _ => f a

/-- floor(log2 x) of a positive magnitude. -/
def FV.floorLog2 : FV → Int
  | .fin _ m e => (Nat.log2 m : Int) + e
  | _ => 128

/-- The E8M0 scale code of a block (R198). -/
def scaleE8M0 (emax : Int) (xs : List FV) : Nat :=
  if xs.any FV.isNan then 0xff
  else
    match xs.foldl magMax (.fin false 0 0) with
    | .fin _ 0 _ => 0
    | a => (max 0 (min 254 (a.floorLog2 - emax + 127))).toNat

/-- The quotient of two positive finite data rounded to FP32 nearest even. -/
def divF32 (a b : FV) : Nat :=
  match a, b with
  | .fin s m e, .fin t n g =>
    if n = 0 then (if m = 0 then fmtF32.nan else fmtF32.infBits (s != t))
    else if m = 0 then b2n (s != t) * 2 ^ 31
    else
      let q := m * 2 ^ (64 + Nat.log2 n)
      fmtF32.roundMag .rne (s != t) (q / n) (q % n ≠ 0) (e - g - (64 + Nat.log2 n : Nat))
  | .nan, _ => fmtF32.nan
  | _, .nan => fmtF32.nan
  | .inf _, .inf _ => fmtF32.nan
  | .inf s, .fin t _ _ => fmtF32.infBits (s != t)
  | .fin s _ _, .inf t => b2n (s != t) * 2 ^ 31

/-- The tensor scale of R198 as an FP32 pattern, from the largest finite magnitude of the tensor. -/
def tensorScale (fmt : Nat) (cb : Codebook) (tamax : FV) : Nat :=
  match tamax with
  | .fin _ 0 _ => 0x3f800000
  | a => divF32 a ((FV.fin false 448 0).mul (fmtVmax fmt cb))

/-- The E4M3 scale code of a block under a tensor scale (R198). The quotient amax ÷ (vmax × St) is rounded once,
into E4M3 with saturation. -/
def scaleE4M3 (fmt : Nat) (cb : Codebook) (st : Nat) (amax : FV) : Nat :=
  match amax, (fmtVmax fmt cb).mul (fmtF32.decode st) with
  | .fin _ 0 _, _ => 0
  | .fin _ m e, .fin _ n g =>
    if n = 0 then 0x7e
    else
      -- a quotient to far more bits than E4M3 keeps, its lowest bit sticky
      let k := 64 + Nat.log2 n
      let q := m * 2 ^ k
      let qq := 2 * (q / n) + b2n (q % n ≠ 0)
      let c := encodeElem 5 [] .rne true false 0 false (.fin false qq (e - g - (k : Nat) - 1))
      if c = 0 then 1 else c
  | .inf _, _ => 0x7e
  | _, _ => 0x7f

/-- The value an element is encoded from (R199). -/
def scaleQuot (scaling code st : Nat) (x : FV) : FV :=
  match scaling with
  | 1 => match x with
    | .fin s m e => .fin s m (e + 127 - (code : Int))
    | x => x
  | 2 =>
    let d := fmtF32.round .rne ((elemVal 5 [] code).mul (fmtF32.decode st))
    fmtF32.decode (divF32 x (fmtF32.decode d))
  | _ => x

/-! ### Exact accumulation cells (R208 to R215) -/

abbrev Cell512 := BitVec 512

/-- The canonical NaN cell (R208). -/
def cellNan : Cell512 := BitVec.ofNat 512 (0x80 * 2 ^ 504 - 1)
def cellInf (neg : Bool) : Cell512 := BitVec.ofNat 512 (if neg then 2 ^ 511 else 2 ^ 510)

/-- The class of a cell: finite value in units of 2^-149, infinity or NaN (R208). -/
def cellVal (c : Cell512) : FV :=
  let top := c.toNat >>> 510
  if top = 0 || top = 3 then
    let i := c.toInt
    .fin (i < 0) i.natAbs (-149)
  else if c.toNat % 2 ^ 510 = 0 then .inf (top = 2)
  else .nan

/-- A datum as a cell image: an infinity or NaN by class, a finite value exactly. -/
def cellOf (x : FV) : Cell512 :=
  match x with
  | .nan => cellNan
  | .inf s => cellInf s
  | .fin s m e => BitVec.ofInt 512 (scaledInt s m e (-149))

/-- The sum of two cells by the rules of R209, which are those of merge_cell (R215). -/
def cellAdd (a b : Cell512) : Cell512 :=
  match cellVal a, cellVal b with
  | .nan, _ => cellNan
  | _, .nan => cellNan
  | .inf s, .inf t => if s = t then cellInf s else cellNan
  | .inf s, _ => cellInf s
  | _, .inf t => cellInf t
  | _, _ =>
    let r := a + b
    let top := r.toNat >>> 510
    if top = 0 || top = 3 then r else cellNan

/-- XRD: the cell rounded once to nearest even; a zero cell reads +0 (R211). -/
def cellRead (f : FFmt) (c : Cell512) : Nat := f.round .rne (cellVal c)

end Sys2Proof.Machine
end

