-- ==== Sys2Proof/Machine/StateCore.lean ====
section
/-! DEFINITION. The state of an Epior core: convoys, workgroups, the matrix array, the L1 and its buffers. -/

namespace Sys2Proof.Machine

/-- Data of one 128-byte line, byte 0 lowest. -/
abbrev LineData := BitVec 1024
/-- One bit per byte of a line. -/
abbrev LineMask := BitVec 128

/-- The states of CVY_STATE[n].state (R104); an absent convoy is state 0, empty. -/
inductive CvyState where
  | running | sleeping | arrived | held | halted | haltedOnTrap | aborting
deriving DecidableEq, Repr

/-- A mask-stack entry (R82): `rejoin` is the kind, and `path0` the lanes that were active when the current path of
the construct began, from which current_path_lanes of R85 is formed. -/
structure StackEntry where
  mask : Word
  path : Word
  junction : Word
  rejoin : Bool
  path0 : Word
deriving DecidableEq, Repr

/-- A trap record (R97). -/
structure TrapRec where
  cause : Nat
  pc : Word
  lanes : Word
deriving DecidableEq, Repr

/-- A milestone wait of a convoy or of a command: the condition, when it was issued, whether it has reached its home
(R369), polls there for want of a subscription (R371), has been satisfied by an applied operation (R368), and has been
reported hung (R378). -/
structure WaitRec where
  handle : Word
  target : Word
  eq : Bool
  since : Nat
  registered : Bool := false
  polling : Bool := false
  satisfied : Bool := false
  hung : Bool := false
deriving DecidableEq, Repr

/-- A pending diversion (R225, R227): the MMA's address, its physical tile, and the rows to restore. -/
structure Diversion where
  pc : Word
  tile : Nat
  old : NMap (BitVec 32)
  rows : Word
deriving DecidableEq, Repr

/-- A cached translation (R391, R598): context, first 4 KiB page, page size as a power of two, table entry, age. -/
structure TlbEntry where
  asid : Nat
  page : Nat
  size : Nat
  entry : Word
  age : Nat
deriving DecidableEq, Repr

/-- An instruction stalled on translation (R393): its word, the pages (context page numbers) it waits for, the
translations gathered for it, and its range-tracker entry (R337): lowest and highest line, and whether it writes. -/
structure Stall where
  word : Word
  pages : List Nat
  got : List TlbEntry
  lo : Nat
  hi : Nat
  write : Bool
deriving DecidableEq, Repr

/-- What a launch gives each of its workgroups (R426, R425). -/
structure LaunchInfo where
  part : Nat := 0
  asid : Nat := 0
  queue : Nat := 0
  seq : Nat := 0
  cookie : Word := 0
  ctxTag : Nat := 0
  layer : Nat := 0
  op : Nat := 0
  policy : Nat := 0
  entry : Word := 0
  trapHandler : Word := 0
  detourEntry : Word := 0
  args : Word := 0
  grid : Nat × Nat × Nat := (1, 1, 1)
  wg : Nat × Nat × Nat := (1, 1, 1)
  vRegs : Nat := 8
  tiles : Nat := 0
  localBytes : Nat := 0
  chunk : Nat := 0
  seed : Word := 0
deriving DecidableEq, Repr

/-- A convoy in its slot. Registers are sparse: V by register × 64 + lane, U and predicates by number; an absent entry
is zero (R75). -/
structure Convoy where
  wg : Nat
  index : Nat
  state : CvyState := .running
  resume : CvyState := .running
  pc : Word
  active : Word
  live : Word
  parked : Word := 0
  stack : List StackEntry := []
  spilled : List StackEntry := []
  barIdx : Nat := 0
  barAddr : Word := 0
  barFence : Bool := false
  v : NMap (BitVec 32) := []
  p : NMap Word := []
  u : NMap Word := []
  vRegs : Nat
  resv : NMap Nat := []
  wait : Option WaitRec := none
  trap : Option TrapRec := none
  pendTrap : Option TrapRec := none
  inHandler : Bool := false
  handlerMask : Word := 0
  detouring : Bool := false
  divert : Option Diversion := none
  stall : Option Stall := none
  haltReq : Bool := false
  stepping : Bool := false
  preempt : Bool := false
  saveForm : Nat := 0
  vGroups : Nat := 0xffff
  keepTiles : Nat := 0xff
deriving DecidableEq, Repr

/-- A resident workgroup. `arrivedAt` holds, per barrier, when its first convoy arrived, and
`hungBars` the barriers reported hung (R94, R379). -/
structure WG where
  launch : LaunchInfo
  coord : Nat × Nat × Nat
  chunkNo : Nat := 0
  count : Nat
  done : Nat := 0
  localOff : Nat := 0
  tiles : Nat := 0
  arrivedAt : NMap Nat := []
  hungBars : List Nat := []
deriving DecidableEq, Repr

/-- A stationary buffer of the array (R149, R154): attributes and the image's regions. -/
structure StatBuf where
  filled : Bool := false
  fmt : Nat := 0
  sparse : Bool := false
  scaled : Bool := false
  values : BitVec 8192 := 0
  meta_ : BitVec 4096 := 0
  scales : BitVec 2048 := 0
  codebook : Codebook := []
deriving DecidableEq, Repr

/-- An MMA in flight: what it streams, what it writes, and what its checks and decision need. -/
structure MmaRec where
  slot : Nat
  wg : Nat
  pc : Word
  word : Word
  eff : Word
  tile : Nat
  a : List Nat
  aScales : List Nat
  buf : StatBuf
  usedBack : Bool
  ckRow : Bool
  old : NMap (BitVec 32)
  launch : LaunchInfo
  mayDivert : Bool
  replay : Bool := false
  injected : Bool := false
deriving DecidableEq, Repr

/-- The matrix array of a core. -/
structure ArrayState where
  front : StatBuf := {}
  back : StatBuf := {}
  stagedSinceSwap : Bool := false
  stage : Option StatBuf := none
  stageHeld : Bool := false
  owner : Option Nat := none
  tiles : NMap (BitVec 32) := []
  status : NMap Word := []
  inflight : List MmaRec := []
  cancelled : List MmaRec := []
  replay : Option MmaRec := none
deriving DecidableEq, Repr

/-- An L1 line (R309): way, plaintext data and byte masks, age, key selector and context partition, poison. -/
structure L1Line where
  way : Nat
  data : LineData
  valid : LineMask
  dirty : LineMask
  age : Nat
  key : Nat
  poison : Bool
deriving DecidableEq, Repr

/-- A sequential-store tracker (R312). `dir` is 0 before any step, else up or down; `used` orders the trackers. -/
structure SeqTracker where
  last : Nat := 0
  dir : Int := 0
  count : Nat := 0
  noAlloc : Bool := false
  used : Nat := 0
deriving DecidableEq, Repr

/-- An entry of the combining buffer or a prefetch side buffer. -/
structure BufLine where
  line : Nat
  key : Nat
  data : LineData
  mask : LineMask
  poison : Bool
deriving DecidableEq, Repr

/-- The L1 of a core and the buffers beside it. Lines are keyed by line number. -/
structure L1State where
  lines : NMap L1Line := []
  dirty : List Nat := []
  side : List BufLine := []
  combining : List BufLine := []
  trackers : List SeqTracker := []
  trackClock : Nat := 0
  missRun : Nat × Nat := (0, 0)
  streamTo : Option Nat := none
deriving DecidableEq, Repr

/-- A range-tracker entry held by a mover region (R263, R337): space, lowest and highest line, writing, and the
descriptor. -/
structure RangeEntry where
  space : Nat
  lo : Nat
  hi : Nat
  write : Bool
  desc : Nat
deriving DecidableEq, Repr

/-- One Epior core. -/
structure Core where
  convoys : NMap Convoy := []
  wgs : NMap WG := []
  arr : ArrayState := {}
  l1 : L1State := {}
  tlb : NMap TlbEntry := []
  localMem : NMap Byte := []
  ranges : List RangeEntry := []
  gated : Bool := false
  halfRate : Bool := false
deriving DecidableEq, Repr

end Sys2Proof.Machine
end

