-- ==== Sys2Proof/Machine/StateMem.lean ====
section
/-! DEFINITION. The state of the cluster L2s, the directories, the vaults and translation. -/

namespace Sys2Proof.Machine

/-- Line states of a caching agent (R318); I is absence. -/
inductive LineSt where
  | M | O | E | S
deriving DecidableEq, Repr

/-- A line of an L2 or of a Qorriop L2. -/
structure L2Line where
  way : Nat
  st : LineSt
  data : LineData
  age : Nat
  key : Nat
  poison : Bool
deriving DecidableEq, Repr

/-- A caching agent (R318): clusters 0 to 199, Qorriop cores 200 + k. `side` is the prefetch side buffer (oldest
first), `victim` the victim buffer of R322, `hold` the atomic ownership holds of R328. -/
structure CacheAgent where
  lines : NMap L2Line := []
  side : List (Nat × L2Line) := []
  victim : NMap L2Line := []
  hold : List Nat := []
deriving DecidableEq, Repr

/-- Directory states of R319; U is absence. -/
inductive DirSt where
  | S | X | O
deriving DecidableEq, Repr

/-- A directory entry (R319). `sharers` is used in exact form, `vec` in coarse form. -/
structure DirEntry where
  st : DirSt
  owner : Option Nat := none
  coarse : Bool := false
  sharers : List Nat := []
  vec : Nat := 0
  way : Nat := 0
  age : Nat := 1
deriving DecidableEq, Repr

/-- What a request asks of a home (R321). -/
inductive HomeOp where
  | getS
  | getM
  | upgrade
  | snoop
  | invWrite (data : LineData) (mask : LineMask) (poison : Bool)
  | notify
  | writeBack (data : LineData) (key : Nat) (poison : Bool)
  | recall
deriving DecidableEq, Repr

/-- A request at a home: agent number (an I/O agent is 300 or above), operation and key selector. -/
structure HomeReq where
  line : Nat
  agent : Nat
  op : HomeOp
  key : Nat
deriving DecidableEq, Repr

/-- A transaction in flight at a home (R322): the forward awaited, the agents an invalidation has been sent to, those
whose acknowledgement is on its way, whether the host's copy is still to be taken back (R412), the data gathered with
its poison, dirty data to go to memory with the key selector it carries, and the request a recall makes room for. -/
structure HomeTxn where
  req : HomeReq
  fwd : Option Nat := none
  toInv : List Nat := []
  acks : List Nat := []
  backInv : Bool := false
  data : Option (LineData × Bool) := none
  toMem : Option (LineData × Nat × Bool) := none
  next : Option HomeReq := none
deriving DecidableEq, Repr

/-- A home: a vault's directory slice (0 to 199) or an interface's home agent (200 + m). -/
structure Home where
  entries : NMap DirEntry := []
  txns : NMap HomeTxn := []
  queue : List HomeReq := []
deriving DecidableEq, Repr

/-- What a vault controller holds beside its registers: the bus direction last used (0 none, 1 read, 2 write), open
rows by bank, and corrected errors by symbol (R288). -/
structure VaultState where
  dir : Nat := 0
  open_ : NMap Nat := []
  ceBySym : NMap Nat := []
  idle : Bool := false
  retrain : Bool := false
deriving DecidableEq, Repr

/-- Who waits for a translation. -/
inductive Waiter where
  | convoy (core slot : Nat)
  | mover (m desc : Nat)
  | cvu (u : Nat)
  | link (k q : Nat)
  | linkRx (k : Nat)
  | command (asid q seq : Nat)
  | fetchq (asid q : Nat)
deriving DecidableEq, Repr

/-- An outstanding translation request (R394, R395). `overlapped` is one that an invalidation has overlapped (R405), `dead` one
whose context has been faulted since, so that its response is discarded (R402). -/
structure XltReq where
  tag : Nat
  kind : Nat
  flags : Nat
  asid : Nat
  engine : Nat
  unit : Nat
  page : Nat
  ctxTag : Nat
  layer : Nat
  op : Nat
  prefillSize : Nat := 12
  since : Nat := 0
  overlapped : Bool := false
  dead : Bool := false
  waiters : List Waiter := []
deriving DecidableEq, Repr

/-- Translation state of a partition: its cache (by set × 16 + way), the requests outstanding, those that wait for ring
space or for a place among 1,024, and the next tag. -/
structure XltPart where
  cache : NMap TlbEntry := []
  out : List XltReq := []
  waiting : List XltReq := []
  nextTag : Nat := 0
deriving DecidableEq, Repr

/-- An invalidation in progress (R405): form, context, first page and count. -/
structure Inval where
  form : Nat
  asid : Nat
  page : Nat
  count : Nat
deriving DecidableEq, Repr

end Sys2Proof.Machine
end

