-- ==== Sys2Proof/Machine/StateHost.lean ====
section
/-! DEFINITION. The state of queues, commands, launches, partitions, tensor movers and check-value units that lies
behind their registers. -/

namespace Sys2Proof.Machine

/-- A command of a queue (R423): where it came from, its 64 bytes, and its waits. -/
structure Cmd where
  asid : Nat
  queue : Nat
  seq : Nat
  raw : BitVec 512
  wait0 : Option WaitRec := none
  wait1 : Option WaitRec := none
deriving DecidableEq, Repr

/-- A granted command (R428 to R431): the status it will complete with, its detail, whether its work is done, whether it
waits for event-ring room or for the ring's translation, its signal sent (R434), the status and detail it is being stopped
with, and whether a host abort waits for it (R437). -/
structure GCmd where
  cmd : Cmd
  status : Nat := 0
  detail : Nat := 0
  done : Bool := false
  evWaits : Bool := false
  stop : Option (Nat × Nat) := none
  aborting : Bool := false
deriving DecidableEq, Repr

/-- A queue's commands: fetched and not granted, oldest first; granted and not completed; cancelled before grant and not
yet completed; and the numbers of those cancelled before they were fetched. -/
structure QueueState where
  fetched : List Cmd := []
  granted : List GCmd := []
  cancelled : List GCmd := []
  preCancel : List Nat := []
deriving DecidableEq, Repr

/-- A chunk on a cluster's queue: its number and the workgroups of it already begun (R450). -/
structure Chunk where
  no : Nat
  begun : Nat := 0
deriving DecidableEq, Repr

/-- A granted LAUNCH (R451): its command's key, what every workgroup gets, workgroups in all and completed, workgroups
per chunk, each cluster's chunks, the cores that ran it, and the status it is being stopped with. -/
structure Launch where
  info : LaunchInfo
  total : Nat
  done : Nat := 0
  chunkSize : Nat
  queues : NMap (List Chunk) := []
  coresRun : List Nat := []
  stopped : Option (Nat × Nat) := none
deriving DecidableEq, Repr

/-- A saved workgroup (R455, R460): its context, the physical core it was saved from, its entry in the core header, its
command and chunk, the places it has in the region, the convoy slots that hold its records, and what the region has no place
for: the rest of the workgroup and of its convoys, whose registers and masks are in the region alone. -/
structure SavedWg where
  asid : Nat
  core : Nat
  entry : Nat
  queue : Nat
  seq : Nat
  chunkNo : Nat
  localOff : Nat
  firstUnit : Nat
  units : Nat
  wg : WG
  cvs : List (Nat × Convoy)
deriving DecidableEq, Repr

/-- A partition's dispatcher behind PRT_STATUS: the previous holder, whether a switch is wanted, whether the partition is
being drained (R56, R67), launches in grant order, saved workgroups, and the periods measured, with the preemptions and
steals of the present one (R463). -/
structure PartState where
  prev : Option Nat := none
  switching : Bool := false
  draining : Bool := false
  launches : List Launch := []
  saved : List SavedWg := []
  period : Nat := 0
  preempts : Nat := 0
  steals : Nat := 0
deriving DecidableEq, Repr

/-- Who issued a descriptor (R237). -/
inductive Issuer where
  | convoy (core slot wg : Nat)
  | command (asid queue seq : Nat)
deriving DecidableEq, Repr

/-- The labels and place a descriptor works under. -/
structure DescCtx where
  part : Nat
  asid : Nat
  queue : Nat
  seq : Nat
  ctxTag : Nat
  layer : Nat
  op : Nat
  localOff : Nat := 0
  localBytes : Nat := 0
deriving DecidableEq, Repr

/-- A MOVD or a MOVE command offered to a mover and not yet accepted: the descriptor's address and space (R132, R425). -/
structure Offer where
  id : Nat
  issuer : Issuer
  ctx : DescCtx
  addr : Word
  space : Nat
  stalled : Bool := false
  got : List TlbEntry := []
deriving DecidableEq, Repr

/-- An accepted descriptor: its 128 bytes as read, whether it has started, waits on a miss, or is done with its writes
and what its record will say (R261). `got` are the translations gathered
while it waits. -/
structure Desc where
  id : Nat
  issuer : Issuer
  ctx : DescCtx
  raw : BitVec 1024
  started : Bool := false
  stalled : Bool := false
  got : List TlbEntry := []
  written : Bool := false
  check : Nat := 0
  tscale : Nat := 0
  dropped : Nat := 0
  notes : Nat := 0
  bytes : Nat := 0
deriving DecidableEq, Repr

/-- A tensor mover: offers, and accepted descriptors in order of acceptance. -/
structure Mover where
  offers : List Offer := []
  descs : List Desc := []
  nextId : Nat := 0
deriving DecidableEq, Repr

end Sys2Proof.Machine
end

