-- ==== Sys2Proof/Machine/StateLink.lean ====
section
/-! DEFINITION. The state of a link behind its registers (R468 to R498). -/

namespace Sys2Proof.Machine

/-- What a link has put on its lanes: a flit, an IDENT with its fields (whose layout in a flit the spec does not give), an
Ethernet frame, or an injected burst on a lane (R496). -/
inductive LinkOut where
  | flit (f : BitVec 2048)
  | ident (node fabric : Word) (link role : Nat) (digest : BitVec 384) (credit0 credit1 : Nat)
  | frame (bs : List Byte)
  | burst (lane count : Nat)
deriving DecidableEq, Repr

/-- A data flit in the replay buffer (R474): its sequence number, VC and payload. -/
structure TxFlit where
  seq : Nat
  vc : Nat
  payload : BitVec 1936
deriving DecidableEq, Repr

/-- An entry of a put queue that has been fetched (R482): its number and bytes, its wait, whether it is granted, the bytes sent
so far, whether all its messages have been made, and where the last ends in the link's payload stream. -/
structure PutEntry where
  seq : Nat
  raw : BitVec 512
  wait : Option WaitRec := none
  granted : Bool := false
  sent : Nat := 0
  allSent : Bool := false
  endOff : Nat := 0
deriving DecidableEq, Repr

/-- A data frame that a peer has not acknowledged: its sequence number, the entry it comes from, its message header and where
its data are read from (R491). -/
structure EthFrame where
  seq : Nat
  queue : Nat
  entry : Nat
  head : BitVec 256
  src : Word
  len : Nat
deriving DecidableEq, Repr

/-- What a link keeps for a peer of Ethernet mode (R491, R493). -/
structure EthPeer where
  sndNext : Nat := 0
  window : Nat := 256
  ackedRun : Nat := 0
  unacked : List EthFrame := []
  rcvNext : Nat := 0
  sinceAck : Nat := 0
  ecnEcho : Bool := false
  nakOut : Bool := false
  identOk : Bool := false
  digest : BitVec 384 := 0
  mismatch : Bool := false
deriving DecidableEq, Repr

/-- A link. `full` is a full retrain under way that keeps what is to be replayed, `downDue` that the link is to be declared
down, `fastFails` the consecutive failed fast retrains, and `badLanes` the lanes that do not lock. The sender's part: next
sequence number, replay buffer, payload stream not yet in flits with the offset of its end, VC0 flits acknowledged, VC1
payloads that wait, credits in hand by VC and the counts last seen. The receiver's: the sequence number expected, a NAK
outstanding, bytes received and not consumed, the place within the flit, and the flits freed by VC. The test role's: the
slot count, flits an injection has still to touch, flits held by a delay. `cap` are the captured entries with their records,
`capPost` the entries still to be recorded after the trigger. -/
structure Link where
  full : Bool := false
  downDue : Bool := false
  fastFails : Nat := 0
  badLanes : List Nat := []
  txSeq : Nat := 0
  replay : List TxFlit := []
  stream : List Byte := []
  streamEnd : Nat := 0
  acked0 : Nat := 0
  mgmt : List (BitVec 1936) := []
  credit0 : Nat := 0
  credit1 : Nat := 0
  seen0 : Nat := 0
  seen1 : Nat := 0
  rxSeq : Nat := 0
  nakOut : Bool := false
  rxBuf : List Byte := []
  rxOff : Nat := 0
  freed0 : Nat := 0
  freed1 : Nat := 0
  entries : NMap (List PutEntry) := []
  peers : NMap EthPeer := []
  paused : Bool := false
  slot : Nat := 0
  injLeft : Nat := 0
  held : Bool := false
  cap : NMap (BitVec 2048 × Word) := []
  capPost : Option Nat := none
  out : List LinkOut := []
deriving DecidableEq, Repr

end Sys2Proof.Machine
end

