-- ==== Sys2Proof/Machine/StatePower.lean ====
section
/-! DEFINITION. The power manager's state that lies behind the PWR_ registers (R500 to R525). -/

namespace Sys2Proof.Machine

/-- An entry into a power state in progress (R517): the state, the one the domain left, the phase, and whether a wake is
latched (R519). -/
structure PowerEntry where
  target : Nat
  source : Nat
  phase : Nat := 0
  wake : Bool := false
deriving DecidableEq, Repr

/-- The power manager. `entry` holds the entries in progress by cluster (200 the package), `leaving` the state that an
exiting cluster leaves, `lowered` the restore classes (R521) that the package's state has lowered, in table order, and
`restoring` whether it is leaving it. `retuneTo` is the root a retune goes to (0 none), `mw` the power of the latest intervals
in mW, latest first (R508), `arb` the divider the arbiter gives each cluster (absent: 4), `lent` the clusters raised on lent
credit, most recent first (R509, R510). `acts` are the thermal actions in force, cluster × 32 + number, and 2^16 more for one that holds its cluster in C1 (R523 to R525),
`forced` the quads being forced together, hotter first, `forceCap` the caps of R506, and `intake` the vault admission limit of
a partition under R508. `vdd` is the voltage of VDD_CORE in mV, `mesh` and `qor` those of each die's mesh and Qorriop
domains, `hartTemp` the Qorriop cores' junction sensors. -/
structure Power where
  entry : NMap PowerEntry := []
  leaving : NMap Nat := []
  lowered : List Nat := []
  restoring : Bool := false
  retuneTo : Nat := 0
  mw : List Nat := []
  arb : NMap Nat := []
  lent : List Nat := []
  acts : List Nat := []
  forced : List (Nat × Nat) := []
  forceCap : NMap Nat := []
  intake : NMap Nat := []
  vdd : Nat := 0
  mesh : NMap Nat := []
  qor : NMap Nat := []
  hartTemp : NMap Nat := []
deriving DecidableEq, Repr

end Sys2Proof.Machine
end

