-- ==== Sys2Proof/Machine/StateSys.lean ====
section
/-! DEFINITION. State of the always-on domain: fuses, pins, the start-up sequence, flash, the mailbox and its paths, route
amendments and repairs. -/

namespace Sys2Proof.Machine

/-- The fuses: the key hash of each slot (none where empty), the revoked slots (R42), and the entries of the rollback floor
written so far, the latest first (R52). -/
structure Fuses where
  keyHash : NMap (BitVec 384) := []
  revoked : BitVec 4 := 0
  floor : List (BitVec 32) := []
deriving DecidableEq, Repr

/-- The fuses at shipment: Omhild's key in slot 0 (R42). -/
def Fuses.shipped : Fuses := { keyHash := [(0, Config.factoryKeyHash)] }

/-- Where the device is in the sequence of R62, or the hard shoulder (R64). -/
inductive Phase where
  | inReset | firmware | selfTest | book | lpddr | running | shoulder
deriving DecidableEq, Repr

/-- A repair proposal waiting in warden RAM, or its fields as WDN_PROP holds them (R546). -/
structure Prop0 where
  kind : Nat
  part : Nat
  reason : Nat
  sub : Nat := 0
  row : Nat := 0
  unit : Nat
  slot : Nat := 0
deriving DecidableEq, Repr

/-- What waits in the queue of R58: an amendment image, with its partition, or the repairs of a partition. -/
inductive AmendReq where
  | route (part : Nat) (image : List Byte)
  | repair (part : Nat)
deriving DecidableEq, Repr

/-- The always-on state. Pins: PG_IN, whether it has been high for 1 ms, RESET_N, CORE_EN, THERMTRIP_N latched, REFCLK
running, the ports whose PERST_N is low and the ports trained. `flash` holds the bytes that differ from 0xFF. `fwRam` and
`bookRam` are the images being staged in warden RAM, `fwUse` and `bookUse` those that the start-up in progress uses, `fwCopy`
the firmware copy that runs (0 A, 1 B, 2 staged). `restarting` tells a mailbox restart from a reset (R70), and `found` is what
self-test found. `mbx` is the data window WDN_MBX_DATA, `mbxTag` the tag of the command that runs, `mbxHeld` the bytes of
registers whose highest byte has not come (R584), `flashOp` a WRITE_FLASH under way. `smbOff`, `smbOut` and `uartOut` are what the SMBus and UART paths last took
and answered. `selfMap` is the self-test result map. `sections` are the section bytes of the active route book by type, and
`steps` and `points` further tables of it that later chapters read. `amend` is the amendment in progress, `amendQ` those that
wait, `shoulderDrain` an ENTER_SHOULDER that drains. `harts` are the Qorriop cores started. `propWait` are proposals without an
entry, `propDone` the entries in states 4 to 6, oldest first. `coreOut` are logical cores without a physical one, `sramUsed`
spare rows used by macro, `laneBad` the bad physical lanes of each vault. `startups` counts start-ups, `reloads` when
each warden was reloaded, `wdnLoading` the wardens being reloaded, `wdnOut` those failed for good (R542), `missed` the heartbeats
each has missed in a row, `guard` the guard band of each quad in mV (R531), `guardCap` the quads capped for
want of room. `ir` is the JTAG instruction, `dbgAccess` the DBG_ACCESS
register as it would be captured (R562, R563), `scanOut` the boundary scan's update latches and `scanIn` what it last captured. -/
structure Sys where
  phase : Phase := .inReset
  powered : Bool := true
  pgIn : Bool := false
  pgHigh : Bool := false
  resetN : Bool := false
  coreEn : Bool := false
  thermtrip : Bool := false
  refclk : Bool := true
  perst : List Nat := []
  hostTrained : List Nat := []
  lpdTrained : Bool := false
  lpdRefresh : Bool := false
  flash : NMap Byte := []
  flashSize : Nat := 2 ^ 25
  fwRam : List Byte := []
  bookRam : List Byte := []
  fwUse : List Byte := []
  bookUse : List Byte := []
  restarting : Bool := false
  found : Option SelfTest := none
  fwCopy : Nat := 0
  romMailbox : Bool := false
  mbx : NMap Byte := []
  mbxTag : Nat := 0
  mbxHeld : NMap Byte := []
  flashOp : Option (Nat × List Byte) := none
  smbOff : Nat := 0
  smbOut : List Byte := []
  uartOut : List Byte := []
  selfMap : Nat := 0
  sections : NMap (List Byte) := []
  amend : Option AmendReq := none
  amendQ : List AmendReq := []
  shoulderDrain : Bool := false
  harts : Nat := 0
  propWait : List Prop0 := []
  propDone : List Nat := []
  coreOut : List Nat := []
  sramUsed : NMap Nat := []
  laneBad : NMap (List Nat) := []
  startups : Nat := 0
  reloads : NMap (List Nat) := []
  wdnLoading : List Nat := []
  wdnOut : List Nat := []
  missed : NMap Nat := []
  guard : NMap Nat := []
  guardCap : List Nat := []
  ir : Nat := 1
  dbgAccess : BitVec 96 := 0
  scanOut : List Bool := []
  scanIn : List Bool := []
deriving DecidableEq, Repr

end Sys2Proof.Machine
end

