-- ==== Sys2Proof/Machine/StateDev.lean ====
section
/-! DEFINITION. The device: the register file, the configuration the route book gives, memory, and the parts of the
other chapters put together. -/

namespace Sys2Proof.Machine

/-- What the route book gives partition p: its map entry (R44), placement (R282), splits (R49) and watchdogs (R50). -/
structure PartCfg where
  enabled : Bool := false
  reserved : Bool := false
  quads : Nat := 0
  channels : Nat := 0
  links : Nat := 0
  msBase : Nat := 0
  msCount : Nat := 0
  power : Nat := 0
  quantum : Nat := 0
  meshW : Nat := 0
  causewayW : Nat := 0
  lpdW : Nat := 0
  wakeTol : Nat := 0
  spreadHash : Nat := 0
  capGranule : Nat := 0
  localCode : Nat := 0
  clusterCode : Nat := 0
  watchdogMs : Nat := 1000
  sleepGate : Nat := 2
deriving DecidableEq, Repr

/-- An entry of the format descriptor table (R46). -/
structure FmtDesc where
  kind : Nat := 0xff
  scaling : Nat := 0
  satThr : Nat := 0
  ufThr : Nat := 0
  detourFmt : Nat := 0
  codebook : Codebook := []
deriving DecidableEq, Repr

/-- The error record of R539, before it is written to the log and the ring. A source, unit, code or detail that the spec does
not state for the event is none, and is written as a free value (log entry 4). -/
structure ErrRec where
  class_ : Nat
  source : Option Nat := none
  proposal : Nat := 0xffff
  unit : Option Nat := none
  part : Nat := 0xff
  code : Option Nat := none
  detail : Option Nat := none
  ctxTag : Nat := 0
  layer : Nat := 0
  op : Nat := 0
deriving DecidableEq, Repr

/-- A subscription in a home's watch table (R369): the milestone and who is told. -/
structure WatchSub where
  handle : Word
  core : Nat
deriving DecidableEq, Repr

/-- A signal on its way to a milestone's home (R366, R367): the agent that sent it, the handle, Add or Set, and the
operand. Agents: core × 16 + slot for a convoy, and 2^16 and up for the others. -/
structure Signal where
  agent : Nat
  handle : Word
  isSet : Bool
  operand : Word
deriving DecidableEq, Repr

/-- An interrupt message sent (R416, R441): an MSI-X entry of a port's function, or an identity at a hart's IMSIC. -/
inductive Irq where
  | msix (port function vector : Nat)
  | imsic (hart identity : Nat)
deriving DecidableEq, Repr

/-- Where a physical address goes (R567): a line of stacked or capacity memory, a host port's bus, the control region,
or nothing. -/
inductive Target where
  | line (l : Nat)
  | host (port bus : Nat)
  | ctl (off : Nat)
  | unmapped
deriving DecidableEq, Repr

/-- The device. Every register of the maps is in `regs`, keyed by register and copy number, an absent entry at its reset
value; the other fields are the state behind them. `mem` holds every byte of stacked memory, the capacity tier and the
host's buses as stored, keyed by line number × 128 + byte, an unlisted byte being zero (R287); `poison` the lines marked
poisoned there (R285, R299). `upsets` the symbol errors standing in the DRAM's
cells, `hostFail` the host lines whose next read fails (R596) and `hostMarked` those last written with the protocol's
poison mark. `chanShift` and `ranks` are the capacity devices fitted. `tag` is the context tag, layer and
operator of the work in progress (R552) and `accum` the events not yet added into the partitions' error counters
(R547). `keyOp` is the key load or erase
on its way to the controllers. `lowHalf` holds what was last written to the low half of a 64-bit register whose low half
acts when its high half is written (R574). `freeCtr` counts the free values taken; `errQ` the error records of the command in
progress. -/
structure Dev where
  regs : NMap Word := []
  time : Nat := 0
  freeCtr : Nat := 0
  errQ : List ErrRec := []
  tag : Option (Nat × Nat × Nat) := none
  accum : NMap Nat := []
  parts : NMap PartCfg := []
  fmts : List FmtDesc := []
  mem : List Host.Cell := []
  poison : List Nat := []
  upsets : NMap (List (Nat × Nat)) := []
  hostFail : List Nat := []
  hostMarked : List Nat := []
  hostReply : Option (List Byte × Bool) := none
  chanShift : Nat := 0
  ranks : Nat := 0
  cores : NMap Core := []
  agents : NMap CacheAgent := []
  stores : NMap Byte := []
  storeAsid : NMap Nat := []
  homes : NMap Home := []
  vaults : NMap VaultState := []
  hostHeld : List (Nat × Nat) := []
  xlt : NMap XltPart := []
  clusterTlb : NMap (NMap TlbEntry) := []
  moverTlb : NMap (NMap TlbEntry) := []
  cachePos : NMap Nat := []
  inval : List Inval := []
  keys : NMap XtsKey := []
  kek : Option (BitVec 256) := none
  keyOp : Option (Nat × Option XtsKey) := none
  ms : NMap Word := []
  watch : NMap (List WatchSub) := []
  signals : List Signal := []
  irqs : List Irq := []
  wlog : List (BitVec 256) := []
  qs : NMap QueueState := []
  pst : NMap PartState := []
  movers : NMap Mover := []
  links : NMap Link := []
  lowHalf : NMap Nat := []
  cvuStalled : List Nat := []
  cvuAborting : List Nat := []
  pwr : Power := {}
  sys : Sys := {}
deriving DecidableEq, Repr

end Sys2Proof.Machine
end

