-- ==== Sys2Proof/Machine/Topology.lean ====
section
/-! DEFINITION. The numbering of clusters, cores, quads and Qorriop cores (R19 to R24). -/

namespace Sys2Proof.Machine

/-- R20, R21: die, row, column and quad of a cluster. -/
def clusterDie (c : Nat) : Nat := c / 100
def clusterRow (c : Nat) : Nat := c % 100 / 10
def clusterCol (c : Nat) : Nat := c % 10
def clusterQuad (c : Nat) : Nat := 25 * clusterDie c + 5 * (clusterRow c / 2) + clusterCol c / 2

/-- R22. -/
def heldQuad (q : Nat) : Bool := q == 10 || q == 39
def heldCluster (c : Nat) : Bool := heldQuad (clusterQuad c)
/-- R24. -/
def heldHart (k : Nat) : Bool := k == 10 || k == 11 || k == 22 || k == 23 || k ≥ 24
/-- A core of a cluster that software may address; cores are numbered cluster × 8 + slot (R19, R22). -/
def coreOk (k : Nat) : Bool := k < 1600 && !heldCluster (k / 8)
/-- A convoy slot of such a core (R71). -/
def convoyOk (k n : Nat) : Bool := coreOk k && n < 16

end Sys2Proof.Machine
end

