-- ==== Sys2Proof/Machine/Ops.lean ====
section
/-! DEFINITION. The named operations over the register file, the free values, positions on the mesh and the physical
address map, on which every meaning rests. -/

namespace Sys2Proof.Machine

/-! ### The register file -/

/-- The key of the `i`-th copy of a register; there are fewer than 256 registers by name. -/
def regKey (r : Reg) (i : Nat) : Nat := i * 256 + r.ctorIdx

/-- A register's stored value. -/
def Dev.reg (d : Dev) (r : Reg) (i : Nat) : Nat := (d.regs.getD (regKey r i) (r.resetValue i)).toNat

/-- A register replaced; a register at its reset value has no entry. -/
def Dev.setReg (d : Dev) (r : Reg) (i v : Nat) : Dev :=
  { d with regs := d.regs.put (regKey r i) (BitVec.ofNat 64 v) (r.resetValue i) }

/-- A field of a register. -/
def Dev.fld (d : Dev) (f : Fld) (i : Nat) : Nat := bits (d.reg f.reg i) f.hi f.lo

/-- A field replaced, the register's other bits kept. -/
def Dev.setFld (d : Dev) (f : Fld) (i v : Nat) : Dev := d.setReg f.reg i (setBits (d.reg f.reg i) f.hi f.lo v)

/-- A one-bit field as a Boolean. -/
def Dev.flag (d : Dev) (f : Fld) (i : Nat) : Bool := d.fld f i == 1

/-- `n` added to a count: a 64-bit count is modulo 2^64 and a narrower one saturates, as its register states. -/
def Dev.tally (d : Dev) (f : Fld) (i : Nat) (n : Nat := 1) : Dev :=
  let w := f.hi + 1 - f.lo
  d.setFld f i (if w = 64 then d.fld f i + n else satAdd w (d.fld f i) n)

/-- Is the package frozen (R556). -/
def Dev.frozen (d : Dev) : Bool := d.flag F.DBG_FREEZE_STATUS_frozen 0

/-- A count of events "since reset", which a freeze stops (R555). -/
def Dev.count (d : Dev) (f : Fld) (i : Nat) (n : Nat := 1) : Dev := if d.frozen then d else d.tally f i n

/-- R553: does a selector's filter pass the tag of the work in progress. -/
def selPasses (sel : Nat) (tag : Option (Nat × Nat × Nat)) : Bool :=
  let fl := bitAt sel 62
  let fo := bitAt sel 61
  let ft := bitAt sel 60
  if fl || fo || ft then
    match tag with
    | none => false
    | some (c, l, o) =>
      (!fl || bits sel 47 32 == l) && (!fo || bits sel 31 16 == o) && (!ft || bits sel 11 0 == c)
  else true

/-- One programmable counter takes `n` events: 48 bits wide, wrapping with overflow (R550). -/
def Dev.bump (d : Dev) (cnt : Fld) (ovf : Fld) (i n : Nat) : Dev :=
  let v := d.fld cnt i + n
  let d := d.setFld cnt i v
  if v ≥ 2 ^ 48 then d.setFld ovf i 1 else d

/-- `n` events of code `code` at a core, for every counter of the core that selects it (R550, R551). -/
def Dev.coreEvent (d : Dev) (k code : Nat) (n : Nat := 1) : Dev :=
  if d.frozen || n = 0 then d
  else (List.range 8).foldl (fun d j =>
    let i := k * 8 + j
    let sel := d.reg .DBG_CORE_SEL i
    if bitAt sel 63 && bits sel 55 48 == code && code < 0x40 && selPasses sel d.tag
    then d.bump F.DBG_CORE_CNT_count F.DBG_CORE_CNT_overflow i n else d) d

/-- `n` events at a cluster. -/
def Dev.clusterEvent (d : Dev) (c code : Nat) (n : Nat := 1) : Dev :=
  if d.frozen || n = 0 then d
  else (List.range 16).foldl (fun d j =>
    let i := c * 16 + j
    let sel := d.reg .DBG_CL_SEL i
    if bitAt sel 63 && bits sel 55 48 == code && code ≥ 0x40 && selPasses sel d.tag
    then d.bump F.DBG_CL_CNT_count F.DBG_CL_CNT_overflow i n else d) d

/-- An event of the error counters of R548, held in the block's own accumulator until the next accumulation (R547). -/
def Dev.errEvent (d : Dev) (p : Option Nat) (i : Nat) (n : Nat := 1) : Dev :=
  match p with
  | some p => if d.frozen then d else { d with accum := d.accum.insert (16 * p + i) (d.accum.getD (16 * p + i) 0 + n) }
  | none => d

/-- `g d` when a test holds, else `d`. -/
def Dev.when (d : Dev) (b : Bool) (g : Dev → Dev) : Dev := if b then g d else d

/-- A left fold of an update over a list. -/
def Dev.each {α : Type} (d : Dev) (l : List α) (g : Dev → α → Dev) : Dev := l.foldl g d

/-- A value nothing constrains (log entry 4). -/
def Dev.free (d : Dev) : Word × Dev := (Config.freeValue d.freeCtr, { d with freeCtr := d.freeCtr + 1 })

/-- An error record queued for the wardens (R539); the command that raised it writes it out at its end. -/
def Dev.err (d : Dev) (e : ErrRec) : Dev :=
  let e : ErrRec := match d.tag with
    | some (c, l, o) => { e with ctxTag := c, layer := l, op := o }
    | none => e
  let fill (x : Option Nat) (i : Nat) : Option Nat := some (x.getD (Config.freeValue (d.freeCtr + i)).toNat)
  let e : ErrRec := { e with source := fill e.source 0, unit := fill e.unit 1, code := fill e.code 2, detail := fill e.detail 3 }
  { d with freeCtr := d.freeCtr + 4, errQ := d.errQ ++ [e] }

/-- R29, R30: the timestamp ticks at 100 MHz and counts nanoseconds. -/
def Dev.tick (d : Dev) : Dev := { d with time := (d.time + 10) % 2 ^ 64 }

/-- R62, R516, R591: does the silicon run: started up, clocked, and not in P6. -/
def Dev.awake (d : Dev) : Bool := d.sys.phase == .running && d.sys.refclk && d.fld F.PWR_STATUS_pkg_state 0 != 3

/-! ### Numbering and positions -/

def Dev.part (d : Dev) (p : Nat) : PartCfg := d.parts.getD p {}

/-- The clusters of a quad in ascending number (R21). -/
def quadClusters (q : Nat) : List Nat :=
  let base := 100 * (q / 25) + 20 * (q % 25 / 5) + 2 * (q % 5)
  [base, base + 1, base + 10, base + 11]

/-- The logical clusters a set of quads holds, in ascending number. -/
def clustersOf (quads : Nat) : List Nat := (List.range 200).filter fun c => bitAt quads (clusterQuad c)

/-- The clusters of a partition. -/
def Dev.partClusters (d : Dev) (p : Nat) : List Nat := clustersOf (d.part p).quads

/-- The partition that owns a cluster, among the enabled ones (R45). -/
def Dev.clusterPart (d : Dev) (c : Nat) : Option Nat :=
  (List.range 16).find? fun p => (d.part p).enabled && bitAt (d.part p).quads (clusterQuad c)

/-! ### Wakes (R513, R516, R519) -/

/-- The package's key among the power entries. -/
def pkgDomain : Nat := 200

/-- A wake of the package: latched during an entry into P2 or P4, and starting the exit from them. -/
def Dev.wakePkg (d : Dev) : Dev :=
  match NMap.find? d.pwr.entry pkgDomain with
  | some e =>
    if e.target = 3 then d
    else { d with pwr := { d.pwr with entry := NMap.insert d.pwr.entry pkgDomain { e with wake := true } } }
  | none =>
    let st := d.fld F.PWR_STATUS_pkg_state 0
    if (st == 1 || st == 2) && !d.pwr.restoring then
      { d with pwr := { d.pwr with restoring := true } }.setFld F.PWR_PKG_STATUS_busy 0 1
    else d

/-- R516: what wakes the package from P4 alone: a BAR write, a Qorriop interrupt or a mailbox command. -/
def Dev.barWake (d : Dev) : Dev :=
  let toP4 := match NMap.find? d.pwr.entry pkgDomain with | some e => e.target == 2 | none => false
  if toP4 || d.fld F.PWR_STATUS_pkg_state 0 == 2 then d.wakePkg else d

/-- Is a cluster held in C1 by a thermal action (R295, R523, R524). -/
def Dev.heldInC1 (d : Dev) (c : Nat) : Bool := d.pwr.acts.any fun a => a ≥ 2 ^ 16 && a % 2 ^ 16 / 32 == c

/-- A cluster's exit from the state it is in begins, unless heat holds it. -/
def Dev.beginExit (d : Dev) (c : Nat) : Dev :=
  let st := d.fld F.PWR_CLUSTER_STATUS_state c
  if 1 ≤ st && st ≤ 3 && !d.heldInC1 c then
    { d with pwr := { d.pwr with leaving := NMap.insert d.pwr.leaving c st } }.setFld F.PWR_CLUSTER_STATUS_state c 5
  else d

/-- R513, R519: a wake of a cluster: it starts the exit, or is latched while an entry is in progress or heat holds the
cluster. A cluster of the free pool stays in C3 (R45). -/
def Dev.wakeCluster (d : Dev) (c : Nat) : Dev :=
  let st := d.fld F.PWR_CLUSTER_STATUS_state c
  if st = 0 || st = 5 || (d.clusterPart c).isNone then d
  else
    let d := d.wakePkg
    match NMap.find? d.pwr.entry c with
    | some e =>
      { d with pwr := { d.pwr with entry := NMap.insert d.pwr.entry c { e with wake := true } } }.setFld
        F.PWR_CLUSTER_STATUS_wake_latched c 1
    | none => if d.heldInC1 c then d.setFld F.PWR_CLUSTER_STATUS_wake_latched c 1 else d.beginExit c

/-- A position on the mesh: die, row, column and hops outside the grid. -/
structure Pos where
  die : Nat
  row : Nat
  col : Nat
  out : Nat := 0
deriving DecidableEq, Repr

def clusterPos (c : Nat) : Pos := ⟨clusterDie c, clusterRow c, clusterCol c, 0⟩

/-- The outer column of a die. -/
def outerCol (die : Nat) : Nat := if die = 0 then 0 else 9

/-- R324: Qorriop core H*k*. -/
def hartPos (k : Nat) : Pos := ⟨k / 12, (k % 12) * 9 / 11, outerCol (k / 12), 1⟩
/-- R324: interface M*m*. -/
def ifacePos (m : Nat) : Pos := ⟨m / 4, 2 * (m % 4) + 1, outerCol (m / 4), 1⟩
/-- R573: system mover *g* and what sits beside it. -/
def moverPos (g : Nat) : Pos :=
  let die := g / 4
  match g % 4 with
  | 0 => ⟨die, 4, outerCol die, 1⟩
  | 1 => ⟨die, 5, outerCol die, 1⟩
  | 2 => ⟨die, 0, if die = 0 then 4 else 5, 1⟩
  | _ => ⟨die, 9, if die = 0 then 4 else 5, 1⟩

def natDist (a b : Nat) : Nat := if a ≤ b then b - a else a - b

/-- R26: mesh hops between two positions, the crossing counting as one. -/
def hops (a b : Pos) : Nat :=
  let rows := natDist a.row b.row
  let cols :=
    if a.die = b.die then natDist a.col b.col
    else if a.die = 0 then (9 - a.col) + 1 + b.col
    else a.col + 1 + (9 - b.col)
  rows + cols + a.out + b.out

/-- Position of a caching agent, or of an I/O agent numbered 300 and above: 300 + g a system mover or a check-value
unit beside it, 310 + port a host port, 320 + k a link. -/
def agentPos (a : Nat) : Pos :=
  if a < 200 then clusterPos a
  else if a < 300 then hartPos (a - 200)
  else if a < 310 then moverPos (a - 300)
  else if a < 320 then moverPos (4 * (a - 310))
  else
    let k := a - 320
    ⟨k / 16, if k % 16 < 8 then 0 else 9, k % 8 + 1, 1⟩

/-! ### Lines -/

/-- Line numbers: stacked lines by vault-view offset (below 2^31), capacity lines from 2^33 by channel, the host's bus
lines from 2^40 (port W) and 2^41 (port E). -/
def capLineBase : Nat := 2 ^ 33
def hostLineBase (port : Nat) : Nat := 2 ^ (40 + port)

def isStacked (l : Nat) : Bool := l < 2 ^ 31
def isCapacity (l : Nat) : Bool := capLineBase ≤ l && l < 2 ^ 40
def isHost (l : Nat) : Bool := 2 ^ 40 ≤ l
def lineVault (l : Nat) : Nat := l / 2 ^ 23
def lineChannel (l : Nat) : Nat := (l - capLineBase) / 2 ^ 27
def lineIface (l : Nat) : Nat := lineChannel l / 4
def linePort (l : Nat) : Nat := if l < 2 ^ 41 then 0 else 1
/-- The host bus address of a host line. -/
def hostBus (l : Nat) : Nat := (l - hostLineBase (linePort l)) * 128

/-- R319: the home of a line: its vault's slice (0 to 199) or its interface's home agent (200 + m). -/
def lineHome (l : Nat) : Nat := if isStacked l then lineVault l else 200 + lineIface l

/-- The position memory counts at (R324). -/
def memPos (l : Nat) : Pos := if isStacked l then clusterPos (lineVault l) else ifacePos (lineIface l)

/-- The enabled partition that owns a capacity channel. -/
def Dev.channelPart (d : Dev) (ch : Nat) : Option Nat :=
  (List.range 16).find? fun p => (d.part p).enabled && bitAt (d.part p).channels ch

/-- Bytes of one capacity channel (R296). -/
def Dev.chanBytes (d : Dev) : Nat := 2 ^ (32 + d.chanShift)

/-- The interleave granule in bytes (R282). -/
def granule (code : Nat) : Nat := match code with | 0 => 128 | 1 => 1024 | _ => 4096

/-- R277: the member of its quad that a stripe-view line lies in. -/
def stripeMember (l : Nat) : Nat := (bits l 1 0) ^^^ (bits l 3 2) ^^^ (bits l 5 4)

/-- R277: the spread hash. -/
def spreadHash (sel n r : Nat) : Nat := if sel = 0 then 0 else (r ^^^ (r >>> 7) ^^^ (r >>> 14)) % n

/-- R277: vault and vault-local line of a vault-view offset. -/
def nearLine (off : Nat) : Option Nat := if off < 200 * 2 ^ 30 then some (off / 128) else none

/-- R277: the line of a stripe-view offset. -/
def stripeLine (off : Nat) : Option Nat :=
  let q := off / 2 ^ 32
  if off < 50 * 2 ^ 32 && !heldQuad q then
    let l := off / 128
    let v := (quadClusters q).getD (stripeMember l) 0
    some (v * 2 ^ 23 + bits l 24 2)
  else none

/-- R277: the line of an offset in the spread view of partition `p`. -/
def Dev.spreadLine (d : Dev) (p off : Nat) : Option Nat :=
  let vs := d.partClusters p
  let n := vs.length
  if off < n * 2 ^ 30 then
    let l := off / 128
    let r := l / n
    some (vs.getD ((l % n + spreadHash (d.part p).spreadHash n r) % n) 0 * 2 ^ 23 + r)
  else none

/-- R296: the line of an offset in the capacity view of partition `p`. -/
def Dev.capLine (d : Dev) (p s : Nat) : Option Nat :=
  let chs := maskList (d.part p).channels 32
  let nc := chs.length
  let g := granule (d.part p).capGranule
  if s < nc * d.chanBytes then
    some (capLineBase + chs.getD (s / g % nc) 0 * 2 ^ 27 + ((s / (g * nc)) * g + s % g) / 128)
  else none

/-- R296 inverted: the capacity-view offset of a capacity line, in the view of the partition that owns its channel. -/
def Dev.capOffset (d : Dev) (l : Nat) : Nat × Nat :=
  let ch := lineChannel l
  let p := (d.channelPart ch).getD 0
  let chs := maskList (d.part p).channels 32
  let nc := chs.length
  let g := granule (d.part p).capGranule
  let o := ((l - capLineBase) % 2 ^ 27) * 128
  let i := ((findWithIdx (· == ch) chs).map (·.1)).getD 0
  (p, (o / g * nc + i) * g + o % g)

/-- R300: the tweak of a line. -/
def Dev.tweak (d : Dev) (l : Nat) : Nat :=
  if isStacked l then l
  else
    let (p, s) := d.capOffset l
    s / 128 + 2 ^ 40 * (p + 1)

/-- A vault that serves software: advertised, so not held (R22). -/
def advertisedVault (v : Nat) : Bool := v < 200 && !heldCluster v

/-- Is a host-port window mapped: a port that is disabled or a root port has none (R567). -/
def Dev.portEndpoint (d : Dev) (port : Nat) : Bool := d.fld F.HIF_PORT_STATUS_role port == 0

/-- R567: where a device physical address goes. -/
def Dev.target (d : Dev) (pa : Nat) : Target :=
  if pa ≥ 2 ^ 50 then .unmapped
  else if pa < 0x4000000000 then
    match nearLine pa with
    | some l => if heldCluster (lineVault l) then .unmapped else .line l
    | none => .unmapped
  else if pa < 0x8000000000 then
    match stripeLine (pa - 0x4000000000) with
    | some l => .line l
    | none => .unmapped
  else if 0xC000000000 ≤ pa && pa < 0xC100000000 then .ctl (pa - 0xC000000000)
  else if 0x10000000000 ≤ pa && pa < 0x50000000000 then
    let p := (pa - 0x10000000000) / 2 ^ 38
    if (d.part p).enabled then
      match d.spreadLine p (pa % 2 ^ 38) with
      | some l => .line l
      | none => .unmapped
    else .unmapped
  else if 0x80000000000 ≤ pa && pa < 0x100000000000 then
    let p := (pa - 0x80000000000) / 2 ^ 39
    if (d.part p).enabled then
      match d.capLine p (pa % 2 ^ 39) with
      | some l => .line l
      | none => .unmapped
    else .unmapped
  else if 0x1000000000000 ≤ pa && pa < 0x2000000000000 then
    if d.portEndpoint 0 then .host 0 (pa - 0x1000000000000) else .unmapped
  else if 0x2000000000000 ≤ pa && pa < 0x3000000000000 then
    if d.portEndpoint 1 then .host 1 (pa - 0x2000000000000) else .unmapped
  else .unmapped

end Sys2Proof.Machine
end

