-- ==== Sys2Proof/Machine/Memory.lean ====
section
/-! DEFINITION. Memory: the bytes, the vault controllers with their code and poison (R283 to R286), the capacity
interfaces, inline encryption (R300) and the host's buses. -/

namespace Sys2Proof.Machine

/-! ### Bytes -/

/-- A byte of memory as stored; an unlisted byte is zero. -/
def Dev.memByte (d : Dev) (a : Nat) : Byte := NMap.getD (α := Byte) d.mem a 0

/-- A byte of memory stored. -/
def Dev.setByte (d : Dev) (a : Nat) (b : Byte) : Dev := { d with mem := NMap.put (α := Byte) d.mem a b 0 }

/-- The canonical form of memory: addresses strictly rising and no zero byte listed. -/
def Memory.wf (m : List Host.Cell) : Bool := NMap.wf (0 : Byte) m

/-- `bs` stored from address `a`. -/
def putBytes (m : List Host.Cell) (a : Nat) : List Byte → List Host.Cell
  | [] => m
  | b :: bs => putBytes (NMap.put (α := Byte) m a b 0) (a + 1) bs

/-- The bytes of `m` from `a` to `a + n - 1`. -/
def getBytes (m : List Host.Cell) (a : Nat) : Nat → List Byte
  | 0 => []
  | n + 1 => NMap.getD (α := Byte) m a 0 :: getBytes m (a + 1) n

/-- A line as stored. -/
def Dev.rawLine (d : Dev) (l : Nat) : LineData :=
  BitVec.ofNat 1024 (leNat (getBytes (d.mem.filter fun c => l * 128 ≤ c.1 && c.1 < l * 128 + 128) (l * 128) 128))

/-- A line stored. -/
def Dev.setRawLine (d : Dev) (l : Nat) (v : LineData) : Dev :=
  { d with mem := putBytes d.mem (l * 128) (leBytes v.toNat 128) }

/-- Every bit of the bytes a mask names. -/
def expandMask (m : LineMask) : LineData :=
  BitVec.ofNat 1024 ((List.range 128).foldl (fun a i => if m.getLsbD i then a ||| (0xff <<< (8 * i)) else a) 0)

/-- `new` where the mask is set, `old` elsewhere. -/
def mergeLine (old new : LineData) (m : LineMask) : LineData :=
  let e := expandMask m
  (new &&& e) ||| (old &&& ~~~e)

/-- The mask of `n` bytes from `o`. -/
def byteMask (o n : Nat) : LineMask := BitVec.ofNat 128 ((2 ^ n - 1) * 2 ^ o)
def fullMask : LineMask := BitVec.ofNat 128 (2 ^ 128 - 1)

/-- A line holding `bs` from byte `o`. -/
def lineOf (o : Nat) (bs : List Byte) : LineData := BitVec.ofNat 1024 (leNat bs * 2 ^ (8 * o))
/-- `n` bytes of a line from byte `o`. -/
def lineBytes (v : LineData) (o n : Nat) : List Byte := leBytes (v.toNat / 2 ^ (8 * o)) n

/-! ### The key slots at the controllers -/

/-- R300: the stored form of a line under a key slot; slot 0 is plaintext. -/
def Dev.encrypt (d : Dev) (key l : Nat) (v : LineData) : LineData :=
  if key = 0 || isHost l then v
  else match d.keys.find? key with
    | some k => xtsEncryptLine k (d.tweak l) v
    | none => v

def Dev.decrypt (d : Dev) (key l : Nat) (v : LineData) : LineData :=
  if key = 0 || isHost l then v
  else match d.keys.find? key with
    | some k => xtsDecryptLine k (d.tweak l) v
    | none => v

/-- Is a key slot usable: slot 0, or a loaded slot (R409). -/
def Dev.keyLoaded (d : Dev) (key : Nat) : Bool := key == 0 || (d.keys.find? key).isSome

/-! ### Poison (R285, R299) -/

def Dev.isPoison (d : Dev) (l : Nat) : Bool := d.poison.contains l

/-- The entries of an interface's poison table. -/
def Dev.poisonUsed (d : Dev) (m : Nat) : Nat := (d.poison.filter fun l => isCapacity l && lineIface l == m).length

/-- Marks or clears the stored poison of a line. R299: a capacity interface's table holds 1,024 lines; a further one is
written without its poison and reported. -/
def Dev.setPoison (d : Dev) (l : Nat) (p : Bool) : Dev :=
  if !p then { d with poison := d.poison.erase l }
  else if d.isPoison l then d
  else if isCapacity l && d.poisonUsed (lineIface l) ≥ 1024 then
    ((d.count F.LPD_UE_COUNT_count (lineIface l)).errEvent (d.channelPart (lineChannel l)) 5).err
      { class_ := 2, source := some 6, unit := lineIface l, part := (d.channelPart (lineChannel l)).getD 0xff, detail := l }
  else { d with poison := insSorted l d.poison }

/-! ### The vault bus -/

/-- One line transfer on a vault's bus: the counts of R302, the turnaround, the row it opens (R275, R281) and the wake
of a vault that has powered down (R514). -/
def Dev.vaultTransfer (d : Dev) (l : Nat) (write : Bool) : Dev :=
  let v := lineVault l
  let s := d.vaults.getD v {}
  let o := (l % 2 ^ 23) * 128
  let row := bits o 29 16
  let bank := (bits o 15 10) ^^^ (bits row 5 0) ^^^ (bits row 11 6)
  let dir := if write then 2 else 1
  let d := d.when (s.dir != 0 && s.dir != dir) fun d => (d.count F.VLT_TURN_COUNT_count v).clusterEvent v 0x4d
  let d := (d.count (if write then F.VLT_WRITE_LINES_count else F.VLT_READ_LINES_count) v).clusterEvent v
    (if write then 0x4c else 0x4b)
  let st := d.fld F.VLT_STATUS_state v
  let d := d.when (st == 3 || st == 4) (·.setFld F.VLT_STATUS_state v 2)
  { d with vaults := d.vaults.insert v { s with dir := dir, open_ := s.open_.insert bank row } }

/-- R283: the bits of the line that a symbol's mask inverts. Mask bit 2b is the symbol's even lane in beat b and bit
2b + 1 its odd lane (log entry 6); check symbols invert no data. -/
def symbolBits (sym mask : Nat) : LineData :=
  if sym < 64 then
    BitVec.ofNat 1024 ((List.range 16).foldl
      (fun a i => if bitAt mask i then a + 2 ^ (128 * (i / 2) + 2 * sym + i % 2) else a) 0)
  else 0

/-- The error a read meets: the line's own upsets and an injected one, by symbol, a mask of zero being none. -/
def combineErrs (a b : List (Nat × Nat)) : List (Nat × Nat) :=
  let xs := (a ++ b).foldl (fun m x => NMap.insert m x.1 (NMap.getD m x.1 0 ^^^ x.2)) ([] : NMap Nat)
  xs.filter fun x => x.2 != 0

/-- What the decoder makes of the wrong symbols of a line (R283). -/
inductive EccOutcome where
  | clean
  | corrected (sym : Nat)
  | detected
  | missed
deriving DecidableEq, Repr

def eccDecode (errs : List (Nat × Nat)) : EccOutcome :=
  match errs with
  | [] => .clean
  | [x] => .corrected x.1
  | _ => if errs.length ≤ 7 then .detected else if Config.eccMisses errs then .missed else .detected

/-- R284, R288: a corrected error is counted and recorded, by symbol too. -/
def Dev.eccCorrected (d : Dev) (l sym : Nat) : Dev :=
  let v := lineVault l
  let s := d.vaults.getD v {}
  let d := (d.count F.VLT_CE_COUNT_count v).errEvent (d.clusterPart v) 0
  let d := (((d.setFld F.VLT_ECC_LAST_valid v 1).setFld F.VLT_ECC_LAST_uncorrectable v 0).setFld
    F.VLT_ECC_LAST_symbol v sym).setFld F.VLT_ECC_LAST_line v (l % 2 ^ 23)
  { d with vaults := d.vaults.insert v { s with ceBySym := s.ceBySym.insert sym (s.ceBySym.getD sym 0 + 1) } }

/-- R284: an uncorrectable error is counted, recorded and reported. -/
def Dev.eccDetected (d : Dev) (l : Nat) : Dev :=
  let v := lineVault l
  let d := (d.count F.VLT_UE_COUNT_count v).errEvent (d.clusterPart v) 1
  let d := (((d.setFld F.VLT_ECC_LAST_valid v 1).setFld F.VLT_ECC_LAST_uncorrectable v 1).setFld
    F.VLT_ECC_LAST_symbol v 0).setFld F.VLT_ECC_LAST_line v (l % 2 ^ 23)
  d.err { class_ := 2, source := some 2, unit := v, part := (d.clusterPart v).getD 0xff, detail := some (l % 2 ^ 23) }

/-- The injection armed in VLT_INJECT, and the register disarmed: the next read of the vault sees it (R302). -/
def Dev.takeInject (d : Dev) (v : Nat) : List (Nat × Nat) × Dev :=
  let mask := d.fld F.VLT_INJECT_mask v
  if d.flag F.VLT_INJECT_arm v && mask != 0 then
    let sym := d.fld F.VLT_INJECT_symbol v
    let es := if d.flag F.VLT_INJECT_two v then [(sym, mask), ((sym + 1) % 72, mask)] else [(sym, mask)]
    (es, d.setFld F.VLT_INJECT_arm v 0)
  else ([], d)

/-- A stacked line read by its vault controller: stored bytes and poison as decoded (R283 to R285). A corrected upset is
written back. -/
def Dev.vaultRead (d : Dev) (l : Nat) : Dev × LineData × Bool :=
  let d := d.vaultTransfer l false
  let (inj, d) := d.takeInject (lineVault l)
  let own := d.upsets.getD l []
  let errs := combineErrs own inj
  let raw := d.rawLine l
  let p := d.isPoison l
  match eccDecode errs with
  | .clean => (d, raw, p)
  | .corrected sym =>
    let d := d.eccCorrected l sym
    if own.isEmpty then (d, raw, p)
    else ({ d with upsets := d.upsets.erase l }.vaultTransfer l true, raw, p)
  | .detected => (d.eccDetected l, raw, true)
  | .missed => (d, raw ^^^ errs.foldl (fun a x => a ^^^ symbolBits x.1 x.2) 0, p)

/-! ### Lines at their controllers -/

/-- R596: a contained record for a host access that failed or carried poison. -/
def Dev.hostErr (d : Dev) (l : Nat) : Dev := d.err { class_ := 2, source := some 8, detail := hostBus l }

/-- R409: the record of an access under an empty key slot. -/
def Dev.keyErr (d : Dev) (key l : Nat) : Dev :=
  d.err { class_ := 2, source := some 7, unit := key, detail := l }

/-- A line read at its controller under a key slot, in plaintext, with its poison (R300, R409, R596). -/
def Dev.readMem (d : Dev) (l key : Nat) : Dev × LineData × Bool :=
  if isHost l then
    if d.hostFail.contains l then (({ d with hostFail := d.hostFail.erase l }).hostErr l, d.rawLine l, true)
    else if d.isPoison l then (d.hostErr l, d.rawLine l, true)
    else (d, d.rawLine l, false)
  else
    let (d, raw, p) := if isStacked l then d.vaultRead l else (d, d.rawLine l, d.isPoison l)
    if d.keyLoaded key then (d, d.decrypt key l raw, p) else (d, raw, true)

/-- A whole line written at its controller under a key slot. R409: under an empty slot the write is dropped and counted.
R596: poison goes to the host marked. -/
def Dev.writeMem (d : Dev) (l key : Nat) (v : LineData) (p : Bool) : Dev :=
  if isHost l then
    let d := d.setRawLine l v
    if p then { d with hostMarked := insSorted l d.hostMarked, poison := insSorted l d.poison }.hostErr l
    else { d with hostMarked := d.hostMarked.erase l, poison := d.poison.erase l }
  else if d.keyLoaded key then
    let d := if isStacked l then ({ d with upsets := d.upsets.erase l }).vaultTransfer l true else d
    (d.setRawLine l (d.encrypt key l v)).setPoison l p
  else (d.count F.XLT_KEY_DROP_COUNT_count 0).keyErr key l

end Sys2Proof.Machine
end

