-- ==== Sys2Proof/Machine/Coherence.lean ====
section
/-! DEFINITION. The L2s and the homes: the tables of R320 and R321, the choice of supplier (R324), directory eviction
(R326) and the transactions of R322. A transaction advances one message at a time; `driveLine` carries every message of
a line's transactions through, which is how an instruction's access completes. -/

namespace Sys2Proof.Machine

def Dev.agent (d : Dev) (a : Nat) : CacheAgent := d.agents.getD a {}
def Dev.setAgent (d : Dev) (a : Nat) (g : CacheAgent) : Dev := { d with agents := d.agents.put a g {} }
def Dev.home (d : Dev) (h : Nat) : Home := d.homes.getD h {}
def Dev.setHome (d : Dev) (h : Nat) (x : Home) : Dev := { d with homes := d.homes.put h x {} }
def Dev.entry (d : Dev) (l : Nat) : Option DirEntry := (d.home (lineHome l)).entries.find? l
def Dev.txn (d : Dev) (l : Nat) : Option HomeTxn := (d.home (lineHome l)).txns.find? l

def Dev.setEntry (d : Dev) (l : Nat) (e : Option DirEntry) : Dev :=
  let h := lineHome l
  let x := d.home h
  d.setHome h { x with entries := match e with | some e => x.entries.insert l e | none => x.entries.erase l }

def Dev.setTxn (d : Dev) (l : Nat) (t : Option HomeTxn) : Dev :=
  let h := lineHome l
  let x := d.home h
  d.setHome h { x with txns := match t with | some t => x.txns.insert l t | none => x.txns.erase l }

/-- An agent's copy of a line, in its cache or its side buffer. -/
def CacheAgent.find (g : CacheAgent) (l : Nat) : Option L2Line :=
  match g.lines.find? l with
  | some x => some x
  | none => (g.side.find? (·.1 == l)).map (·.2)

def CacheAgent.drop (g : CacheAgent) (l : Nat) : CacheAgent :=
  { g with lines := g.lines.erase l, side := g.side.filter (·.1 != l), hold := g.hold.erase l }

/-- A copy replaced where it stands. -/
def CacheAgent.update (g : CacheAgent) (l : Nat) (x : L2Line) : CacheAgent :=
  if (g.lines.find? l).isSome then { g with lines := g.lines.insert l x }
  else { g with side := g.side.map fun y => if y.1 == l then (l, x) else y }

/-- R137: the reservations that convoys of a cluster hold on a line are lost; `keep` is a core and slot whose own are
kept. -/
def Dev.breakResv (d : Dev) (cluster l : Nat) (keep : Option (Nat × Nat) := none) : Dev :=
  { d with cores := d.cores.map fun (k, c) =>
      if k / 8 = cluster then
        (k, { c with convoys := c.convoys.map fun (n, v) =>
          if keep = some (k, n) then (n, v) else (n, { v with resv := v.resv.filter (·.2 != l) }) })
      else (k, c) }

/-! ### Directory entries (R319) -/

/-- The group bit of an agent in a coarse vector. -/
def groupBit (a : Nat) : Nat := if a < 200 then clusterQuad a else 50 + (a - 200) / 3

/-- The agents a coarse vector stands for. -/
def vecAgents (vec : Nat) : List Nat :=
  (List.range 224).filter fun a => bitAt vec (groupBit a)

/-- Every agent that may hold a copy. -/
def DirEntry.holders (e : DirEntry) : List Nat :=
  let s := if e.coarse then vecAgents e.vec else e.sharers
  match e.owner with
  | some o => insSorted o s
  | none => s

/-- A sharer added; a fifth makes the entry coarse (R319). -/
def DirEntry.addSharer (e : DirEntry) (a : Nat) : DirEntry × Bool :=
  if e.coarse then ({ e with vec := if bitAt e.vec (groupBit a) then e.vec else e.vec + 2 ^ groupBit a }, false)
  else if e.sharers.contains a then (e, false)
  else if e.sharers.length < 4 then ({ e with sharers := insSorted a e.sharers }, false)
  else ({ e with coarse := true, sharers := [], vec := listMask ((e.sharers ++ [a]).map groupBit) }, true)

/-- An entry in state X with one holder, exact again. -/
def DirEntry.toX (e : DirEntry) (a : Nat) : DirEntry :=
  { e with st := .X, owner := some a, coarse := false, sharers := [], vec := 0 }

/-- Does the entry name an agent as a sharer or the owner. -/
def DirEntry.names (e : DirEntry) (a : Nat) : Bool :=
  e.owner == some a || (if e.coarse then bitAt e.vec (groupBit a) else e.sharers.contains a)

/-- An agent that has given up its copy is removed (R321, R322). A coarse vector keeps its bit, since the bit stands
for the agent's whole group (log entry 10). -/
def DirEntry.remove (e : DirEntry) (a : Nat) : Option DirEntry :=
  if e.owner == some a then
    if e.st = .X then none
    else if e.coarse then some { e with st := .S, owner := none }
    else if e.sharers.isEmpty then none
    else some { e with st := .S, owner := none }
  else if e.coarse then some e
  else
    let s := e.sharers.erase a
    if s.isEmpty && e.st = .S then none else some { e with sharers := s }

/-! ### Choosing the supplier (R324) -/

/-- A candidate: an agent, or memory (none). -/
def supplierKey (l req : Nat) (c : Option Nat) : Nat :=
  let pos := match c with | some a => agentPos a | none => memPos l
  let tie := match c with
    | some a => 2 * a
    | none => if isStacked l then 2 * lineVault l + 1 else 2 * (200 + lineIface l) + 1
  hops (agentPos req) pos * 1024 + tie

/-- The supplier of a GetS or GetM under an entry; a Qorriop L2 is a candidate only as the owner or the X holder. The
requester never supplies itself. -/
def chooseSupplier (e : DirEntry) (l req : Nat) : Option Nat :=
  let cands : List (Option Nat) :=
    if e.coarse then
      match e.owner with
      | some o => [some o]
      | none => [none]
    else
      ((match e.owner with | some o => [o] | none => []) ++ e.sharers.filter (· < 200)).map some
        ++ (if e.st = .S then [none] else [])
  ((minBy (supplierKey l req) (cands.filter (· != some req)))).getD none

/-! ### Evictions reaching a home -/

/-- R321, last column but two: a notify or a write back taken by a home with no transaction on the line. A write back
from an agent the entry no longer names as owner is acknowledged without effect (R322). -/
def Dev.homeEvict (d : Dev) (r : HomeReq) : Dev :=
  match d.entry r.line with
  | none => d
  | some e =>
    match r.op with
    | .writeBack v key p =>
      if e.owner == some r.agent then (d.writeMem r.line key v p).setEntry r.line (e.remove r.agent) else d
    | _ => d.setEntry r.line (e.remove r.agent)

/-- The acknowledgement of a write back frees the victim buffer (R322). -/
def Dev.ackEvict (d : Dev) (r : HomeReq) : Dev :=
  let g := d.agent r.agent
  d.setAgent r.agent { g with victim := g.victim.erase r.line }

/-- A request that must wait joins the home's queue (R322). -/
def Dev.enqueue (d : Dev) (r : HomeReq) : Dev :=
  let h := lineHome r.line
  let x := d.home h
  d.setHome h { x with queue := x.queue ++ [r] }

/-- A caching agent sends a notify or a write back: taken at once, or queued behind the line's transaction with the line
in the victim buffer until the home acknowledges it. -/
def Dev.sendEvict (d : Dev) (a l : Nat) (x : L2Line) : Dev :=
  let dirty := x.st == .M || x.st == .O
  let r : HomeReq := ⟨l, a, if dirty then .writeBack x.data x.key x.poison else .notify, x.key⟩
  match d.txn l with
  | none => d.homeEvict r
  | some _ =>
    let d := if dirty then
        let g := d.agent a
        d.setAgent a { g with victim := g.victim.insert l x }
      else d
    d.enqueue r

/-- A line leaves an L2 (R320, Eviction), with the reservations on it (R137). -/
def Dev.evictLine (d : Dev) (a l : Nat) : Dev :=
  match (d.agent a).find l with
  | none => d
  | some x => ((d.setAgent a ((d.agent a).drop l)).breakResv a l).sendEvict a l x

/-! ### Filling an L2 (R304, R305, R317) -/

def l2Set (l : Nat) : Nat := Config.l2Hash l % 1024

/-- The ways of a set that hold a line, with the line's number and age. -/
def CacheAgent.setLines (g : CacheAgent) (set : Nat) : List (Nat × L2Line) :=
  g.lines.filter fun x => l2Set x.1 == set

/-- A line with a transaction of this agent in flight is never chosen (R317). -/
def Dev.lineBusy (d : Dev) (a l : Nat) : Bool :=
  match d.txn l with
  | some t => t.req.agent == a || t.fwd == some a || t.toInv.contains a
  | none => false

/-- R317: the lowest-numbered way of age 3, after adding to every age in the set what brings the oldest to 3. Answers
the way's line and the amount added. -/
def nruVictim (l : List (Nat × Nat × Nat)) : Option (Nat × Nat) :=
  let top := l.foldl (fun a x => max a x.2.2) 0
  let add := 3 - min 3 top
  (minBy (fun x => x.2.1) (l.filter fun x => x.2.2 + add ≥ 3)).map fun x => (x.1, add)

/-- A line installed in a cluster's L2 or a Qorriop L2 with an age, a victim evicted where its set is full. A Qorriop
L2's sets are not in the spec and are not modelled (log entry 11). -/
def Dev.l2Install (d : Dev) (a l : Nat) (x : L2Line) : Dev :=
  let g := d.agent a
  if (g.find l).isSome then d.setAgent a (g.update l x)
  else if a ≥ 200 then d.setAgent a { g with lines := g.lines.insert l x }
  else
    let set := l2Set l
    let inSet := g.setLines set
    let ways := d.fld F.DIR_L2_CONFIG_cache_ways a
    match (List.range ways).find? fun w => inSet.all fun y => y.2.way != w with
    | some w => d.setAgent a { g with lines := g.lines.insert l { x with way := w } }
    | none =>
      match nruVictim ((inSet.filter fun y => !d.lineBusy a y.1).map fun y => (y.1, y.2.way, y.2.age)) with
      | none => d
      | some (v, add) =>
        let w := ((g.lines.find? v).map (·.way)).getD 0
        let aged := g.lines.map fun y =>
          if l2Set y.1 == set then (y.1, { y.2 with age := min 3 (y.2.age + add) }) else y
        let d := d.setAgent a { g with lines := aged }
        let d := d.evictLine a v
        let g := d.agent a
        d.setAgent a { g with lines := g.lines.insert l { x with way := w } }

/-! ### What an agent does with a message (R320) -/

/-- An agent's answer to a forward: data, its poison and key, whether it was dirty, whether it was evicting. -/
structure FwdAnswer where
  data : LineData
  poison : Bool
  key : Nat
  dirty : Bool
  evicting : Bool
deriving DecidableEq, Repr

/-- The agent's side of a forward for `op`. -/
def Dev.agentForward (d : Dev) (a l : Nat) (op : HomeOp) : Dev × Option FwdAnswer :=
  let g := d.agent a
  match g.find l with
  | some x =>
    let dirty := x.st == .M || x.st == .O
    let ans : FwdAnswer := ⟨x.data, x.poison, x.key, dirty, false⟩
    match op with
    | .getS =>
      let d := if a < 200 then d.clusterEvent a 0x43 else d
      let st := match x.st with | .E => LineSt.S | .M => .O | s => s
      (d.setAgent a (g.update l { x with st := st }), some ans)
    | .snoop => (d, some ans)
    | _ =>
      let d := if a < 200 then d.clusterEvent a 0x43 else d
      ((d.setAgent a (g.drop l)).breakResv a l, some ans)
  | none =>
    match g.victim.find? l with
    | some x => (d, some ⟨x.data, x.poison, x.key, true, true⟩)
    | none => (d, none)

/-- The agent's side of an invalidation: its copy is dropped. A dirty copy answers with its data, which a recall or a
part-line write takes (R325, R326). -/
def Dev.agentInvalidate (d : Dev) (a l : Nat) : Dev × Option FwdAnswer :=
  let g := d.agent a
  match g.find l with
  | some x =>
    let dirty := x.st == .M || x.st == .O
    ((d.setAgent a (g.drop l)).breakResv a l, if dirty then some ⟨x.data, x.poison, x.key, true, false⟩ else none)
  | none =>
    match g.victim.find? l with
    | some x => (d, some ⟨x.data, x.poison, x.key, true, true⟩)
    | none => (d, none)

/-! ### A home's transaction -/

def homeSets (h : Nat) : Nat := if h < 200 then 2048 else 4096

/-- R326: a way for a new entry of line `l`: a free one, or a victim to recall. -/
def Dev.dirWay (d : Dev) (l : Nat) : Sum Nat (Nat × Nat) :=
  let h := lineHome l
  let x := d.home h
  let set (k : Nat) : Nat := Config.dirHash h k % homeSets h
  let inSet := x.entries.filter fun y => set y.1 == set l
  match (List.range 16).find? fun w => inSet.all fun y => y.2.way != w with
  | some w => .inl w
  | none =>
    match nruVictim ((inSet.filter fun y => (x.txns.find? y.1).isNone).map fun y => (y.1, y.2.way, y.2.age)) with
    | some v => .inr v
    | none => .inr (l, 0)

/-- The entry after a request has used it: a hit sets its age to 0 (R317). -/
def DirEntry.used (e : DirEntry) : DirEntry := { e with age := 0 }

/-- Does the host hold a copy of a line through port CXL.mem (R412). -/
def Dev.hostHolds (d : Dev) (l : Nat) : Bool := d.hostHeld.any (·.2 == l)

/-- A new transaction opened on a line. -/
def Dev.openTxn (d : Dev) (t : HomeTxn) : Dev := d.setTxn t.req.line (some t)

/-- A home begins a request on a line with no transaction (R321), sending the first messages it needs. -/
def Dev.homeStart (d : Dev) (r : HomeReq) : Dev :=
  let h := lineHome r.line
  let l := r.line
  match r.op with
  | .notify | .writeBack _ _ _ => (d.homeEvict r).ackEvict r
  | .snoop =>
    let d := d.count F.DIR_SNOOP_COUNT_count h
    match d.entry l with
    | some e =>
      let d := d.setEntry l (some e.used)
      match e.owner with
      | some o => (d.count F.DIR_FWD_COUNT_count h).openTxn { req := r, fwd := some o }
      | none => d.openTxn { req := r }
    | none => d.openTxn { req := r }
  | .invWrite _ _ _ =>
    let held := (d.entry l).map (·.holders) |>.getD []
    d.openTxn { req := r, toInv := held, backInv := d.hostHolds l }
  | .recall =>
    let held := (d.entry l).map (·.holders) |>.getD []
    d.openTxn { req := r, toInv := held }
  | _ =>
    let own := r.op
    match d.entry l with
    | some e =>
      let d := d.setEntry l (some e.used)
      let upgradeOk := own == .upgrade && e.st != .X && e.names r.agent
      if upgradeOk then
        d.openTxn { req := r, toInv := e.holders.filter (· != r.agent), backInv := d.hostHolds l }
      else
        let op := if own == .upgrade then HomeOp.getM else own
        let sup := chooseSupplier e l r.agent
        let d := d.when sup.isSome (·.count F.DIR_FWD_COUNT_count h)
        let inv := if op == .getM then e.holders.filter (fun a => a != r.agent && some a != sup) else []
        d.openTxn { req := { r with op := op }, fwd := sup, toInv := inv, backInv := op == .getM && d.hostHolds l }
    | none =>
      let op := if own == .upgrade then HomeOp.getM else own
      match d.dirWay l with
      | .inl w =>
        (d.setEntry l (some { st := .X, owner := some r.agent, way := w })).openTxn
          { req := { r with op := op }, backInv := d.hostHolds l }
      | .inr (v, add) =>
        if v = l then d.enqueue r
        else
          let x := d.home h
          let aged := x.entries.map fun y =>
            if Config.dirHash h y.1 % homeSets h == Config.dirHash h l % homeSets h
            then (y.1, { y.2 with age := min 3 (y.2.age + add) }) else y
          let d := d.setHome h { x with entries := aged }
          let d := d.count F.DIR_EVICT_COUNT_count h
          let d := if r.agent < 200 then d.clusterEvent r.agent 0x44 else d
          let held := (d.entry v).map (·.holders) |>.getD []
          d.openTxn { req := ⟨v, r.agent, .recall, 0⟩, toInv := held, next := some r }

/-- The supplier's answer reaches the home and the requester (R321, R322). -/
def Dev.takeForward (d : Dev) (t : HomeTxn) (a : Nat) (ans : Option FwdAnswer) : Dev :=
  let l := t.req.line
  match ans with
  | none => (d.setEntry l ((d.entry l).bind (·.remove a))).openTxn { t with fwd := none }
  | some x =>
    let t1 := { t with fwd := none, data := some (x.data, x.poison) }
    if x.evicting then
      let d := d.writeMem l x.key x.data x.poison
      let d := d.setEntry l ((d.entry l).bind (·.remove a))
      d.openTxn t1
    else
      match t.req.op with
      | .getS =>
        let e := (d.entry l).getD { st := .X, owner := some a }
        let e1 : DirEntry :=
          if e.st = .X then
            if x.dirty then { e with st := .O, owner := some a, sharers := [] }
            else { e with st := .S, owner := none, sharers := [a] }
          else e
        (d.setEntry l (some e1)).openTxn t1
      | _ => d.openTxn t1

/-- An agent acts on the invalidation sent to it; its acknowledgement is on its way. -/
def Dev.takeInvalidate (d : Dev) (t : HomeTxn) (a : Nat) (ans : Option FwdAnswer) : Dev :=
  let toMem := match ans with
    | some x => some (x.data, x.key, x.poison)
    | none => t.toMem
  d.openTxn { t with toInv := t.toInv.erase a, acks := t.acks ++ [a], toMem := toMem }

/-- Does a transaction wait for nothing more. -/
def HomeTxn.ready (t : HomeTxn) : Bool := t.fwd.isNone && t.toInv.isEmpty && t.acks.isEmpty && !t.backInv

/-- The data of a transaction: what an agent supplied, or memory's. -/
def Dev.txnData (d : Dev) (t : HomeTxn) : Dev × LineData × Bool :=
  match t.data with
  | some (v, p) => (d, v, p)
  | none => d.readMem t.req.line t.req.key

/-- A caching agent's request done: the line installed in its L2. A line held already keeps its place. -/
def Dev.grant (d : Dev) (r : HomeReq) (st : LineSt) (v : LineData) (p : Bool) : Dev :=
  if r.agent < 300 then d.l2Install r.agent r.line { way := 0, st := st, data := v, age := 1, key := r.key, poison := p }
  else d

/-- The transaction on a line ends (R321): the entry's new state, the requester's line, memory's bytes. Answers what the
requester received. -/
def Dev.homeFinish (d : Dev) (t : HomeTxn) : Dev × Option (LineData × Bool) :=
  let l := t.req.line
  let a := t.req.agent
  let d := d.setTxn l none
  match t.req.op with
  | .getS =>
    let (d, v, p) := d.txnData t
    match d.entry l with
    | some e =>
      if e.st = .X && (e.owner == some a || e.owner == none) then
        ((d.setEntry l (some (e.toX a))).grant t.req .E v p, some (v, p))
      else
        let (e, wide) := e.addSharer a
        let d := d.when wide (·.count F.DIR_COARSE_COUNT_count (lineHome l))
        ((d.setEntry l (some e)).grant t.req .S v p, some (v, p))
    | none => ((d.setEntry l (some (DirEntry.toX { st := .X } a))).grant t.req .E v p, some (v, p))
  | .getM =>
    let (d, v, p) := d.txnData t
    let e := (d.entry l).getD { st := .X }
    ((d.setEntry l (some (e.toX a))).grant t.req .M v p, some (v, p))
  | .upgrade =>
    let e := (d.entry l).getD { st := .X }
    let d := d.setEntry l (some (e.toX a))
    match (d.agent a).find l with
    | some x => (d.setAgent a ((d.agent a).update l { x with st := .M }), some (x.data, x.poison))
    | none => (d, none)
  | .snoop =>
    let (d, v, p) := d.txnData t
    (d, some (v, p))
  | .invWrite v m p =>
    if m = fullMask then ((d.setEntry l none).writeMem l t.req.key v p, none)
    else
      let (d, old, op) := match t.toMem with
        | some (v, k, p) => (d.writeMem l k v p, v, p)
        | none => d.readMem l t.req.key
      ((d.setEntry l none).writeMem l t.req.key (mergeLine old v m) (p || op), none)
  | .recall =>
    let d := match t.toMem with | some (v, k, p) => d.writeMem l k v p | none => d
    (d.setEntry l none, none)
  | _ => (d, none)

/-- The next request in a home's queue whose line is free begins, in order of arrival. -/
def Dev.homeNext (d : Dev) (h : Nat) : Dev :=
  let x := d.home h
  match findWithIdx (fun r : HomeReq => (x.txns.find? r.line).isNone) x.queue with
  | none => d
  | some (i, r) => (d.setHome h { x with queue := x.queue.eraseIdx i }).homeStart r

/-- Requests that may begin do, up to a bound above the queue's length. -/
def Dev.homeNexts (d : Dev) (h : Nat) : Nat → Dev
  | 0 => d
  | n + 1 => Dev.homeNexts (d.homeNext h) h n

/-- A transaction that waits for nothing ends, and what it held up begins. -/
def Dev.homeSettle (d : Dev) (l : Nat) : Dev × Option (LineData × Bool) :=
  match d.txn l with
  | none => (d, none)
  | some t =>
    if t.ready then
      let (d, r) := d.homeFinish t
      let d := match t.next with | some n => d.homeStart n | none => d
      let h := lineHome l
      (d.homeNexts h (d.home h).queue.length, r)
    else (d, none)

/-- A request reaches its home: it begins, or waits behind the line's transaction (R322). -/
def Dev.homeArrive (d : Dev) (r : HomeReq) : Dev :=
  match d.txn r.line with
  | some _ => d.enqueue r
  | none => d.homeStart r

/-- One message of a line's transaction is carried through. -/
def Dev.advanceTxn (d : Dev) (t : HomeTxn) : Dev :=
  let l := t.req.line
  match t.fwd with
  | some a =>
    let (d, ans) := d.agentForward a l t.req.op
    d.takeForward t a ans
  | none =>
    match t.toInv with
    | a :: _ =>
      let (d, ans) := d.agentInvalidate a l
      d.takeInvalidate t a ans
    | [] =>
      match t.acks with
      | _ :: as => d.openTxn { t with acks := as }
      | [] => { d.openTxn { t with backInv := false } with hostHeld := d.hostHeld.filter (·.2 != l) }

/-- Every message of a line's transactions carried through; answers what the last finished request received. -/
def Dev.driveLine (d : Dev) (l : Nat) : Nat → Dev × Option (LineData × Bool)
  | 0 => (d, none)
  | n + 1 =>
    match d.txn l with
    | none => (d, none)
    | some t =>
      if t.ready then
        let (d, r) := d.homeSettle l
        match d.txn l with
        | none => (d, r)
        | some _ => Dev.driveLine d l n
      else Dev.driveLine (d.advanceTxn t) l n

/-- A bound on the messages of a line's transactions: each of at most 66 requests takes at most 224 forwards,
invalidations and acknowledgements of each kind. -/
def driveFuel : Nat := 40000

/-- An access's own request, carried through after whatever was in flight on the line; where the request first recalls a
victim entry (R326), the recall is carried through too. -/
def Dev.request (d : Dev) (r : HomeReq) : Dev × Option (LineData × Bool) :=
  let (d, _) := d.driveLine r.line driveFuel
  let d := d.homeArrive r
  let waiting := (d.home (lineHome r.line)).txns.filter fun t => t.2.next == some r
  let d := d.each waiting fun d t => (d.driveLine t.1 driveFuel).1
  d.driveLine r.line driveFuel

/-! ### A cluster's L2 (R309, R316, R327) -/

def Dev.l2Hit (d : Dev) (c : Nat) : Dev := (d.count F.DIR_L2_HITS_count c).clusterEvent c 0x40
def Dev.l2Miss (d : Dev) (c : Nat) : Dev := (d.count F.DIR_L2_MISSES_count c).clusterEvent c 0x41

/-- A line brought into a cluster's L2 for reading: a hit, a side-buffer hit (to the L2 at age 0) or GetS. Host lines
are never held (R412). -/
def Dev.l2Read (d : Dev) (c l key : Nat) : Dev × LineData × Bool :=
  if isHost l then (d.l2Miss c).readMem l key
  else
    let g := d.agent c
    match g.lines.find? l with
    | some x => ((d.setAgent c { g with lines := g.lines.insert l { x with age := 0 } }).l2Hit c,
        x.data, x.poison)
    | none =>
      match g.side.find? (·.1 == l) with
      | some y =>
        let d := d.setAgent c { g with side := g.side.filter (·.1 != l) }
        (((d.l2Install c l { y.2 with age := 0 }).l2Hit c).clusterEvent c 0x42, y.2.data, y.2.poison)
      | none =>
        let (d, r) := (d.l2Miss c).request ⟨l, c, .getS, key⟩
        match r with
        | some (v, p) => (d, v, p)
        | none => (d, 0, false)

/-- A line brought into a cluster's L2 in state M (R320, Own write or atomic): answers its data and poison. -/
def Dev.l2Own (d : Dev) (c l key : Nat) : Dev × LineData × Bool :=
  let g := d.agent c
  match g.find l with
  | some x =>
    let d := d.l2Hit c
    let d := if (g.lines.find? l).isSome then d
      else (d.setAgent c { g with side := g.side.filter (·.1 != l) }).l2Install c l { x with age := 0 }
    match x.st with
    | .M | .E =>
      let g := d.agent c
      (d.setAgent c (g.update l { x with st := .M, age := 0, way := ((g.lines.find? l).map (·.way)).getD 0 }),
        x.data, x.poison)
    | _ =>
      let (d, r) := d.request ⟨l, c, .upgrade, key⟩
      match r with
      | some (v, p) => (d, v, p)
      | none => (d, 0, false)
  | none =>
    let (d, r) := (d.l2Miss c).request ⟨l, c, .getM, key⟩
    match r with
    | some (v, p) => (d, v, p)
    | none => (d, 0, false)

/-- A masked write accepted by a cluster's L2 (R309): the line gained in M, the masked bytes replaced. A clean full-line
write clears poison (R323). Host lines go to the host. -/
def Dev.l2Write (d : Dev) (c l key : Nat) (v : LineData) (m : LineMask) (p : Bool)
    (keep : Option (Nat × Nat) := none) : Dev :=
  if isHost l then
    if m = fullMask then d.writeMem l 0 v p
    else
      let old := d.rawLine l
      d.writeMem l 0 (mergeLine old v m) (p || d.isPoison l)
  else
    let (d, old, op) := d.l2Own c l key
    let g := d.agent c
    let d := d.breakResv c l keep
    match g.find l with
    | some x => d.setAgent c ((d.agent c).update l
        { x with st := .M, data := mergeLine old v m, key := key, poison := p || (op && m != fullMask) })
    | none => d

/-! ### I/O agents (R325) -/

/-- A snoop read by an I/O agent. -/
def Dev.ioRead (d : Dev) (a l key : Nat) : Dev × LineData × Bool :=
  if isHost l then d.readMem l key
  else
    let (d, r) := d.request ⟨l, a, .snoop, key⟩
    match r with
    | some (v, p) => (d, v, p)
    | none => (d, 0, false)

/-- An invalidating write by an I/O agent; part of a line is first taken back and merged. -/
def Dev.ioWrite (d : Dev) (a l key : Nat) (v : LineData) (m : LineMask) (p : Bool) : Dev :=
  if m = 0 then d
  else if isHost l then
    if m = fullMask then d.writeMem l 0 v p
    else d.writeMem l 0 (mergeLine (d.rawLine l) v m) (p || d.isPoison l)
  else (d.request ⟨l, a, .invWrite v m p, key⟩).1

end Sys2Proof.Machine
end

