-- ==== Sys2Proof/Machine/Phys.lean ====
section
/-! DEFINITION. Accesses by device physical address (R567 to R569), the rings in memory, interrupt messages and the
error records of R539. -/

namespace Sys2Proof.Machine

/-- Splits `n` bytes from address `a` at line boundaries: (address, length) pieces. -/
def linePieces (a : Nat) : Nat → Nat → List (Nat × Nat)
  | 0, _ => []
  | _, 0 => []
  | fuel + 1, n =>
    let k := min n (128 - a % 128)
    (a, k) :: linePieces (a + k) fuel (n - k)

/-- The pieces of `n` bytes from `a`. -/
def pieces (a n : Nat) : List (Nat × Nat) := linePieces a (n / 128 + 2) n

/-- R568, last row: an access by an engine to an unmapped address. -/
def Dev.unmappedErr (d : Dev) (pa : Nat) : Dev := d.err { class_ := 2, source := some 8, detail := pa }

/-- The line a target lies in. -/
def Target.lineOf? : Target → Option Nat
  | .line l => some l
  | .host port bus => some (hostLineBase port + bus / 128)
  | _ => none

/-- Bytes read by agent `a` at a device physical address; an unmapped address reads as poison (R568), its bytes zero
(log entry 12). -/
def Dev.physRead (d : Dev) (a key pa n : Nat) : Dev × List Byte × Bool :=
  (pieces pa n).foldl (fun (acc : Dev × List Byte × Bool) pc =>
    let (d, bs, p) := acc
    match (d.target pc.1).lineOf? with
    | some l =>
      let (d, v, q) := d.ioRead a l key
      (d, bs ++ lineBytes v (pc.1 % 128) pc.2, p || q)
    | none => (d.unmappedErr pc.1, bs ++ List.replicate pc.2 0, true)) (d, [], false)

/-- One line piece written by agent `a` at a device physical address. -/
def Dev.physWritePiece (d : Dev) (a key pa : Nat) (bs : List Byte) (p : Bool) : Dev :=
  match (d.target pa).lineOf? with
  | some l => d.ioWrite a l key (lineOf (pa % 128) bs) (byteMask (pa % 128) bs.length) p
  | none => d.unmappedErr pa

/-- Bytes written by agent `a` at a device physical address; an unmapped address drops them (R568). -/
def Dev.physWrite (d : Dev) (a key pa : Nat) (bs : List Byte) (p : Bool := false) : Dev :=
  ((pieces pa bs.length).foldl (fun (acc : Dev × List Byte) pc =>
    (acc.1.physWritePiece a key pc.1 (acc.2.take pc.2) p, acc.2.drop pc.2)) (d, bs)).1

/-- The agent that ring, save and restore traffic goes as: the system mover beside the wardens (log entry 13). -/
def ringAgent : Nat := 300

/-! ### Rings of records at device physical addresses -/

/-- The ring's base address and its number of entries; none where log2_entries is 0. -/
def Dev.ring (d : Dev) (r : Reg) (i : Nat) : Option (Nat × Nat) :=
  let v := d.reg r i
  let n := v % 16
  if n = 0 then none else some (bits v 63 12 * 4096, 2 ^ n)

/-- Records `k` still free in a ring that is full when head + 1 equals tail. -/
def ringFree (head tail size : Nat) : Nat := (tail + size - head % size - 1) % size

/-- One record written at the head, and the head advanced. -/
def Dev.ringPush (d : Dev) (r : Reg) (head : Fld) (i : Nat) (rec : List Byte) : Dev :=
  match d.ring r i with
  | none => d
  | some (base, size) =>
    let h := d.fld head i % size
    (d.physWrite ringAgent 0 (base + h * rec.length) rec).setFld head i ((h + 1) % size)

/-! ### Interrupts (R416, R441) -/

/-- Virtual functions enabled on a port. -/
def Dev.vfCount (d : Dev) (port : Nat) : Nat := d.fld F.HIF_PORT_STATUS_vf_count port

/-- The MSI-X table size of a function: 32 for a VF, the rest for the PF. -/
def Dev.msixSize (d : Dev) (port fn : Nat) : Nat := if fn = 0 then 2048 - 32 * d.vfCount port else 32

/-- A message of the device's own, from the PF of a port or to HIF_SELF_HART. A vector beyond the PF's table, vector 0
of a hart or a held hart is not sent. -/
def Dev.sendVector (d : Dev) (self : Bool) (port vector : Nat) : Dev :=
  if self then
    let k := d.reg .HIF_SELF_HART 0 % 32
    if vector = 0 || heldHart k then d else { d.barWake with irqs := d.irqs ++ [.imsic k vector] }
  else if vector < d.msixSize port 0 then { d with irqs := d.irqs ++ [.msix port 0 vector] }
  else d

/-- The message of a control register laid out as PRT_SLOW_CTRL (enable 31, self 13, port 12, vector 10:0). -/
def Dev.sendCtrl (d : Dev) (r : Reg) (i : Nat) : Dev :=
  let v := d.reg r i
  if bitAt v 31 then d.sendVector (bitAt v 13) (bits v 12 12) (bits v 10 0) else d

/-! ### Traces (R560, R561) -/

/-- A hardware event for a partition's trace: written to the ring at once where it has room, else dropped and counted
(log entry 16). -/
def Dev.trace (d : Dev) (p kind cluster core slot : Nat) (tag : Nat × Nat × Nat) (seq detail : Nat) : Dev :=
  let c := d.reg .DBG_TRACE_CTRL p
  let ok := bitAt c 63 && bitAt c kind && !d.frozen && (!bitAt c 62 || bits c 47 32 == tag.2.1) &&
    (!bitAt c 61 || bits c 31 16 == tag.2.2)
  if !ok then d
  else
    match d.ring .DBG_TRACE_RING p with
    | none => d.count F.DBG_TRACE_DROPPED_count p
    | some (_, size) =>
      if ringFree (d.fld F.DBG_TRACE_HEAD_index p) (d.fld F.DBG_TRACE_TAIL_index p) size = 0
      then d.count F.DBG_TRACE_DROPPED_count p
      else
        d.ringPush .DBG_TRACE_RING F.DBG_TRACE_HEAD_index p
          (leBytes d.time 8 ++ leBytes kind 1 ++ leBytes p 1 ++ leBytes cluster 2 ++ leBytes core 1 ++ leBytes slot 1 ++
            leBytes tag.1 2 ++ leBytes tag.2.1 2 ++ leBytes tag.2.2 2 ++ leBytes seq 4 ++ leBytes detail 8)

/-! ### Error records (R539) -/

/-- The 32 bytes of a record. -/
def errBytes (time : Nat) (e : ErrRec) : List Byte :=
  leBytes e.class_ 1 ++ leBytes (e.source.getD 0) 1 ++ leBytes (e.unit.getD 0) 2 ++ leBytes e.part 1 ++
    leBytes (e.code.getD 0) 1 ++ leBytes e.proposal 2 ++ leBytes (e.detail.getD 0) 8 ++ leBytes time 8 ++ leBytes e.ctxTag 2 ++ leBytes e.layer 2 ++
    leBytes e.op 2 ++ leBytes 0 2

/-- One record to the warden event log and the error ring; a full or absent ring takes none, and a full one sets
err_dropped. The vector is sent when the ring goes from empty to non-empty. -/
def Dev.writeErr (d : Dev) (e : ErrRec) : Dev :=
  let bs := errBytes d.time e
  let d := { d with wlog := d.wlog ++ [BitVec.ofNat 256 (leNat bs)] }
  match d.ring .WDN_ERR_RING 0 with
  | none => d
  | some (_, size) =>
    let head := d.fld F.WDN_ERR_HEAD_index 0
    let tail := d.fld F.WDN_ERR_TAIL_index 0
    if ringFree head tail size = 0 then d.setFld F.WDN_STATUS_err_dropped 0 1
    else
      let empty := head % size == tail % size
      (d.ringPush .WDN_ERR_RING F.WDN_ERR_HEAD_index 0 bs).when empty (·.sendCtrl .WDN_EVENT_CTRL 0)

/-- The records of the command in progress written to the log and the ring; those that this raises are left. -/
def Dev.writeErrs (d : Dev) : Dev := { d with errQ := [] }.each d.errQ Dev.writeErr

/-- The records of the command in progress written to the event log alone (log entry 14). -/
def Dev.logErrs (d : Dev) : Dev :=
  { d with errQ := [], wlog := d.wlog ++ d.errQ.map fun e => BitVec.ofNat 256 (leNat (errBytes d.time e)) }

end Sys2Proof.Machine
end

