-- ==== Sys2Proof/Machine/Translate.lean ====
section
/-! DEFINITION. Translation: the caches of R391, the physical address of an access (R388), and the requests of R394. -/

namespace Sys2Proof.Machine

/-- Who translates: the engine and unit of R395, the partition and context, the command's labels, who waits, and the
TLBs on its path. -/
structure Requester where
  engine : Nat
  unit : Nat
  part : Nat
  asid : Nat
  ctxTag : Nat := 0
  layer : Nat := 0
  op : Nat := 0
  waiter : Waiter
  core : Option Nat := none
  mover : Option Nat := none
  cluster : Option Nat := none
deriving DecidableEq, Repr

/-! ### The caches -/

/-- The page sizes of R385 as powers of two. -/
def pageSizes : List Nat := [12, 16, 21, 30]

/-- Does an entry translate a 4 KiB page number of a context. -/
def TlbEntry.covers (e : TlbEntry) (asid page : Nat) : Bool :=
  e.asid == asid && e.page / 2 ^ (e.size - 12) == page / 2 ^ (e.size - 12)

/-- R598: the set of a page of size `p` among `2^s`. -/
def tlbSet (s p asid page : Nat) : Nat := (page / 2 ^ (p - 12) % 2 ^ s) ^^^ (asid % 2 ^ s)

/-- A lookup: the covering entry, its age set to 0. -/
def tlbFind (t : NMap TlbEntry) (asid page : Nat) : Option (TlbEntry × NMap TlbEntry) :=
  match List.find? (fun x => x.2.covers asid page) t with
  | some (k, e) => some ({ e with age := 0 }, t.insert k { e with age := 0 })
  | none => none

/-- R598: an entry filled into a set of `ways` places numbered from `set × ways`, at age 1. -/
def tlbFill (t : NMap TlbEntry) (set ways : Nat) (e : TlbEntry) : NMap TlbEntry :=
  let e := { e with age := 1 }
  if t.any fun x => x.2.covers e.asid e.page && x.2.size == e.size then
    t.map fun x => if x.2.covers e.asid e.page && x.2.size == e.size then (x.1, e) else x
  else
    let base := set * ways
    match (List.range ways).find? fun w => (t.find? (base + w)).isNone with
    | some w => t.insert (base + w) e
    | none =>
      let here := t.filter fun x => base ≤ x.1 && x.1 < base + ways
      match nruVictim (here.map fun x => (x.1, x.1, x.2.age)) with
      | some (k, add) =>
        let aged := t.map fun x =>
          if base ≤ x.1 && x.1 < base + ways then (x.1, { x.2 with age := min 3 (x.2.age + add) }) else x
        NMap.insert aged k e
      | none => t

def Dev.core (d : Dev) (k : Nat) : Core := d.cores.getD k {}
def Dev.setCore (d : Dev) (k : Nat) (c : Core) : Dev := { d with cores := d.cores.put k c {} }
def Dev.xltPart (d : Dev) (p : Nat) : XltPart := d.xlt.getD p {}
def Dev.setXlt (d : Dev) (p : Nat) (x : XltPart) : Dev := { d with xlt := d.xlt.put p x {} }

def Dev.fillCoreTlb (d : Dev) (k : Nat) (e : TlbEntry) : Dev :=
  let c := d.core k
  d.setCore k { c with tlb := tlbFill c.tlb 0 64 e }
def Dev.fillMoverTlb (d : Dev) (m : Nat) (e : TlbEntry) : Dev :=
  { d with moverTlb := d.moverTlb.insert m (tlbFill (d.moverTlb.getD m []) 0 64 e) }
def Dev.fillClusterTlb (d : Dev) (c : Nat) (e : TlbEntry) : Dev :=
  let t := tlbFill (d.clusterTlb.getD c []) (tlbSet 9 e.size e.asid e.page) 8 e
  { d with clusterTlb := d.clusterTlb.insert c t }
def Dev.fillPartCache (d : Dev) (p : Nat) (e : TlbEntry) : Dev :=
  let x := d.xltPart p
  d.setXlt p { x with cache := tlbFill x.cache (tlbSet 12 e.size e.asid e.page) 16 e }

/-- The fills of a hit in, or an answer from, the partition cache: every level above it on the requester's path
(R392, R398). -/
def Dev.fillPath (d : Dev) (w : Requester) (e : TlbEntry) : Dev :=
  let d := match w.cluster with | some c => d.fillClusterTlb c e | none => d
  let d := match w.core with | some k => d.fillCoreTlb k e | none => d
  match w.mover with | some m => d.fillMoverTlb m e | none => d

/-- R391, R392: the lookup of a page through the levels on the requester's path. -/
def Dev.tlbLookup (d : Dev) (w : Requester) (page : Nat) : Dev × Option TlbEntry :=
  let l0 := match w.core, w.mover with
    | some k, _ => tlbFind (d.core k).tlb w.asid page
    | none, some m => tlbFind (d.moverTlb.getD m []) w.asid page
    | none, none => none
  match l0 with
  | some (e, t) =>
    match w.core, w.mover with
    | some k, _ => (d.setCore k { (d.core k) with tlb := t }, some e)
    | none, some m => ({ d with moverTlb := d.moverTlb.insert m t }, some e)
    | none, none => (d, some e)
  | none =>
    let l1 := match w.cluster with
      | some c => (tlbFind (d.clusterTlb.getD c []) w.asid page).map fun x => (c, x)
      | none => none
    match l1 with
    | some (c, e, t) =>
      let d := { d with clusterTlb := d.clusterTlb.insert c t }
      let d := match w.core with | some k => d.fillCoreTlb k e | none => d
      (match w.mover with | some m => d.fillMoverTlb m e | none => d, some e)
    | none =>
      let d := match w.cluster with | some c => d.clusterEvent c 0x48 | none => d
      let x := d.xltPart w.part
      match tlbFind x.cache w.asid page with
      | some (e, t) => ((d.setXlt w.part { x with cache := t }).fillPath w e, some e)
      | none => (d, none)

/-! ### Table entries (R387) -/

def pteKey (e : Nat) : Nat := bits e 63 58
def ptePlacement (e : Nat) : Nat := bits e 57 55
def pteFrame (e : Nat) : Nat := bits e 47 12
def pteContig (e : Nat) : Bool := bitAt e 4
def pteExec (e : Nat) : Bool := bitAt e 3
def pteWrite (e : Nat) : Bool := bitAt e 2

/-- R385: bits 63:48 all equal bit 47. -/
def canonical (va : Nat) : Bool := bits va 63 47 == 0 || bits va 63 47 == 2 ^ 17 - 1

/-- R386, R387, R388, R397: a valid leaf at a level for a virtual address. -/
def leafOk (e level va : Nat) : Bool :=
  bitAt e 0 && bitAt e 1 && ptePlacement e ≤ 5 && bits e 54 48 == 0 && bits e 11 5 == 0 &&
  (level == 0 || !pteContig e) &&
  (!(level == 0 && pteContig e) || bits e 15 12 == bits va 15 12) &&
  (!(level == 1) || bits e 20 12 == 0) && (!(level == 2) || bits e 29 12 == 0)

/-- The page size a leaf maps. -/
def leafSize (e level : Nat) : Nat :=
  match level with
  | 0 => if pteContig e then 16 else 12
  | 1 => 21
  | _ => 30

/-- The offset in its view, or the bus address, that an entry gives an address of its page (R388). -/
def TlbEntry.offset (t : TlbEntry) (va : Nat) : Nat :=
  let f := pteFrame t.entry.toNat * 4096
  f / 2 ^ t.size * 2 ^ t.size + va % 2 ^ t.size

/-- R277, R278, R388: the line that an entry maps an address to, in the views the partition may reach. -/
def Dev.placeLine (d : Dev) (p placement off : Nat) : Option Nat :=
  let owned (l : Nat) : Option Nat :=
    if bitAt (d.part p).quads (clusterQuad (lineVault l)) && !heldCluster (lineVault l) then some l else none
  match placement with
  | 0 => (nearLine off).bind owned
  | 1 => (stripeLine off).bind owned
  | 2 => if (d.part p).enabled then d.spreadLine p off else none
  | 3 => if (d.part p).enabled then d.capLine p off else none
  | 4 => if d.portEndpoint 0 then some (hostLineBase 0 + off / 128) else none
  | 5 => if d.portEndpoint 1 then some (hostLineBase 1 + off / 128) else none
  | _ => none

/-- A translated access: the line, and the key slot it is reached under. -/
structure Phys where
  line : Nat
  key : Nat
deriving DecidableEq, Repr

/-- What an access asks of a translation. -/
structure Access where
  write : Bool := false
  fetch : Bool := false
  atomic : Bool := false
deriving DecidableEq, Repr

/-- R401: the first failure of an access under an entry, placement before permission, or its physical line. -/
def Dev.applyEntry (d : Dev) (p : Nat) (t : TlbEntry) (va : Nat) (a : Access) : Except Nat Phys :=
  let e := t.entry.toNat
  match d.placeLine p (ptePlacement e) (t.offset va) with
  | none => .error 5
  | some l =>
    if a.fetch && !pteExec e then .error 3
    else if a.write && !pteWrite e then .error 2
    else .ok ⟨l, pteKey e⟩

/-! ### Requests (R394 to R396) -/

/-- The 32 bytes of a request record (R395). -/
def reqBytes (r : XltReq) (root : Nat) : List Byte :=
  leBytes r.kind 1 ++ leBytes r.flags 1 ++ leBytes r.asid 1 ++ leBytes r.engine 1 ++ leBytes r.unit 2 ++
    leBytes r.tag 2 ++ leBytes (r.page * 4096) 8 ++ leBytes root 8 ++ leBytes r.ctxTag 2 ++ leBytes r.layer 2 ++
    leBytes r.op 2 ++ leBytes 0 2

/-- The next tag that no outstanding request uses; 0xFFFF is never a request's (R397). -/
def freshTag (out : List XltReq) (t : Nat) : Nat → Nat
  | 0 => t
  | n + 1 =>
    let t := if t ≥ 0xffff then 0 else t
    if out.any (·.tag == t) then freshTag out (t + 1) n else t

/-- Is there room in the partition's request ring and among its 1,024 requests. -/
def Dev.mayPost (d : Dev) (p : Nat) : Bool :=
  (d.xltPart p).out.length < 1024 &&
  match d.ring .XLT_REQ_RING p with
  | none => false
  | some (_, size) => ringFree (d.fld F.XLT_REQ_HEAD_index p) (d.fld F.XLT_REQ_TAIL_index p) size > 0

/-- A request posted: tag, record, head, and the vector where the ring held nothing unread (R396). -/
def Dev.postNow (d : Dev) (p : Nat) (r : XltReq) : Dev :=
  let x := d.xltPart p
  let tag := freshTag x.out x.nextTag 1100
  let r := { r with tag := tag, since := d.time }
  let d := d.setXlt p { x with out := x.out ++ [r], nextTag := (tag + 1) % 0xffff }
  let empty := d.fld F.XLT_REQ_HEAD_index p == d.fld F.XLT_REQ_TAIL_index p
  let d := d.ringPush .XLT_REQ_RING F.XLT_REQ_HEAD_index p (reqBytes r (d.reg .XLT_ROOT r.asid))
  let d := (d.count F.XLT_MISS_COUNT_count p).when empty (·.sendCtrl .XLT_REQ_CTRL p)
  let d := if [2, 3, 5, 6].contains r.kind then d.errEvent (some p) 13 else d
  d.trace p 15 (if r.engine < 2 then r.unit else 0xffff) 0xff 0xff (r.ctxTag, r.layer, r.op) 0 (r.page * 4096)

/-- A request posted, or held in the cache while the ring or the 1,024 places are full (R394). -/
def Dev.post (d : Dev) (p : Nat) (r : XltReq) : Dev :=
  if (d.xltPart p).waiting.isEmpty && d.mayPost p then d.postNow p r
  else
    let x := d.xltPart p
    (d.setXlt p { x with waiting := x.waiting ++ [r] }).setFld F.XLT_PSTATUS_ring_full p 1

/-- Held requests posted while there is room. -/
def Dev.postWaiting (d : Dev) (p : Nat) : Nat → Dev
  | 0 => d
  | n + 1 =>
    let x := d.xltPart p
    match x.waiting with
    | r :: rs => if d.mayPost p then Dev.postWaiting ((d.setXlt p { x with waiting := rs }).postNow p r) p n else d
    | [] => d

def accessFlags (a : Access) : Nat := b2n a.write + 2 * b2n a.fetch + 4 * b2n a.atomic

/-- A waiter added to a request. -/
def XltReq.addWaiter (r : XltReq) (w : Waiter) : XltReq :=
  if r.waiters.contains w then r else { r with waiters := r.waiters ++ [w] }

/-- R394: a miss or failure on a page becomes a request, merged with one outstanding on that page and context. -/
def Dev.requestPage (d : Dev) (w : Requester) (kind page : Nat) (a : Access) : Dev :=
  let x := d.xltPart w.part
  let same (r : XltReq) : Bool := r.asid == w.asid && r.page == page && !r.dead
  if x.out.any same || x.waiting.any same then
    let up (r : XltReq) : XltReq := if same r then r.addWaiter w.waiter else r
    d.setXlt w.part { x with out := x.out.map up, waiting := x.waiting.map up }
  else
    d.post w.part
      { tag := 0, kind := kind, flags := accessFlags a, asid := w.asid, engine := w.engine, unit := w.unit,
        page := page, ctxTag := w.ctxTag, layer := w.layer, op := w.op, waiters := [w.waiter] }

/-- The translation of one address without a request: its line, or the kind of the failure (R401); `got` are the
translations already gathered for the instruction (R393). A disabled context's lookup is a miss. -/
def Dev.lookup (d : Dev) (w : Requester) (got : List TlbEntry) (va : Nat) (a : Access) :
    Dev × Except Nat (Phys × TlbEntry) :=
  if !canonical va then (d, .error 6)
  else if !d.flag F.XLT_CTX_CTRL_enable w.asid then (d, .error 1)
  else
    let page := va / 4096
    let (d, e) := match got.find? (·.covers w.asid page) with
      | some e => (d, some e)
      | none => d.tlbLookup w page
    match e with
    | none => (d, .error 1)
    | some e => (d, (d.applyEntry w.part e va a).map fun x => (x, e))

/-- The page number a request names: the address with bits 11:0 zero. -/
def pageOf (va : Nat) : Nat := va / 4096

/-- R393: every address of a list translated before anything is performed. Either all lines in order, or a request
posted for each page that failed, with the translations gathered. -/
def Dev.translateAll (d : Dev) (w : Requester) (got : List TlbEntry) (vas : List Nat) (a : Access) :
    Dev × Except (List Nat × List TlbEntry) (List Phys) :=
  let (d, rs) := vas.foldl (fun (acc : Dev × List (Nat × Except Nat (Phys × TlbEntry))) va =>
    let (d, r) := acc.1.lookup w got va a
    (d, acc.2 ++ [(va, r)])) (d, [])
  let gathered := rs.foldl (fun (l : List TlbEntry) x => match x.2 with
    | .ok y => if l.contains y.2 then l else l ++ [y.2]
    | .error _ => l) got
  let bad := rs.filterMap fun x => match x.2 with | .error k => some (pageOf x.1, k) | .ok _ => none
  if bad.isEmpty then
    (d, .ok (rs.filterMap fun x => match x.2 with | .ok y => some y.1 | .error _ => none))
  else
    let d := d.each bad fun d x => d.requestPage w x.2 x.1 a
    (d, .error ((bad.map (·.1)).eraseDups, gathered))

end Sys2Proof.Machine
end

