-- ==== Sys2Proof/Machine/L1.lean ====
section
/-! DEFINITION. A core's L1, its combining buffer, side buffer and store trackers (R309 to R317). -/

namespace Sys2Proof.Machine

/-- The cluster of a core, and the core's number. Cores are numbered cluster × 8 + slot. -/
def coreCluster (k : Nat) : Nat := k / 8

def Dev.l1 (d : Dev) (k : Nat) : L1State := (d.core k).l1
def Dev.setL1 (d : Dev) (k : Nat) (x : L1State) : Dev := d.setCore k { (d.core k) with l1 := x }

/-- A line's entry put back, the dirty-line list following its mask (R310). -/
def L1State.put (x : L1State) (l : Nat) (y : L1Line) : L1State :=
  let ds := if y.dirty = 0 then x.dirty.erase l else if x.dirty.contains l then x.dirty else x.dirty ++ [l]
  { x with lines := x.lines.insert l y, dirty := ds }

def L1State.drop (x : L1State) (l : Nat) : L1State := { x with lines := x.lines.erase l, dirty := x.dirty.erase l }

/-- R309: a line's dirty bytes go to the cluster's L2 as a masked write; the line leaves the dirty-line list. -/
def Dev.l1WriteBack (d : Dev) (k l : Nat) : Dev :=
  match (d.l1 k).lines.find? l with
  | none => d
  | some y =>
    if y.dirty = 0 then d
    else (d.setL1 k ((d.l1 k).put l { y with dirty := 0 })).l2Write (coreCluster k) l y.key y.data y.dirty y.poison

/-- R317: a way for line `l`, an old line written back and dropped where the set is full. -/
def Dev.l1Way (d : Dev) (k l : Nat) : Dev × Nat :=
  let x := d.l1 k
  let inSet := x.lines.filter fun y => y.1 % 128 == l % 128
  let ways := d.fld F.CVY_L1_CONFIG_cache_ways k
  match (List.range ways).find? fun w => inSet.all fun y => y.2.way != w with
  | some w => (d, w)
  | none =>
    match nruVictim (inSet.map fun y => (y.1, y.2.way, y.2.age)) with
    | none => (d, 0)
    | some (v, add) =>
      let w := ((x.lines.find? v).map (·.way)).getD 0
      let aged := x.lines.map fun y =>
        if y.1 % 128 == l % 128 then (y.1, { y.2 with age := min 3 (y.2.age + add) }) else y
      let d := (d.setL1 k { x with lines := aged }).l1WriteBack k v
      (d.setL1 k ((d.l1 k).drop v), w)

/-- A new line in the L1. -/
def Dev.l1Alloc (d : Dev) (k l : Nat) (y : L1Line) : Dev :=
  let (d, w) := d.l1Way k l
  d.setL1 k ((d.l1 k).put l { y with way := w })

/-! ### The combining buffer (R313) -/

/-- An entry drains to L2: a full-line write when every byte is there, a masked write otherwise. -/
def Dev.drainEntry (d : Dev) (k l : Nat) : Dev :=
  let x := d.l1 k
  match x.combining.find? (·.line == l) with
  | none => d
  | some e =>
    (d.setL1 k { x with combining := x.combining.filter (·.line != l) }).l2Write (coreCluster k) l e.key e.data e.mask false

def Dev.drainCombining (d : Dev) (k : Nat) : Dev :=
  d.each ((d.l1 k).combining.map (·.line)) fun d l => d.drainEntry k l

/-- A side-buffer entry removed. -/
def Dev.dropSide (d : Dev) (k l : Nat) : Dev :=
  let x := d.l1 k
  d.setL1 k { x with side := x.side.filter (·.line != l) }

/-- A line into the core's side buffer, the oldest of 16 leaving (R315). -/
def Dev.sideFill (d : Dev) (k l key : Nat) : Dev :=
  let x := d.l1 k
  if x.side.any (·.line == l) || (x.lines.find? l).isSome then d
  else
    let (d, v, p) := d.l2Read (coreCluster k) l key
    let x := d.l1 k
    let s := if x.side.length ≥ 16 then x.side.drop 1 else x.side
    d.setL1 k { x with side := s ++ [⟨l, key, v, fullMask, p⟩] }

def Dev.l1Hit (d : Dev) (k : Nat) : Dev := (d.count F.CVY_L1_HITS_count k).coreEvent k 0x09
def Dev.l1Miss (d : Dev) (k : Nat) : Dev := (d.count F.CVY_L1_MISSES_count k).coreEvent k 0x0a

/-! ### Loads -/

/-- R315: a load miss seen by the stream prefetcher; after three to consecutive ascending lines it asks for the next
four, and keeps four ahead. It keeps within the 4 KiB page (log entry 15). -/
def Dev.streamMiss (d : Dev) (k l key : Nat) : Dev :=
  let x := d.l1 k
  let n := if x.missRun.1 + 1 == l && x.missRun.2 > 0 then x.missRun.2 + 1 else 1
  let d := d.setL1 k { x with missRun := (l, n), streamTo := if n ≥ 3 then some (l + 4) else x.streamTo }
  if n ≥ 3 then
    d.each ([l + 1, l + 2, l + 3, l + 4].filter fun m => m / 32 == l / 32) fun d m => d.sideFill k m key
  else d

/-- A prefetched line used: the stream keeps four lines ahead of it. -/
def Dev.streamUse (d : Dev) (k l key : Nat) : Dev :=
  let x := d.l1 k
  match x.streamTo with
  | some t =>
    if l ≤ t && t < l + 4 && (l + 4) / 32 == l / 32 then
      (d.setL1 k { x with streamTo := some (l + 4), missRun := (l, 3) }).sideFill k (l + 4) key
    else d
  | none => d

/-- The bytes `need` of a line for a load with a hint (R311: 0 default, 1 streaming, 2 non-temporal, 3 bypass). Answers
the line and its poison. -/
def Dev.l1Load (d : Dev) (k l key : Nat) (need : LineMask) (hint : Nat) : Dev × LineData × Bool :=
  let c := coreCluster k
  let d := d.drainEntry k l
  let x := d.l1 k
  if hint = 3 then
    let d := (d.l1WriteBack k l).l1Miss k
    d.l2Read c l key
  else
    match x.lines.find? l with
    | some y =>
      if need &&& ~~~y.valid = 0 then
        ((d.setL1 k (x.put l { y with age := 0 })).l1Hit k, y.data, y.poison)
      else if hint = 2 then
        let (d, v, p) := (d.l1Miss k).l2Read c l key
        (d, mergeLine v y.data y.dirty, p)
      else
        let (d, v, p) := (d.l1Miss k).l2Read c l key
        let data := mergeLine v y.data y.dirty
        let y := { y with data := data, valid := fullMask, poison := p, age := 0 }
        ((d.setL1 k ((d.l1 k).put l y)).streamMiss k l key, data, p)
    | none =>
      match x.side.find? (·.line == l) with
      | some s =>
        let d := (d.dropSide k l).l1Alloc k l ⟨0, s.data, fullMask, 0, 0, key, s.poison⟩
        ((d.l1Hit k).streamUse k l key, s.data, s.poison)
      | none =>
        let (d, v, p) := (d.l1Miss k).l2Read c l key
        if hint = 2 then (d, v, p)
        else
          let d := d.l1Alloc k l ⟨0, v, fullMask, 0, if hint = 1 then 3 else 1, key, p⟩
          (d.streamMiss k l key, v, p)

/-! ### Stores -/

/-- The lines a tracker expects next (R312). -/
def SeqTracker.expects (t : SeqTracker) (l : Nat) : Bool :=
  if t.count = 0 then false
  else if t.count = 1 then l == t.last + 1 || l + 1 == t.last
  else if t.dir > 0 then l == t.last + 1 else l + 1 == t.last

/-- R312: a full-line store seen by the trackers; answers whether it is a no-allocate store. -/
def L1State.trackFull (x : L1State) (l : Nat) : L1State × Bool :=
  let ts := x.trackers ++ List.replicate (4 - x.trackers.length) {}
  let clock := x.trackClock + 1
  let near (t : SeqTracker) : Bool := t.count > 0 && (l == t.last + 1 || l + 1 == t.last)
  match findWithIdx near ts with
  | some (i, t) =>
    let t' : SeqTracker :=
      { last := l, dir := if l > t.last then 1 else -1, count := min 8 (t.count + 1), noAlloc := t.count + 1 ≥ 8,
        used := clock }
    ({ x with trackers := setAt ts i t', trackClock := clock }, t.noAlloc)
  | none =>
    let i := ((minBy (fun y : SeqTracker × Nat => y.1.used) ts.zipIdx).map (·.2)).getD 0
    ({ x with trackers := setAt ts i { last := l, count := 1, used := clock }, trackClock := clock }, false)

/-- R312: a watched store that is not full-line resets the trackers that expect its line. -/
def L1State.trackPart (x : L1State) (l : Nat) : L1State :=
  { x with trackers := x.trackers.map fun t => if t.expects l then { t with count := 0, noAlloc := false } else t }

/-- R309: bytes written into the L1, the line allocated without a fetch. -/
def Dev.l1Put (d : Dev) (k l key : Nat) (v : LineData) (m : LineMask) (age : Nat) : Dev :=
  let x := d.l1 k
  match x.lines.find? l with
  | some y =>
    let dirty := y.dirty ||| m
    let data := mergeLine y.data v m
    let y := { y with data := data, valid := y.valid ||| m, dirty := dirty, age := 0, key := key, poison := y.poison && dirty != fullMask }
    d.setL1 k (x.put l y)
  | none => d.l1Alloc k l ⟨0, v, m, m, age, key, false⟩

/-- R311, R313: a non-temporal store's bytes into the combining buffer, out of any L1 copy. -/
def Dev.combine (d : Dev) (k l key : Nat) (v : LineData) (m : LineMask) : Dev :=
  let x := d.l1 k
  let d := match x.lines.find? l with
    | some y => d.setL1 k (x.put l { y with valid := y.valid &&& ~~~m, dirty := y.dirty &&& ~~~m })
    | none => d
  let x := d.l1 k
  match x.combining.find? (·.line == l) with
  | some e =>
    let e' : BufLine := { e with data := mergeLine e.data v m, mask := e.mask ||| m, key := key }
    let d := d.setL1 k { x with combining := x.combining.map fun z => if z.line == l then e' else z }
    if e'.mask = fullMask then d.drainEntry k l else d
  | none =>
    let d := if x.combining.length ≥ 8 then d.drainEntry k ((x.combining.head?.map (·.line)).getD 0) else d
    let x := d.l1 k
    let d := d.setL1 k { x with combining := x.combining ++ [⟨l, key, v, m, false⟩] }
    if m = fullMask then d.drainEntry k l else d

/-- One line's bytes of a store instruction, with a hint (R311, R312). -/
def Dev.l1Store (d : Dev) (k l key : Nat) (v : LineData) (m : LineMask) (hint : Nat) : Dev :=
  let d := d.dropSide k l
  if hint = 2 then (d.l1Miss k).combine k l key v m
  else
    let d := d.drainEntry k l
    if hint = 3 then
      let x := d.l1 k
      let d := match x.lines.find? l with
        | some y => (d.setL1 k (x.put l { y with dirty := y.dirty &&& ~~~m })).l1WriteBack k l
        | none => d
      ((d.setL1 k ((d.l1 k).drop l)).l1Miss k).l2Write (coreCluster k) l key v m false
    else if m = fullMask then
      let (x, noAlloc) := (d.l1 k).trackFull l
      let d := d.setL1 k x
      if noAlloc then
        ((d.setL1 k ((d.l1 k).drop l)).l1Miss k).l2Write (coreCluster k) l key v m false
      else (d.l1Hit k).l1Put k l key v m (if hint = 1 then 3 else 1)
    else
      let d := d.setL1 k ((d.l1 k).trackPart l)
      (d.l1Hit k).l1Put k l key v m (if hint = 1 then 3 else 1)

/-! ### Acquire and release (R314) -/

def Dev.l1Acquire (d : Dev) (k : Nat) : Dev :=
  let x := d.l1 k
  let kept := (x.lines.filter fun y => y.2.dirty != 0).map fun y => (y.1, { y.2 with valid := y.2.dirty })
  d.setL1 k { x with lines := kept, side := [] }

def Dev.l1Release (d : Dev) (k : Nat) : Dev := d.each (d.l1 k).dirty fun d l => d.l1WriteBack k l

/-- R263, R327: a line leaves the L1, its dirty bytes written back first. -/
def Dev.l1Purge (d : Dev) (k l : Nat) : Dev :=
  let d := (d.drainEntry k l).l1WriteBack k l
  (d.setL1 k ((d.l1 k).drop l)).dropSide k l

end Sys2Proof.Machine
end

