-- ==== Sys2Proof/Machine/Milestones.lean ====
section
/-! DEFINITION. Milestones: handles (R363 to R365), signals on their way and their application at a home (R366 to R368),
and the watch tables (R369, R371). -/

namespace Sys2Proof.Machine

/-! ### Handles -/

def handleClass (h : Nat) : Nat := bits h 55 48
def handleCluster (h : Nat) : Nat := bits h 47 40
def handleIndex (h : Nat) : Nat := bits h 13 0

/-- R364 but for ownership: reserved fields zero, cluster and index in range, no held quad. -/
def handleOk (h : Nat) : Bool :=
  bits h 63 56 == 0 && bits h 39 14 == 0 &&
  if handleClass h = 0 then handleCluster h < 200 && handleIndex h < 4096 && !heldCluster (handleCluster h)
  else handleClass h == 1 && handleCluster h == 0

/-- R363: the block that is a milestone's home: a cluster, or 200 + the system mover. -/
def handleHome (h : Nat) : Nat := if handleClass h = 0 then handleCluster h else 200 + handleIndex h / 2048

/-- R365: does partition `p` own the milestone. -/
def Dev.msOwned (d : Dev) (p h : Nat) : Bool :=
  let c := d.part p
  c.enabled &&
  if handleClass h = 0 then bitAt c.quads (clusterQuad (handleCluster h))
  else 256 * c.msBase ≤ handleIndex h && handleIndex h < 256 * (c.msBase + c.msCount)

/-- R364: a handle that partition `p` may use. -/
def Dev.msUsable (d : Dev) (p h : Nat) : Bool := handleOk h && d.msOwned p h

/-- R424: the handle a short handle stands for. -/
def shortHandle (s : Nat) : Nat := bits s 31 31 * 2 ^ 48 + bits s 29 22 * 2 ^ 40 + bits s 13 0

/-- R424, R364: a short handle with its reserved field zero that names a milestone of partition `p`. -/
def Dev.shortUsable (d : Dev) (p s : Nat) : Bool := bits s 21 14 == 0 && d.msUsable p (shortHandle s)

/-- A milestone's value. -/
def Dev.msVal (d : Dev) (h : Nat) : Nat := (d.ms.getD h 0).toNat

/-- R366: is a wait satisfied by a value. -/
def WaitRec.met (w : WaitRec) (v : Nat) : Bool := if w.eq then v == w.target.toNat else v ≥ w.target.toNat

/-! ### Application at the home -/

/-- A subscribed wait sees a value its milestone took (R368). -/
def WaitRec.see (w : WaitRec) (h v : Nat) : WaitRec :=
  if w.registered && !w.polling && w.handle.toNat == h && w.met v then { w with satisfied := true } else w

/-- Every subscribed wait on a milestone evaluated against its value (R368). -/
def Dev.evalWaits (d : Dev) (h v : Nat) : Dev :=
  { d with
    cores := d.cores.map fun (k, c) =>
      (k, { c with convoys := c.convoys.map fun (n, y) => (n, { y with wait := y.wait.map (·.see h v) }) })
    qs := d.qs.map fun (q, s) =>
      (q, { s with fetched := s.fetched.map fun c =>
        { c with wait0 := c.wait0.map (·.see h v), wait1 := c.wait1.map (·.see h v) } })
    links := d.links.map fun (k, x) =>
      (k, { x with entries := x.entries.map fun (q, es) => (q, es.map fun e => { e with wait := e.wait.map (·.see h v) }) }) }

/-- R366: an Add or a Set applied at the home, and the subscribed waits evaluated. -/
def Dev.msApply (d : Dev) (h : Nat) (isSet : Bool) (x : Nat) : Dev :=
  let v := if isSet then x % 2 ^ 64 else (d.msVal h + x) % 2 ^ 64
  let d := { d with ms := d.ms.put h (BitVec.ofNat 64 v) 0 }
  (d.count F.MS_OP_COUNT_count (handleHome h)).evalWaits h v

/-- Agents of signals: a convoy is core × 16 + slot; the rest are numbered from 2^16 (movers + m, check-value units +
512 + u, links + 1024 + k, dispatchers + 2048 + p, the MS_ access registers + 4096). -/
def convoyAgent (k n : Nat) : Nat := k * 16 + n
def moverAgent (m : Nat) : Nat := 2 ^ 16 + m
def cvuAgent (u : Nat) : Nat := 2 ^ 16 + 512 + u
def linkAgent (k : Nat) : Nat := 2 ^ 16 + 1024 + k
def dispatchAgent (p : Nat) : Nat := 2 ^ 16 + 2048 + p
def accessAgent : Nat := 2 ^ 16 + 4096

/-- A signal sent on its way. -/
def Dev.signal (d : Dev) (agent h : Nat) (isSet : Bool) (x : Nat) : Dev :=
  { d with signals := d.signals ++ [⟨agent, BitVec.ofNat 64 h, isSet, BitVec.ofNat 64 x⟩] }

/-- The signals that pass a test applied in their order of issue, the rest staying on their way (R367). -/
def Dev.flushSignals (d : Dev) (sel : Signal → Bool) : Dev :=
  let now := d.signals.filter sel
  let d := { d with signals := d.signals.filter fun s => !sel s }
  d.each now fun d s => d.msApply s.handle.toNat s.isSet s.operand.toNat

/-- R367: the signal at position `i` may reach its home only after its agent's earlier ones to that milestone. -/
def Dev.signalFirst (d : Dev) (i : Nat) : Option Signal :=
  match d.signals[i]? with
  | some s => if (d.signals.take i).any fun t => t.agent == s.agent && t.handle == s.handle then none else some s
  | none => none

/-- The signal at position `i` applied. -/
def Dev.deliverSignal (d : Dev) (i : Nat) (s : Signal) : Dev :=
  ({ d with signals := d.signals.eraseIdx i }).msApply s.handle.toNat s.isSet s.operand.toNat

/-! ### Watch tables (R369, R371) -/

/-- The subscriber number of a dispatcher, beside core numbers. -/
def dispatcherSub (p : Nat) : Nat := 10000 + p

/-- A wait that holds a subscription on `h`. -/
def WaitRec.subOn (w : WaitRec) (h : Nat) : Bool := w.registered && !w.polling && w.handle.toNat == h

/-- Does any wait of a subscriber still need its subscription on `h`. -/
def Dev.subNeeded (d : Dev) (sub h : Nat) : Bool :=
  let any? (w : Option WaitRec) : Bool := match w with | some w => w.subOn h && !w.satisfied | none => false
  if sub < 10000 then (d.core sub).convoys.any fun (_, y) => match y.wait with | some w => w.subOn h | none => false
  else d.qs.any fun (_, s) => s.fetched.any fun c =>
    d.fld F.HIF_CTX_CFG_partition c.asid == sub - 10000 && (any? c.wait0 || any? c.wait1)

/-- A subscription dropped when no wait of its subscriber needs it (R376). -/
def Dev.dropSub (d : Dev) (sub h : Nat) : Dev :=
  if d.subNeeded sub h then d
  else
    let home := handleHome h
    let l := d.watch.getD home []
    { d with watch := d.watch.put home (l.filter fun s => !(s.handle.toNat == h && s.core == sub)) [] }

/-- R369, R371: a wait reaches its home: it is evaluated against the value there, and if it is not met it shares or
takes a subscription, or polls where the table is full. -/
def Dev.register (d : Dev) (sub : Nat) (w : WaitRec) : Dev × WaitRec :=
  let h := w.handle.toNat
  let home := handleHome h
  let l := d.watch.getD home []
  let w := { w with registered := true, since := d.time }
  if w.met (d.msVal h) then (d, { w with satisfied := true })
  else if l.any fun s => s.handle.toNat == h && s.core == sub then (d, w)
  else if l.length < 1024 then
    ({ d with watch := d.watch.insert home (l ++ [⟨w.handle, sub⟩]) }, w)
  else (d.count F.MS_WATCH_OVERFLOW_count home, { w with polling := true })

/-- R371: a poll of a polling wait: the value at the home is compared, and a free subscription is taken. -/
def Dev.pollWait (d : Dev) (sub : Nat) (w : WaitRec) : Dev × WaitRec :=
  let h := w.handle.toNat
  let home := handleHome h
  let l := d.watch.getD home []
  if w.met (d.msVal h) then (d, { w with satisfied := true })
  else if l.any fun s => s.handle.toNat == h && s.core == sub then (d, { w with polling := false })
  else if l.length < 1024 then
    ({ d with watch := d.watch.insert home (l ++ [⟨w.handle, sub⟩]) }, { w with polling := false })
  else (d, w)

end Sys2Proof.Machine
end

