-- ==== Sys2Proof/Machine/Reliability.lean ====
section
/-! DEFINITION. Flash, the repair record (R540, R541), spares (R527 to R529, R533), proposals (R532 to R537) and the
application of repairs (R289 to R291, R536). -/

namespace Sys2Proof.Machine

/-! ### Flash -/

def Sys.flashByte (s : Sys) (a : Nat) : Byte := NMap.getD (α := Byte) s.flash a 0xff
def Sys.setFlash (s : Sys) (a : Nat) (b : Byte) : Sys := { s with flash := NMap.put (α := Byte) s.flash a b 0xff }
/-- `n` bytes of flash from `a`. -/
def Sys.flashBytes (s : Sys) (a : Nat) : Nat → List Byte
  | 0 => []
  | n + 1 => s.flashByte a :: Sys.flashBytes s (a + 1) n
/-- Bytes programmed at `a`; beyond the device there is nothing to program. -/
def Sys.program (s : Sys) (a : Nat) : List Byte → Sys
  | [] => s
  | b :: bs => Sys.program (if a < s.flashSize then s.setFlash a b else s) (a + 1) bs
/-- `n` bytes from `a` erased. -/
def Sys.erase (s : Sys) (a n : Nat) : Sys := { s with flash := s.flash.filter fun x => x.1 < a || a + n ≤ x.1 }

/-! ### The repair record -/

def repairBase (half : Nat) : Nat := 0xc00000 + 0x80000 * half
def repairHalf : Nat := 0x80000

/-- The generation of a half, none where its magic is wrong. -/
def Sys.repairGen (s : Sys) (half : Nat) : Option Nat :=
  let h := s.flashBytes (repairBase half) 8
  if leNat (h.take 4) = 0x52524e56 then some (leNat (h.drop 4)) else none

/-- The active half: the valid one with the higher generation. -/
def Sys.repairActive (s : Sys) : Option Nat :=
  match s.repairGen 0, s.repairGen 1 with
  | some a, some b => some (if b > a then 1 else 0)
  | some _, none => some 0
  | none, some _ => some 1
  | none, none => none

/-- The header of a half written. -/
def Sys.repairStart (s : Sys) (half gen : Nat) : Sys :=
  (s.erase (repairBase half) repairHalf).program (repairBase half)
    (leBytes 0x52524e56 4 ++ leBytes gen 4 ++ List.replicate 56 0)

/-- The entries of a half in order, up to the first erased one; `n` bounds them. -/
def Sys.repairScan (s : Sys) (a : Nat) : Nat → List (List Byte)
  | 0 => []
  | n + 1 =>
    let e := s.flashBytes a 32
    if e.all (· == 0xff) then [] else e :: Sys.repairScan s (a + 32) n

def repairMax : Nat := (0x80000 - 64) / 32
def Sys.repairEntries (s : Sys) (half : Nat) : List (List Byte) := s.repairScan (repairBase half + 64) repairMax

/-- An entry is intact when its CRC-32C is right (R540). -/
def repairValid (e : List Byte) : Bool := crcOf 1 (e.take 28) == leNat (e.drop 28)

/-- A live entry: intact, and with none later of its kind, die, unit and detail. -/
def repairLive : List (List Byte) → List (List Byte)
  | [] => []
  | e :: es =>
    let key (x : List Byte) : List Byte := x.take 1 ++ (x.drop 2).take 6
    if repairValid e && !es.any (fun x => repairValid x && key x == key e) then e :: repairLive es else repairLive es

/-- An entry's bytes (R540). -/
def repairEntry (kind die : Nat) (pending : Bool) (unit detail startups time : Nat) : List Byte :=
  let e := leBytes kind 1 ++ leBytes (die + 2 * b2n pending) 1 ++ leBytes unit 2 ++ leBytes detail 4 ++ leBytes startups 4 ++
    leBytes 0 4 ++ leBytes time 8 ++ leBytes 0 4
  e ++ leBytes (crcOf 1 e) 4

/-- An entry appended; a full half is copied live into the other under the next generation and erased (R541). -/
def Dev.repairAppend (d : Dev) (kind die : Nat) (pending : Bool) (unit detail : Nat) : Dev :=
  let e := repairEntry kind die pending unit detail d.sys.startups d.time
  let s := match d.sys.repairActive with
    | some _ => d.sys
    | none => d.sys.repairStart 0 1
  let half := s.repairActive.getD 0
  let es := s.repairEntries half
  if es.length < repairMax then
    { d with sys := s.program (repairBase half + 64 + 32 * es.length) e }
  else
    let live := repairLive es
    let s := (s.repairStart (1 - half) ((s.repairGen half).getD 0 + 1)).program (repairBase (1 - half) + 64)
      (live.flatten ++ e)
    { d with sys := s.erase (repairBase half) repairHalf }

/-! ### Spares -/

/-- A byte of an active route-book section; an absent section reads as zero. -/
def Dev.secByte (d : Dev) (ty o : Nat) : Nat := ((NMap.getD d.sys.sections ty []).getD o 0).toNat
/-- A little-endian field of a section. -/
def Dev.secField (d : Dev) (ty o n : Nat) : Nat := leNat (((NMap.getD d.sys.sections ty []).drop o).take n)
/-- R534: mode and warning reserve of a proposal kind. -/
def Dev.spareMode (d : Dev) (kind : Nat) : Nat := d.secByte 4 (8 * (kind - 1) + 1)
def Dev.warnReserve (d : Dev) (kind : Nat) : Nat := d.secByte 4 (8 * (kind - 1) + 2)

/-- The register that describes the held resources of a kind (R546), and how many a die has. -/
def backReg (kind : Nat) : Reg := if kind = 1 then .WDN_CORE_BACK else if kind = 4 then .WDN_VAULT_BACK else .WDN_QOR_BACK
def backCount (kind : Nat) : Nat := if kind = 1 then 32 else if kind = 4 then 4 else 2

/-- Held resources of a kind on a die that are good and back nothing, ascending. -/
def Dev.spareFree (d : Dev) (kind die : Nat) : List Nat :=
  (List.range (backCount kind)).filterMap fun i =>
    let n := die * backCount kind + i
    if bits (d.reg (backReg kind) n) 31 30 == 0 then some n else none

/-- The held resource that backs a logical one, if any. -/
def Dev.backedBy (d : Dev) (kind cluster unit : Nat) : Option Nat :=
  (List.range (2 * backCount kind)).find? fun n =>
    let v := d.reg (backReg kind) n
    bitAt v 31 && bits v 15 8 == cluster && bits v 7 0 == unit

/-- R529: a Qorriop core that is good, or backed. -/
def Dev.hartLives (d : Dev) (k : Nat) : Bool :=
  !(d.sys.found.any fun x => x.badHarts.contains k) || (d.backedBy 7 0 k).isSome

/-- A warning record (R539). -/
def Dev.warn (d : Dev) (source unit : Nat) : Dev := d.err { class_ := 4, source := source, unit := unit }

/-- R533: a spare of a kind has been taken on a die. -/
def Dev.spareLost (d : Dev) (kind die source : Nat) : Dev :=
  if (d.spareFree kind die).length ≤ d.warnReserve kind then
    (d.setFld F.WDN_STATUS_reserve_low 0 1).warn source die
  else d

/-- The lowest free held resource takes a logical one's place; a held one that failed is marked bad (R529). Answers
whether one was left. -/
def Dev.backUp (d : Dev) (kind die cluster unit source : Nat) : Dev × Bool :=
  let d := match d.backedBy kind cluster unit with
    | some n => d.setReg (backReg kind) n 0x40000000
    | none => d
  match d.spareFree kind die with
  | n :: _ =>
    ((d.setReg (backReg kind) n (0x80000000 + cluster * 256 + unit)).spareLost kind die source, true)
  | [] => (d.warn source (if kind = 1 then cluster else unit), false)

/-! ### Vault map-out (R289, R290, R292) -/

/-- A vault mapped out or backed. -/
def Dev.vaultBacked (d : Dev) (v : Nat) : Bool := d.flag F.VLT_STATUS_backed v

/-- R290: VLT_NEAR of the clusters of a die computed again. -/
def Dev.nearVaults (d : Dev) (die : Nat) : Dev :=
  let cs := (List.range 100).map (· + 100 * die)
  d.each cs fun d c =>
    if !d.vaultBacked c then d.setReg .VLT_NEAR c c
    else
      let cands := cs.filter fun v => advertisedVault v && !d.vaultBacked v && d.clusterPart v == d.clusterPart c
      match minBy (fun v => hops (clusterPos c) (clusterPos v) * 256 + v) cands with
      | some v => d.setReg .VLT_NEAR c v
      | none => d.setReg .VLT_NEAR c c

/-- A vault mapped out onto the lowest free held vault of its die, its data kept; with none left it is reported failed and
stays in service. -/
def Dev.mapOut (d : Dev) (v : Nat) : Dev × Bool :=
  let die := clusterDie v
  match d.backUp 4 die 0 v 2 with
  | (d, true) => ((d.setFld F.VLT_STATUS_backed v 1).nearVaults die, true)
  | (d, false) => (d.setFld F.VLT_STATUS_failed v 1, false)

/-! ### Proposals -/

def Prop0.bits (p : Prop0) (state : Nat) : Nat :=
  p.kind * 2 ^ 56 + state * 2 ^ 52 + p.part * 2 ^ 40 + p.reason * 2 ^ 32 + p.sub * 2 ^ 24 + p.row * 2 ^ 16 +
    p.unit * 2 ^ 8 + p.slot

def Dev.prop (d : Dev) (n : Nat) : Prop0 :=
  let v := d.reg .WDN_PROP n
  ⟨bits v 63 56, bits v 47 40, bits v 39 32, bits v 31 24, bits v 23 16, bits v 15 8, bits v 7 0⟩
def Dev.propState (d : Dev) (n : Nat) : Nat := d.fld F.WDN_PROP_state n

/-- The error source of a kind of proposal. -/
def propSource (kind : Nat) : Nat := match kind with | 1 => 0 | 2 => 1 | 3 => 2 | 4 => 2 | 7 => 5 | _ => 3

/-- R535: a proposal's state changes, with a record. The record's detail is the row of an SRAM row, else the sub field. -/
def Dev.propTo (d : Dev) (n st : Nat) : Dev :=
  let p := d.prop n
  let d := (d.setFld F.WDN_PROP_state n st).err
    { class_ := 5, source := propSource p.kind, proposal := n, unit := p.unit, part := p.part, code := st,
      detail := some (if p.kind = 5 then p.row else p.sub) }
  if st ≥ 4 then { d with sys := { d.sys with propDone := d.sys.propDone.erase n ++ [n] } } else d

/-- The detail a proposal's entry in the repair record has (R540): column, lanes or way; macro and row for an SRAM row. -/
def Prop0.detail (p : Prop0) : Nat := if p.kind = 5 then p.sub * 256 + p.row else p.sub

/-- A proposal's die. -/
def Prop0.die (p : Prop0) : Nat := if p.kind = 7 then p.unit / 12 else clusterDie p.unit

/-- A proposal put into entry `n`, approved at once in mode 2 (R534); an open proposal under modes 0 and 2 goes into the
repair record. -/
def Dev.propose (d : Dev) (n : Nat) (p : Prop0) : Dev :=
  let mode := d.spareMode p.kind
  let d := { d with sys := { d.sys with propDone := d.sys.propDone.erase n } }
  let d := (d.setReg .WDN_PROP n (p.bits 0)).propTo n 1
  let d := if mode = 0 || mode = 2 then
      d.repairAppend p.kind p.die true (p.unit * 8 + p.slot) p.detail else d
  if mode = 2 then d.propTo n 2 else d

/-- An entry that a new proposal may take: an empty one, or the oldest that has ended (R546). -/
def Dev.propRoom (d : Dev) : Option Nat :=
  match (List.range 32).find? fun n => d.propState n == 0 with
  | some n => some n
  | none => d.sys.propDone.head?

/-- The open entry of a unit and kind. -/
def Dev.openProp (d : Dev) (kind unit slot : Nat) : Option Nat :=
  (List.range 32).find? fun n =>
    let p := d.prop n
    1 ≤ d.propState n && d.propState n ≤ 3 && p.kind == kind && p.unit == unit && p.slot == slot

/-- R537: a trigger: merged into an open proposal of its kind; a core's replaces an open one for its array in the same entry
and state; else a new entry, or a wait in warden RAM when all 32 are open. -/
def Dev.trigger (d : Dev) (p : Prop0) : Dev :=
  match d.openProp p.kind p.unit p.slot with
  | some n => d.setFld F.WDN_PROP_reason n p.reason
  | none =>
    match (if p.kind = 1 then d.openProp 2 p.unit p.slot else none) with
    | some n => d.setReg .WDN_PROP n (p.bits (d.propState n))
    | none =>
      match d.propRoom with
      | some n => d.propose n p
      | none => { d with sys := { d.sys with propWait := d.sys.propWait ++ [p] } }

/-- A proposal that waits takes an entry that has ended. -/
def Dev.propNext (d : Dev) : Dev :=
  match d.sys.propWait, d.propRoom with
  | p :: ps, some n => ({ d with sys := { d.sys with propWait := ps } }).propose n p
  | _, _ => d

/-- Proposals in states 1 to 3 (R546). -/
def Dev.propOpen (d : Dev) : Nat := ((List.range 32).filter fun n => 1 ≤ d.propState n && d.propState n ≤ 3).length

/-! ### Applying repairs (R536) -/

/-- The array registers of a core as its physical array leaves them: a repaired or replaced array serves again (R179). -/
def Dev.arrayRepaired (d : Dev) (k : Nat) : Dev :=
  ((d.setFld F.ARR_FAULT_STATUS_faulted k 0).setFld F.ARR_FAULT_STATUS_repair_pending k 0)

/-- A spare column brought in for logical column `c`; false when both are in use. -/
def Dev.spareColumn (d : Dev) (k c : Nat) : Dev × Bool :=
  if !d.flag F.ARR_SPARE_MAP_spare0_in k then
    (((d.setFld F.ARR_SPARE_MAP_spare0_in k 1).setFld F.ARR_SPARE_MAP_spare0_col k c).arrayRepaired k, true)
  else if !d.flag F.ARR_SPARE_MAP_spare1_in k then
    (((d.setFld F.ARR_SPARE_MAP_spare1_in k 1).setFld F.ARR_SPARE_MAP_spare1_col k c).arrayRepaired k, true)
  else (d, false)

/-- The position of a held core as a core number: entry `i` of WDN_CORE_BACK. -/
def heldCoreOf (i : Nat) : Nat :=
  let q := if i / 32 = 0 then 10 else 39
  (quadClusters q).getD (i % 32 / 8) 0 * 8 + i % 8

/-- A core retired onto its die's held quad (R25, R529): the logical core takes the backing core's array, or stays out of
service when no spare is left. -/
def Dev.retireCore (d : Dev) (k : Nat) : Dev × Bool :=
  match d.backUp 1 (clusterDie (k / 8)) (k / 8) (k % 8) 0 with
  | (d, true) =>
    let h := match d.backedBy 1 (k / 8) (k % 8) with
      | some n => heldCoreOf n
      | none => k
    let d := (d.setReg .ARR_SPARE_MAP k (d.reg .ARR_SPARE_MAP h)).setReg .ARR_FAULT_STATUS k 0
    ({ d with sys := { d.sys with coreOut := d.sys.coreOut.erase k } }, true)
  | (d, false) => ({ d with sys := { d.sys with coreOut := insSorted k d.sys.coreOut } }, false)

/-- R288: a retrain that found bad lanes: up to eight return the vault to service, more lead to map-out. -/
def Dev.retrainVault (d : Dev) (v : Nat) (bad : List Nat) : Dev × Bool :=
  let d := d.setFld F.VLT_STATUS_retrain_pending v 0
  let s := NMap.getD d.vaults v {}
  let d := { d with vaults := NMap.insert d.vaults v { s with retrain := false, ceBySym := [] } }
  let d := { d with sys := { d.sys with laneBad := NMap.put d.sys.laneBad v bad [] } }
  let d := (d.setFld F.VLT_LANES_bad_lanes v bad.length).setFld F.VLT_LANES_spares_used v (min 8 bad.length)
  if bad.length ≤ 8 then (d, true)
  else (d.trigger { kind := 4, part := (d.clusterPart v).getD 0xff, reason := 4, unit := v }, true)

/-- A repair that switches its resource; false when no spare is left. `lanes` are the bad lanes that retrains find. -/
def Dev.applyRepair (d : Dev) (p : Prop0) (lanes : List (Nat × List Nat)) : Dev × Bool :=
  match p.kind with
  | 1 => d.retireCore (p.unit * 8 + p.slot)
  | 2 => d.spareColumn (p.unit * 8 + p.slot) p.sub
  | 3 => d.retrainVault p.unit (((lanes.find? (·.1 == p.unit)).map (·.2)).getD [])
  | 4 => d.mapOut p.unit
  | 5 =>
    let m := p.unit * 2048 + p.slot * 256 + p.sub
    let u := NMap.getD d.sys.sramUsed m 0
    if u < 4 then ({ d with sys := { d.sys with sramUsed := NMap.insert d.sys.sramUsed m (u + 1) } }, true)
    else (d, false)
  | 6 =>
    let w := d.fld F.DIR_L2_CONFIG_cache_ways p.unit
    if w > 4 then (d.setFld F.DIR_L2_CONFIG_cache_ways p.unit (w - 1), true) else (d, false)
  | _ => d.backUp 7 (p.unit / 12) 0 p.unit 5

/-- One approved repair carried out: applying, then done or failed, with its entry in the repair record. -/
def Dev.carryOut (d : Dev) (n : Nat) (lanes : List (Nat × List Nat)) : Dev :=
  let p := d.prop n
  let d := d.propTo n 3
  let (d, ok) := d.applyRepair p lanes
  let d := d.repairAppend p.kind p.die false (p.unit * 8 + p.slot) p.detail
  (d.propTo n (if ok then 4 else 6)).propNext

/-- May a Qorriop core be repaired now: its hart has not been started (R535). -/
def Dev.hartIdle (d : Dev) (k : Nat) : Bool := !bitAt d.sys.harts k

/-- R536: every approved repair of a partition, in the order of the proposals. -/
def Dev.repairPart (d : Dev) (p : Nat) (lanes : List (Nat × List Nat)) : Dev :=
  let ns := (List.range 32).filter fun n =>
    d.propState n == 2 && (d.prop n).part == p && ((d.prop n).kind != 7 || d.hartIdle (d.prop n).unit)
  d.each ns fun d n => d.carryOut n lanes

end Sys2Proof.Machine
end

