-- ==== Sys2Proof/Machine/Convoy.lean ====
section
/-! DEFINITION. Convoys: their registers and lanes, traps (R97, R98, R147), the mask stack and junction action (R82 to
R88), barriers (R89 to R96), completion (R74), and the issue of one instruction. -/

namespace Sys2Proof.Machine

/-! ### Places -/

def Dev.convoy? (d : Dev) (k n : Nat) : Option Convoy := NMap.find? (d.core k).convoys n
def Dev.setConvoy (d : Dev) (k n : Nat) (v : Convoy) : Dev :=
  d.setCore k { (d.core k) with convoys := NMap.insert (d.core k).convoys n v }
def Dev.wg? (d : Dev) (k w : Nat) : Option WG := NMap.find? (d.core k).wgs w
def Dev.setWg (d : Dev) (k w : Nat) (x : WG) : Dev :=
  d.setCore k { (d.core k) with wgs := NMap.insert (d.core k).wgs w x }

/-- The convoy's workgroup. -/
def Dev.convoyWg (d : Dev) (k : Nat) (v : Convoy) : WG := (d.wg? k v.wg).getD ⟨{}, (0, 0, 0), 0, 0, 0, 0, 0, [], []⟩
/-- What the convoy's launch gave it. -/
def Dev.launchOf (d : Dev) (k : Nat) (v : Convoy) : LaunchInfo := (d.convoyWg k v).launch

/-- The convoys of a workgroup slot, with their convoy slots. -/
def Dev.wgConvoys (d : Dev) (k w : Nat) : List (Nat × Convoy) := (d.core k).convoys.filter fun (_, v) => v.wg == w

/-- The tag of a launch's events (R552). -/
def LaunchInfo.tag (l : LaunchInfo) : Nat × Nat × Nat := (l.ctxTag, l.layer, l.op)

/-- The convoy as a translation requester (R395). -/
def Dev.convoyReq (d : Dev) (k n : Nat) (v : Convoy) : Requester :=
  let l := d.launchOf k v
  { engine := 0, unit := coreCluster k, part := l.part, asid := l.asid, ctxTag := l.ctxTag, layer := l.layer, op := l.op,
    waiter := .convoy k n, core := some k, cluster := some (coreCluster k) }

/-! ### Registers and lanes -/

/-- The lanes of a mask, ascending. -/
def lanesOf (m : Word) : List Nat := maskList m.toNat 64
/-- The mask of a list of lanes. -/
def maskOf (l : List Nat) : Word := BitVec.ofNat 64 (listMask l)

/-- V[r] of lane `t`; beyond the declared count it reads as zero (R75). -/
def Convoy.vr (v : Convoy) (r t : Nat) : Nat := if r < v.vRegs then (v.v.getD (r * 64 + t) 0).toNat else 0
def Convoy.setVr (v : Convoy) (r t x : Nat) : Convoy := { v with v := NMap.put (α := BitVec 32) v.v (r * 64 + t) (BitVec.ofNat 32 x) 0 }
/-- A 64-bit value in a pair, the low half in the lower register (R106). -/
def Convoy.vr64 (v : Convoy) (r t : Nat) : Nat := v.vr r t + v.vr (r + 1) t * 2 ^ 32
def Convoy.setVr64 (v : Convoy) (r t x : Nat) : Convoy := (v.setVr r t x).setVr (r + 1) t (x / 2 ^ 32)
/-- A value of `w` 32-bit registers. -/
def Convoy.vrs (v : Convoy) (r t : Nat) : Nat → Nat
  | 0 => 0
  | w + 1 => v.vr r t + 2 ^ 32 * Convoy.vrs v (r + 1) t w
def Convoy.setVrs (v : Convoy) (r t x : Nat) : Nat → Convoy
  | 0 => v
  | w + 1 => Convoy.setVrs (v.setVr r t x) (r + 1) t (x / 2 ^ 32) w

def Convoy.ur (v : Convoy) (r : Nat) : Nat := (v.u.getD r 0).toNat
def Convoy.setUr (v : Convoy) (r x : Nat) : Convoy := { v with u := NMap.put (α := Word) v.u r (BitVec.ofNat 64 x) 0 }
/-- Predicate P[r] as a mask. -/
def Convoy.pr (v : Convoy) (r : Nat) : Word := NMap.getD (α := Word) v.p r 0
def Convoy.setPr (v : Convoy) (r : Nat) (m : Word) : Convoy := { v with p := NMap.put (α := Word) v.p r m 0 }
/-- P[r] set from `m` in the lanes of `e`, kept elsewhere. -/
def Convoy.setPrIn (v : Convoy) (r : Nat) (e m : Word) : Convoy := v.setPr r ((m &&& e) ||| (v.pr r &&& ~~~e))

/-- R109: the effective set of an instruction word. -/
def Convoy.effective (v : Convoy) (w : Nat) : Word :=
  if bitAt w 55 then
    let p := v.pr (bits w 53 51)
    v.active &&& (if bitAt w 54 then ~~~p else p)
  else v.active

/-! ### Causes (R147) -/

/-- R147: the cause a lane raises is its lowest; the one recorded is the lowest-numbered raising lane's, with the lanes
that raise it (R97). -/
def resolveTrap (cs : List (Nat × Word)) : Option (Nat × Word) :=
  let laneCause (t : Nat) : Option Nat :=
    cs.foldl (fun (a : Option Nat) c =>
      if c.2.getLsbD t then match a with | none => some c.1 | some x => some (min x c.1) else a) none
  match (List.range 64).findSome? laneCause with
  | none => none
  | some c => some (c, maskOf ((List.range 64).filter fun t => laneCause t == some c))

/-- The result of an instruction: the trap it raises, or what it makes of the device. -/
abbrev Exec (α : Type) := Except (Nat × Word) α

/-- The lanes that raise a cause marked "all": the effective set, or every active lane where that is empty (R147). -/
def Convoy.allLanes (v : Convoy) (w : Nat) : Word := if v.effective w = 0 then v.active else v.effective w

/-- Continues when no cause is raised. -/
def raising {α : Type} (cs : List (Nat × Word)) (g : Exec α) : Exec α :=
  match resolveTrap (cs.filter fun c => c.2 != 0) with
  | some c => .error c
  | none => g

/-- A cause in every lane of a mask, when a test holds. -/
def causeIf (b : Bool) (c : Nat) (m : Word) : Nat × Word := (c, if b then m else 0)

/-- R106, R75: the causes of an operand group of `n` registers from `r`: misaligned, past V127, or written beyond the
declared count. -/
def groupCauses (v : Convoy) (w r n : Nat) (write : Bool) : List (Nat × Word) :=
  [causeIf (r % n != 0) 3 (v.allLanes w), causeIf (r + n > 128) 2 (v.effective w),
   causeIf (write && r + n > v.vRegs) 2 (v.effective w)]

/-! ### Commands -/

def queueKey (asid q : Nat) : Nat := asid * 64 + q
def Dev.queue (d : Dev) (asid q : Nat) : QueueState := NMap.getD d.qs (queueKey asid q) {}
def Dev.setQueue (d : Dev) (asid q : Nat) (x : QueueState) : Dev := { d with qs := NMap.put d.qs (queueKey asid q) x {} }
def Dev.pstate (d : Dev) (p : Nat) : PartState := NMap.getD d.pst p {}
def Dev.setPstate (d : Dev) (p : Nat) (x : PartState) : Dev := { d with pst := NMap.put d.pst p x {} }

/-- A granted command changed. -/
def Dev.onGranted (d : Dev) (asid q seq : Nat) (g : GCmd → GCmd) : Dev :=
  let x := d.queue asid q
  d.setQueue asid q { x with granted := x.granted.map fun c => if c.cmd.seq == seq then g c else c }

/-- A granted command's work is done with a status, or with the one it was stopped with; COMMAND_COMPLETION carries out
R431. -/
def Dev.markDone (d : Dev) (asid q seq status detail : Nat) : Dev :=
  d.onGranted asid q seq fun c =>
    let x := c.stop.getD (status, detail)
    if c.done then c else { c with done := true, status := x.1, detail := x.2 }

/-- Is a launch the command named. -/
def LaunchInfo.isCmd (l : LaunchInfo) (asid q seq : Nat) : Bool := l.asid == asid && l.queue == q && l.seq == seq
def Issuer.isCmd (d : Dev) (asid q seq : Nat) (i : Issuer) : Bool :=
  match i with
  | .command a b c => a == asid && b == q && c == seq
  | .convoy k _ w => match d.wg? k w with
    | some x => x.launch.isCmd asid q seq
    | none => false
def DescCtx.isCmd (x : DescCtx) (asid q seq : Nat) : Bool := x.asid == asid && x.queue == q && x.seq == seq

/-- The descriptors of a command in any mover. -/
def Dev.cmdDescs (d : Dev) (asid q seq : Nat) : Nat :=
  d.movers.foldl (fun n (_, m) =>
    n + (m.descs.filter fun x => x.ctx.isCmd asid q seq).length + (m.offers.filter fun x => x.ctx.isCmd asid q seq).length) 0

/-- Workgroups of a command resident on cores. -/
def Dev.cmdWgs (d : Dev) (asid q seq : Nat) : Nat :=
  d.cores.foldl (fun n (_, c) => n + (c.wgs.filter fun (_, x) => x.launch.isCmd asid q seq).length) 0

/-- Frees a context's save slot once none of its workgroups is saved (R460, R461). -/
def Dev.freeSlot (d : Dev) (p asid : Nat) : Dev :=
  if (d.pstate p).saved.any (·.asid == asid) then d else d.setFld F.PRT_CTX_SAVE_saved asid 0

/-! ### The end of a convoy and of a workgroup (R74) -/

/-- Instructions of a convoy in flight: MMAs, a replay, or an access stalled on translation. -/
def Dev.inFlight (d : Dev) (k n : Nat) : Bool :=
  let a := (d.core k).arr
  a.inflight.any (·.slot == n) || a.cancelled.any (·.slot == n) ||
    (match a.replay with | some r => r.slot == n | none => false)

/-- A workgroup leaves its core: local store, tiles, barriers and the stationary buffers are released (R74, R157). -/
def Dev.releaseWg (d : Dev) (k w : Nat) : Dev :=
  let c := d.core k
  let convoys := c.convoys.filter fun (_, v) => v.wg != w
  let arr := c.arr
  let arr : ArrayState :=
    if arr.owner == some w then { arr with owner := none, front := {}, back := {}, stage := none, stagedSinceSwap := false }
    else arr
  d.setCore k { c with convoys := convoys, wgs := NMap.erase c.wgs w, arr := arr }

/-- R98 case 3, R435: once no workgroup of a stopped launch is resident and no descriptor of it is in a mover, the launch
leaves the partition and its command is done with its status. -/
def Dev.sweepLaunch (d : Dev) (p asid q seq : Nat) : Dev :=
  let s := d.pstate p
  match s.launches.find? fun l => l.info.isCmd asid q seq with
  | some l =>
    match l.stopped with
    | some (status, detail) =>
      if d.cmdWgs asid q seq = 0 && d.cmdDescs asid q seq = 0 then
        (d.setPstate p { s with launches := s.launches.filter fun l => !l.info.isCmd asid q seq }).markDone
          asid q seq status detail
      else d
    | none => d
  | none => d

/-- The aborting workgroups of a launch that have nothing in flight leave their cores. -/
def Dev.sweepWgs (d : Dev) (p asid q seq : Nat) : Dev :=
  let d := d.each d.cores fun d (k, c) =>
    d.each (c.wgs.filter fun (_, x) => x.launch.isCmd asid q seq) fun d (w, _) =>
      let cs := d.wgConvoys k w
      if cs.all (fun (n, v) => v.state == .aborting && !d.inFlight k n) then d.releaseWg k w else d
  d.sweepLaunch p asid q seq

/-- A command's convoys on a core enter the aborting state. -/
def Core.abortCmd (c : Core) (asid q seq : Nat) : Core :=
  let one (v : Convoy) : Convoy := { v with state := .aborting, wait := none, stall := none, divert := none, resv := [] }
  let mine (v : Convoy) : Bool := match NMap.find? c.wgs v.wg with | some x => x.launch.isCmd asid q seq | none => false
  { c with convoys := c.convoys.map fun (n, v) => (n, if mine v then one v else v) }

/-- R266: a command's offers, and its descriptors that have not started, are discarded. -/
def Mover.dropUnstarted (x : Mover) (asid q seq : Nat) : Mover :=
  { x with
    offers := x.offers.filter fun o => !o.ctx.isCmd asid q seq
    descs := x.descs.filter fun o => !o.ctx.isCmd asid q seq || o.started }

/-- R98 case 3, R266, R461: a granted launch is stopped with a status. Its chunks and saved workgroups go, its convoys
enter the aborting state, and its offers and descriptors not started are discarded. -/
def Dev.stopLaunch (d : Dev) (p asid q seq status detail : Nat) : Dev :=
  let s := d.pstate p
  if (s.launches.find? fun l => l.info.isCmd asid q seq && l.stopped.isNone).isNone then d
  else
    let launches := s.launches.map fun l =>
      if l.info.isCmd asid q seq then { l with queues := [], stopped := some (status, detail) } else l
    let saved := s.saved.filter fun x => !(x.asid == asid && x.queue == q && x.seq == seq)
    let d := (d.setPstate p { s with launches := launches, saved := saved }).freeSlot p asid
    let d := { d with cores := d.cores.map fun (k, c) => (k, Core.abortCmd c asid q seq) }
    let d := { d with movers := d.movers.map fun (m, x) => (m, Mover.dropUnstarted x asid q seq) }
    d.sweepWgs p asid q seq

/-- R74, R353: a workgroup's last convoy has completed. -/
def Dev.completeWg (d : Dev) (k w : Nat) (x : WG) : Dev :=
  let l := x.launch
  let no := x.coord.1 + l.grid.1 * (x.coord.2.1 + l.grid.2.1 * x.coord.2.2)
  let d := (d.releaseWg k w).trace l.part 6 (coreCluster k) (k % 8) 0xff l.tag l.seq no
  let s := d.pstate l.part
  match s.launches.find? fun y => y.info.isCmd l.asid l.queue l.seq with
  | none => d
  | some y =>
    let done := y.done + 1
    let same (z : WG) : Bool := z.launch.isCmd l.asid l.queue l.seq && z.chunkNo == x.chunkNo
    let more := y.queues.any (fun q => q.2.any (·.no == x.chunkNo)) ||
      s.saved.any (fun z => z.asid == l.asid && z.queue == l.queue && z.seq == l.seq && z.chunkNo == x.chunkNo) ||
      d.cores.any (fun c => c.2.wgs.any fun z => same z.2)
    let d := if !more then d.trace l.part 4 (coreCluster k) (k % 8) 0xff l.tag l.seq x.chunkNo else d
    if done ≥ y.total then
      let cores := y.coresRun
      let d := d.setPstate l.part { s with launches := s.launches.filter fun y => !y.info.isCmd l.asid l.queue l.seq }
      let d := d.each cores fun d k => (d.drainCombining k).l1Release k
      d.markDone l.asid l.queue l.seq 0 0
    else
      d.setPstate l.part
        { s with launches := s.launches.map fun y => if y.info.isCmd l.asid l.queue l.seq then { y with done := done } else y }

/-! ### Barriers -/

/-- R90: a convoy that has arrived at a barrier. -/
def Convoy.arrivedAt (v : Convoy) (b : Nat) : Bool := v.parked != 0 && v.parked == v.live && v.barIdx == b

/-- R92, R95: a convoy's parked lanes released. A halted convoy keeps halted and continues when resumed. -/
def Convoy.release (v : Convoy) : Convoy :=
  let st : CvyState := match v.state with | .halted => .halted | .haltedOnTrap => .haltedOnTrap | _ => .running
  let st' : CvyState := if v.stepping && st == .running then .halted else st
  { v with active := v.parked, parked := 0, pc := v.barAddr + 8, state := st', resume := .running,
           stepping := if st' == .halted then false else v.stepping, barFence := false }

/-- Does a convoy wait, arrived or held, or would it when resumed. -/
def Convoy.waiting (v : Convoy) : Bool :=
  let w (s : CvyState) : Bool := s == .arrived || s == .held
  w v.state || ((v.state == .halted || v.state == .haltedOnTrap) && w v.resume)

/-- Barrier `b` of a workgroup released: every convoy that waits with lanes parked at it proceeds (R92, R95). A release by
hand leaves a convoy that still runs another path as it is (log entry 19). -/
def Dev.releaseBarrier (d : Dev) (k w b : Nat) : Dev :=
  match d.wg? k w with
  | none => d
  | some x =>
    let c := d.core k
    let convoys := c.convoys.map fun (n, v) =>
      if v.wg == w && v.parked != 0 && v.barIdx == b && v.waiting then (n, v.release) else (n, v)
    let x := { x with arrivedAt := NMap.erase x.arrivedAt b, hungBars := x.hungBars.erase b }
    let d := d.setCore k { c with convoys := convoys, wgs := NMap.insert c.wgs w x }
    d.trace x.launch.part 7 (coreCluster k) (k % 8) 0xff x.launch.tag x.launch.seq b

/-- R91: barrier `b` releases when every convoy of the workgroup that has not completed has arrived at it. -/
def Dev.evalBarrier (d : Dev) (k w b : Nat) : Dev :=
  let cs := d.wgConvoys k w
  if !cs.isEmpty && cs.all (fun (_, v) => v.arrivedAt b) then d.releaseBarrier k w b else d

/-- The first arrival at, or hold before, a barrier is timed (R94). -/
def Dev.noteArrival (d : Dev) (k w b : Nat) : Dev :=
  match d.wg? k w with
  | some x =>
    if (NMap.find? x.arrivedAt b).isSome then d
    else d.setWg k w { x with arrivedAt := NMap.insert x.arrivedAt b d.time }
  | none => d

/-- A convoy whose last live lane has exited leaves, and its workgroup completes or its barriers are looked at again
(R74, R91). -/
def Dev.completeConvoy (d : Dev) (k n : Nat) (v : Convoy) : Dev :=
  let c := d.core k
  let d := d.setCore k { c with convoys := NMap.erase c.convoys n }
  match d.wg? k v.wg with
  | none => d
  | some x =>
    let x := { x with done := x.done + 1 }
    let d := d.setWg k v.wg x
    if x.done ≥ x.count then d.completeWg k v.wg x
    else d.each (List.range 8) fun d b => d.evalBarrier k v.wg b

/-! ### The mask stack -/

/-- What the junction action ends in (R85). -/
inductive JOut where
  | run (v : Convoy)
  | wait (v : Convoy)
  | hold (v : Convoy)
  | complete (v : Convoy)
  | underflow
  | misaligned
deriving DecidableEq, Repr

/-- R85: current_path_lanes, from the lanes that began the path: less those that exited, with those parked. -/
def Convoy.pathLanes (v : Convoy) (e : StackEntry) (extra : Word) : Word := (e.path0 &&& v.live) ||| extra

/-- R85: the junction action, at most once per entry and kind. `extra` are the lanes active at a matching JCT, and after
the first turn none. -/
def junction (extra : Word) : Nat → Convoy → JOut
  | 0, v => .run v
  | fuel + 1, v =>
    if v.active != 0 then .run v
    else
      match v.stack with
      | [] => if v.parked != 0 then .wait v else if v.live = 0 then .complete v else .underflow
      | e :: rest =>
        if !e.rejoin then
          if e.path.toNat % 8 != 0 then .misaligned
          else
          let lanes := v.pathLanes e extra
          let e' : StackEntry := { e with rejoin := true, mask := e.mask ||| lanes, path0 := e.mask }
          junction 0 fuel { v with stack := e' :: rest, active := e.mask &&& v.live &&& ~~~v.parked, pc := e.path }
        else if e.mask &&& v.parked != 0 then
          if v.parked == v.live then .wait v else .hold v
        else if e.junction.toNat % 8 != 0 then .misaligned
        else junction 0 fuel { v with stack := rest, active := e.mask &&& v.live, pc := e.junction + 8 }

/-- The junction action carried out in the core; a trap of it is raised in the lanes `all` of its instruction. -/
def Dev.doJunction (d : Dev) (k n : Nat) (v : Convoy) (extra all : Word) : Exec Dev :=
  match junction extra 66 v with
  | .run v => .ok (d.setConvoy k n v)
  | .wait v =>
    let st : CvyState := if v.parked == v.live then .arrived else .held
    .ok (((d.setConvoy k n { v with state := st }).noteArrival k v.wg v.barIdx).evalBarrier k v.wg v.barIdx)
  | .hold v => .ok ((d.setConvoy k n { v with state := .held }).noteArrival k v.wg v.barIdx)
  | .complete v => .ok (d.completeConvoy k n v)
  | .underflow => .error (6, all)
  | .misaligned => .error (0x10, all)

/-! ### Traps -/

/-- R97, R98: a trap of a convoy recorded and delivered. `noHandler` is cause 0x14's exception (R148). -/
def Dev.deliverTrap (d : Dev) (k n cause : Nat) (pc lanes : Word) : Dev :=
  match d.convoy? k n with
  | none => d
  | some v =>
    let l := d.launchOf k v
    let i := k * 16 + n
    let d := (((d.setFld F.CVY_TRAP_INFO_valid i 1).setFld F.CVY_TRAP_INFO_cause i cause).setReg
      .CVY_TRAP_LANES i lanes.toNat).setReg .CVY_TRAP_PC i pc.toNat
    let d := if cause = 0x15 then d.errEvent (d.clusterPart (coreCluster k)) 10 else d
    let er : ErrRec :=
      { class_ := 2, source := some (if cause = 0x14 then 8 else 0), unit := coreCluster k, part := l.part, code := cause,
        detail := pc.toNat, ctxTag := l.ctxTag, layer := l.layer, op := l.op }
    let d := if cause = 0x14 || cause = 0x15 then d.err er else d
    let v : Convoy := { v with trap := some ⟨cause, pc, lanes⟩, pendTrap := none, resv := [], stall := none, wait := none }
    if d.flag F.CVY_DBG_CTRL_halt_on_trap k then
      d.setConvoy k n { v with state := .haltedOnTrap, resume := .running, stepping := false, haltReq := false }
    else if cause = 0x14 then d.setConvoy k n v
    else if l.trapHandler != 0 && !v.inHandler then
      let st : CvyState := if v.stepping then .halted else .running
      d.setConvoy k n
        { v with pc := l.trapHandler, inHandler := true, handlerMask := v.active, state := st, resume := .running, stepping := false }
    else (d.setConvoy k n v).stopLaunch l.part l.asid l.queue l.seq 2 cause

/-! ### Issue -/

/-- R80, R81: may the convoy issue: running, nothing stalled, no diversion pending, no halt taking effect unless it is
being stepped, and not stopped for a save. -/
def Convoy.canIssue (v : Convoy) : Bool :=
  v.state == .running && v.stall.isNone && v.divert.isNone && v.saveForm == 0 && (!v.haltReq || v.stepping)

/-- R224: the convoy's MMA that could divert holds it until its decision. -/
def Dev.detourHold (d : Dev) (k n : Nat) : Bool :=
  let a := (d.core k).arr
  (a.inflight ++ a.cancelled).any (fun r => r.slot == n && r.mayDivert) ||
    (match a.replay with | some r => r.slot == n && r.mayDivert | none => false)

/-- The pipe an instruction uses (R78). -/
inductive Pipe where
  | valu | sfu | uniform | mem | matrix
deriving DecidableEq, Repr

/-- A stepped convoy halts again once its instruction completes (R102). A wait, a barrier, a stall or an MMA in flight
leaves it in its waiting state until then. -/
def Dev.afterStep (d : Dev) (k n : Nat) : Dev :=
  match d.convoy? k n with
  | some v =>
    if v.stepping && v.state == .running && v.stall.isNone then
      d.setConvoy k n { v with stepping := false, haltReq := false, state := .halted, resume := .running }
    else d
  | none => d

/-- What an instruction makes of the device, and the trap it raises: a trap has no architectural effect (R97), so what
the device holds beside it is only what its caches, counters and records have seen. -/
abbrev Eff := Dev × Option (Nat × Word)

/-- An instruction that touches nothing when it traps. -/
def Dev.lift (d : Dev) (e : Exec Dev) : Eff :=
  match e with
  | .ok d => (d, none)
  | .error c => (d, some c)

/-- The end of an instruction: a step's halt, or the trap delivered at the instruction's address. -/
def Dev.conclude (k n : Nat) (pc : Word) (r : Eff) : Dev :=
  match r.2 with
  | none => r.1.afterStep k n
  | some (c, lanes) => r.1.deliverTrap k n c pc lanes

/-- One instruction of a convoy issued: `f` gives its trap or its effect, and `elig` what its issue needs beyond R80.
Where the convoy is absent or not eligible the instruction does not issue and nothing changes (log entry 18). An array
fault that waits for the instruction boundary is delivered in its place (R178). R137: a
memory-pipe or matrix-pipe instruction other than STC takes the convoy's reservations. -/
def Dev.issue (d : Dev) (k n : Nat) (pipe : Pipe) (f : Dev → Convoy → Eff)
    (elig : Dev → Convoy → Bool := fun _ _ => true) (keepResv : Bool := false) : Dev :=
  match d.convoy? k n with
  | none => d
  | some v =>
    if !v.canIssue || d.detourHold k n || (d.core k).gated || d.fld F.PWR_CLUSTER_STATUS_state (k / 8) != 0 || !elig d v then d
    else match v.pendTrap with
    | some t => d.deliverTrap k n t.cause t.pc t.lanes
    | none =>
      let d := { d with tag := some (d.launchOf k v).tag }.coreEvent k 1
      let v' : Convoy := if (pipe == .mem || pipe == .matrix) && !keepResv then { v with resv := [] } else v
      let d := d.setConvoy k n v'
      let d := Dev.conclude k n v.pc (f d v')
      { d with tag := none }

/-- The common end of an instruction that goes on at the next word. -/
def Dev.retire (d : Dev) (k n : Nat) (v : Convoy) : Exec Dev :=
  .ok (d.setConvoy k n { v with pc := v.pc + 8, stall := none })

/-- An instruction whose effect lies in the convoy alone. -/
def Dev.pureIssue (d : Dev) (k n : Nat) (pipe : Pipe) (f : Convoy → Exec Convoy) : Dev :=
  d.issue k n pipe fun d v => d.lift (match f v with
    | .ok v => d.retire k n v
    | .error c => .error c)

/-- R111: illegal instruction, raised in all lanes, unless a word's form is right. -/
def Convoy.legal {α : Type} (v : Convoy) (w : Nat) (ok : Bool) (g : Exec α) : Exec α :=
  if ok then g else .error (1, v.allLanes w)

/-- R109: no guard may stand on a convoy-level or uniform instruction. -/
def noGuard (w : Nat) : Bool := bits w 55 51 == 0

/-- The opcode put before the 56 bits a command carries. -/
def iword (op : Nat) (w : BitVec 56) : Nat := op * 2 ^ 56 + w.toNat

end Sys2Proof.Machine
end

