-- ==== Sys2Proof/Machine/State.lean ====
section
/-! DEFINITION. The machine: its state, the reasons it stops, and the state after reset. -/

namespace Sys2Proof.Machine

/-- The whole state: the fuses, which only three commands may touch; the device; and the commands waiting, first in first
out. -/
structure State where
  fuses : Fuses
  dev : Dev
  pending : List Instr
deriving DecidableEq, Repr

/-- Why a command stops the machine. -/
inductive Fault where
  /-- The command names hardware that does not exist or an operand outside its range: no such command can reach the
  device. Raised by every meaning on a command that is not well formed. Safe: the machine stops where nothing can
  happen. -/
  | illFormed
deriving DecidableEq, Repr

/-- Why a command has no meaning. -/
inductive Refusal where
  /-- The command of this mnemonic is not modelled yet. Raised by `exec` alone. Safe: nothing is claimed of it. -/
  | notModelled (mnemonic : String)
deriving DecidableEq, Repr

/-- The machine right after reset (R9, R62): every register at its reset value, memory with nothing listed, no convoy, no
command waiting. -/
def State.reset : State := { fuses := Fuses.shipped, dev := {}, pending := [] }

/-- The device replaced. -/
def State.setDev (s : State) (d : Dev) : State := { s with dev := d }

end Sys2Proof.Machine
end

