-- ==== Sys2Proof/Machine/Run.lean ====
section
/-! DEFINITION. How a meaning is run: what it asks of the command, when the device can carry it out, and what ends it. -/

namespace Sys2Proof.Machine

/-- R288, R532: has a symbol of the vault had 64 corrections. -/
def VaultState.over (s : VaultState) : Bool := s.ceBySym.any fun c => c.2 ≥ 64

/-- R288, R532: a vault one of whose symbols has had 64 corrections gets a proposal to retrain it, once. -/
def Dev.watchSymbols (d : Dev) : Dev :=
  let vs := d.vaults.filter fun (_, s) => !s.retrain && s.over
  let d : Dev := { d with vaults := d.vaults.map fun (v, s) => (v, ({ s with retrain := s.retrain || s.over } : VaultState)) }
  d.each vs fun d x =>
    (d.setFld F.VLT_STATUS_retrain_pending x.1 1).trigger
      { kind := 3, part := (d.clusterPart x.1).getD 0xff, reason := 1, unit := x.1 }

/-- An effect on the device: the wardens see the errors it raised, and their records are written out (R539). A record that
this writing itself raises, because the ring lies at an unmapped address or its memory is bad, goes to the event log alone
(log entry 14). -/
def Dev.settle (d : Dev) : Dev := d.watchSymbols.writeErrs.watchSymbols.logErrs

/-- A meaning on the running device: a command that is not well formed stops. Before the sequence of R62 has ended, in the
hard shoulder, in P6 and without the reference clock, what the command speaks of stands still, and nothing happens. -/
def State.run (s : State) (ok : Bool) (f : Dev → Dev) : Host.Outcome State Fault Refusal :=
  if ok then .next (if s.dev.awake then s.setDev (f s.dev).settle else s) else .fault .illFormed

/-- A meaning that a register write carries, which is a write through a BAR (R516). -/
def State.runBar (s : State) (ok : Bool) (f : Dev → Dev) : Host.Outcome State Fault Refusal := s.run ok fun d => f d.barWake

/-- A command of the always-on domain that may touch the fuses, in every phase. -/
def State.runSys (s : State) (ok : Bool) (f : Fuses × Dev → Fuses × Dev) : Host.Outcome State Fault Refusal :=
  if ok then
    let r := f (s.fuses, s.dev)
    .next { s with fuses := r.1, dev := r.2.settle }
  else .fault .illFormed

/-- A meaning of the always-on domain, which acts in every phase. -/
def State.runOn (s : State) (ok : Bool) (f : Dev → Dev) : Host.Outcome State Fault Refusal :=
  if ok then .next (s.setDev (f s.dev).settle) else .fault .illFormed

end Sys2Proof.Machine
end

