-- ==== Sys2Proof/Machine/Operands.lean ====
section
/-! DEFINITION. The fields of an instruction word (R108, R112), the operands they form (R113), and the shape shared by the
per-lane instructions. -/

namespace Sys2Proof.Machine

/-! ### Fields -/

/-- The bits of a field, for the test that unused fields are zero. -/
def fbits (hi lo : Nat) : Nat := (2 ^ (hi + 1 - lo) - 1) * 2 ^ lo

/-- R112: no bit of [50:0] outside the fields used is set. -/
def onlyUses (w used : Nat) : Bool := (w % 2 ^ 51) &&& (2 ^ 51 - 1 - used) == 0

-- formats V and I
def fVd (w : Nat) : Nat := bits w 50 44
def fVa (w : Nat) : Nat := bits w 43 37
def fVb (w : Nat) : Nat := bits w 36 30
def fVc (w : Nat) : Nat := bits w 29 23
def fBsel (w : Nat) : Nat := bits w 22 21
def fRnd (w : Nat) : Nat := bits w 20 18
def fType (w : Nat) : Nat := bits w 17 14
def fSat (w : Nat) : Bool := bitAt w 13
def fNegA (w : Nat) : Bool := bitAt w 12
def fNegBc (w : Nat) : Bool := bitAt w 11
def fCond (w : Nat) : Nat := bits w 10 7
def fPd (w : Nat) : Nat := bits w 6 4
def fType2 (w : Nat) : Nat := bits w 3 0
def fIType (w : Nat) : Nat := bits w 36 33
def fImm32 (w : Nat) : Nat := bits w 31 0
-- format U
def fUd (w : Nat) : Nat := bits w 50 45
def fUa (w : Nat) : Nat := bits w 44 39
def fIsel (w : Nat) : Bool := bitAt w 38
def fUb (w : Nat) : Nat := bits w 37 32
-- format B
def fPp (w : Nat) : Nat := bits w 50 48
def fPneg (w : Nat) : Bool := bitAt w 47
def fBUa (w : Nat) : Nat := bits w 46 41
def fTgt (w : Nat) : Int := toSigned 20 (bits w 40 21)
def fJct (w : Nat) : Int := toSigned 20 (bits w 20 1)
-- formats M and A
def fMUa (w : Nat) : Nat := bits w 43 38
def fMVa (w : Nat) : Nat := bits w 37 31
def fVaEn (w : Nat) : Bool := bitAt w 30
def fSpace (w : Nat) : Nat := bits w 29 27
def fSize (w : Nat) : Nat := bits w 26 24
def fSext (w : Nat) : Bool := bitAt w 23
def fHint (w : Nat) : Nat := bits w 22 20
def fImm20 (w : Nat) : Nat := bits w 19 0
def fScope (w : Nat) : Nat := bits w 26 24
def fAsize (w : Nat) : Nat := bits w 23 22
def fVs (w : Nat) : Nat := bits w 21 15
def fAVc (w : Nat) : Nat := bits w 14 8
def fRet (w : Nat) : Bool := bitAt w 7
def fOrder (w : Nat) : Nat := bits w 6 4
def fAType (w : Nat) : Nat := bits w 3 0

/-! ### Types (R114) -/

/-- Registers a value of a type takes: two for S64, U64 and F64. -/
def typeRegs (ty : Nat) : Nat := if ty = 2 || ty = 3 || ty = 5 then 2 else 1
/-- Width in bits of a type as an operand. -/
def typeWidth (ty : Nat) : Nat := 32 * typeRegs ty
def typeSigned (ty : Nat) : Bool := ty == 0 || ty == 2

/-- A lane's value of `r` registers' width. -/
def Convoy.val (v : Convoy) (regs r t : Nat) : Nat := if regs = 2 then v.vr64 r t else v.vr r t

/-- R113: the second operand of format V in lane `t`. -/
def Convoy.opB (v : Convoy) (w regs t : Nat) : Nat :=
  if fBsel w = 0 then v.val regs (fVb w) t
  else v.ur (fVb w % 64) % 2 ^ (32 * regs)

/-- R113: the form of bsel and vb. -/
def bselOk (w : Nat) : Bool := fBsel w == 0 || (fBsel w == 1 && fVb w < 64)

/-- R113: imm32 as an operand of a type. -/
def immOperand (ty imm : Nat) : Nat :=
  if ty = 5 then fmtF64.round .rne (fmtF32.decode imm)
  else if ty = 2 || ty = 3 then (sext64 32 imm).toNat
  else imm

/-! ### The per-lane shape -/

/-- `f` applied in every lane of the effective set, all operands being read before any result is written. -/
def Convoy.eachLane (v : Convoy) (w : Nat) (f : Nat → Convoy → Convoy) : Convoy :=
  (lanesOf (v.effective w)).foldl (fun a t => f t a) v

/-- A per-lane instruction of format V that writes V[vd]: the types it takes, the fields it uses, which operands it
reads, and the result as a function of type and operands. `dregs` is the width of the result in registers. -/
def Convoy.vecOp (v : Convoy) (w : Nat) (types : List Nat) (used : Nat) (useA useB useC : Bool) (okExtra : Bool)
    (dregs : Nat → Nat) (f : Nat → Nat → Nat → Nat → Nat → Nat) : Exec Convoy :=
  let ty := fType w
  let n := typeRegs ty
  let used := used ||| fbits 17 14 ||| fbits 50 44 ||| (if useA then fbits 43 37 else 0) |||
    (if useB then fbits 36 30 ||| fbits 22 21 else 0) ||| (if useC then fbits 29 23 else 0)
  v.legal w (onlyUses w used && types.contains ty && (!useB || bselOk w) && okExtra) <|
  raising
    ((if useA then groupCauses v w (fVa w) n false else []) ++
      (if useB && fBsel w = 0 then groupCauses v w (fVb w) n false else []) ++
      (if useC then groupCauses v w (fVc w) n false else []) ++ groupCauses v w (fVd w) (dregs ty) true) <|
  .ok (v.eachLane w fun t a =>
    a.setVrs (fVd w) t (f ty t (v.val n (fVa w) t) (v.opB w n t) (v.val n (fVc w) t)) (dregs ty))

/-- As `vecOp` with format I: imm32 is the second operand. -/
def Convoy.vecImm (v : Convoy) (w : Nat) (types : List Nat) (useA : Bool) (f : Nat → Nat → Nat → Nat) : Exec Convoy :=
  let ty := fIType w
  let n := typeRegs ty
  let used := fbits 50 44 ||| fbits 36 33 ||| fbits 31 0 ||| (if useA then fbits 43 37 else 0)
  v.legal w (onlyUses w used && types.contains ty) <|
  raising ((if useA then groupCauses v w (fVa w) n false else []) ++ groupCauses v w (fVd w) n true) <|
  .ok (v.eachLane w fun t a => a.setVrs (fVd w) t (f ty (v.val n (fVa w) t) (immOperand ty (fImm32 w))) n)

/-- A per-lane compare of format V that writes Pd in the effective set. -/
def Convoy.vecCmp (v : Convoy) (w : Nat) (types : List Nat) (used : Nat) (okExtra : Bool)
    (f : Nat → Nat → Nat → Bool) : Exec Convoy :=
  let ty := fType w
  let n := typeRegs ty
  let used := used ||| fbits 17 14 ||| fbits 43 37 ||| fbits 36 30 ||| fbits 22 21 ||| fbits 10 7 ||| fbits 6 4
  v.legal w (onlyUses w used && types.contains ty && bselOk w && okExtra) <|
  raising (groupCauses v w (fVa w) n false ++ (if fBsel w = 0 then groupCauses v w (fVb w) n false else [])) <|
  let e := v.effective w
  let m := maskOf ((lanesOf e).filter fun t => f ty (v.val n (fVa w) t) (v.opB w n t))
  .ok (v.setPrIn (fPd w) e m)

/-! ### Running an instruction -/

/-- A command that is an instruction whose effect lies in the convoy. -/
def State.runPure (s : State) (k n : Nat) (pipe : Pipe) (f : Convoy → Exec Convoy) :
    Host.Outcome State Fault Refusal :=
  s.run (convoyOk k n) fun d => d.pureIssue k n pipe f

/-- A command that is an instruction with an effect on the device. -/
def State.runIssue (s : State) (k n : Nat) (pipe : Pipe) (f : Dev → Convoy → Exec Dev) :
    Host.Outcome State Fault Refusal :=
  s.run (convoyOk k n) fun d => d.issue k n pipe fun d v => d.lift (f d v)

end Sys2Proof.Machine
end

