-- ==== Sys2Proof/Machine/FloatAlu.lean ====
section
/-! DEFINITION. The floating-point and special-function instructions (R116 to R118, R204 to R206). -/

namespace Sys2Proof.Machine

def tFp : List Nat := [4, 5, 6, 7]
def tF : List Nat := [4, 5]

/-- The format of a floating type; the packed and half types are F16 and BF16. -/
def typeFmt (ty : Nat) : FFmt :=
  match ty with
  | 5 => fmtF64
  | 6 => fmtF16
  | 7 => fmtBF16
  | 8 => fmtF19
  | 13 => fmtF16
  | 14 => fmtBF16
  | _ => fmtF32

/-- R204: each half of a packed register is computed on its own. -/
def fpApply (ty : Nat) (g : FFmt → Nat → Nat → Nat → Nat) (a b c : Nat) : Nat :=
  let f := typeFmt ty
  if ty = 6 || ty = 7 then
    g f (a % 2 ^ 16) (b % 2 ^ 16) (c % 2 ^ 16) + 2 ^ 16 * g f (a / 2 ^ 16) (b / 2 ^ 16) (c / 2 ^ 16)
  else g f a b c

/-- R116: the direction of an arithmetic instruction; RNA and SR are reserved for it. -/
def arithRnd (w : Nat) : Rnd := (Rnd.ofCode (fRnd w)).getD .rne
def arithRndOk (w : Nat) : Bool := fRnd w ≤ 3

/-- R114: a compare of cond 0 to 13 on two data. -/
def fpCmp (cond : Nat) (a b : FV) : Bool :=
  let base (o : Ordering) : Bool :=
    match cond % 8 with
    | 0 => o == .eq
    | 1 => o != .eq
    | 2 => o == .lt
    | 3 => o != .gt
    | 4 => o == .gt
    | _ => o != .lt
  match a.cmp b with
  | none => if cond = 6 then false else if cond = 7 then true else cond ≥ 8
  | some o => if cond = 6 then true else if cond = 7 then false else base o

/-! ### Shapes -/

/-- Fields neg_a and neg_bc, and rnd. -/
def negA : Nat := fbits 12 12
def negBc : Nat := fbits 11 11
def rndF : Nat := fbits 20 18

/-- FADD and FMUL: two operands, each of which may be negated, rounded by rnd. -/
def runFp2 (op : Nat) (g : Rnd → FFmt → Nat → Nat → Nat) (k n : Nat) (w : BitVec 56) (s : State) :
    Host.Outcome State Fault Refusal :=
  let x := iword op w
  s.runPure k n .valu fun v =>
    v.vecOp x tFp (rndF ||| negA ||| negBc) true true false (arithRndOk x) typeRegs fun ty _ a b c =>
      fpApply ty (fun f a b _ => g (arithRnd x) f (f.flip (fNegA x) a) (f.flip (fNegBc x) b)) a b c

/-- FMIN and FMAX, which take neg_a (log entry 20). -/
def runFpMinMax (op : Nat) (mx : Bool) (k n : Nat) (w : BitVec 56) (s : State) : Host.Outcome State Fault Refusal :=
  let x := iword op w
  s.runPure k n .valu fun v =>
    v.vecOp x tFp negA true true false true typeRegs fun ty _ a b c =>
      fpApply ty (fun f a b _ => f.fminmax mx (f.flip (fNegA x) a) b) a b c

/-- FADDI and FMULI: format I has no rnd, so the result is rounded to nearest even. -/
def runFpImm (op : Nat) (g : Rnd → FFmt → Nat → Nat → Nat) (k n : Nat) (w : BitVec 56) (s : State) :
    Host.Outcome State Fault Refusal :=
  s.runPure k n .valu fun v =>
    v.vecImm (iword op w) tFp true fun ty a b => fpApply ty (fun f a b _ => g .rne f a b) a b 0

/-- A special function of one FP32 operand (R118). -/
def runSfu (op : Nat) (g : Nat → Nat) (k n : Nat) (w : BitVec 56) (s : State) : Host.Outcome State Fault Refusal :=
  s.runPure k n .sfu fun v => v.vecOp (iword op w) [4] 0 true false false true typeRegs fun _ _ a _ _ => g a

/-! ### The instructions -/

def execFadd (k n : Nat) (w : BitVec 56) (s : State) := runFp2 0x30 (fun r f a b => f.fadd r a b) k n w s
def execFmul (k n : Nat) (w : BitVec 56) (s : State) := runFp2 0x31 (fun r f a b => f.fmul r a b) k n w s
/-- R115: neg_bc negates vc. -/
def execFfma (k n : Nat) (w : BitVec 56) (s : State) : Host.Outcome State Fault Refusal :=
  let x := iword 0x32 w
  s.runPure k n .valu fun v =>
    v.vecOp x tFp (rndF ||| negA ||| negBc) true true true (arithRndOk x) typeRegs fun ty _ a b c =>
      fpApply ty (fun f a b c => f.ffma (arithRnd x) (f.flip (fNegA x) a) b (f.flip (fNegBc x) c)) a b c
def execFmin (k n : Nat) (w : BitVec 56) (s : State) := runFpMinMax 0x33 false k n w s
def execFmax (k n : Nat) (w : BitVec 56) (s : State) := runFpMinMax 0x34 true k n w s
def execFsetp (k n : Nat) (w : BitVec 56) (s : State) : Host.Outcome State Fault Refusal :=
  let x := iword 0x35 w
  s.runPure k n .valu fun v =>
    v.vecCmp x [4, 5, 13, 14] (negA ||| negBc) (fCond x ≤ 13) fun ty a b =>
      let f := typeFmt ty
      let lo (y : Nat) : Nat := if ty = 13 || ty = 14 then y % 2 ^ 16 else y
      fpCmp (fCond x) (f.decode (f.flip (fNegA x) (lo a))) (f.decode (f.flip (fNegBc x) (lo b)))
def execFclass (k n : Nat) (w : BitVec 56) (s : State) : Host.Outcome State Fault Refusal :=
  s.runPure k n .valu fun v =>
    v.vecOp (iword 0x36 w) tF 0 true false false true (fun _ => 1) fun ty _ a _ _ => (typeFmt ty).fclass a
def execFabs (k n : Nat) (w : BitVec 56) (s : State) : Host.Outcome State Fault Refusal :=
  s.runPure k n .valu fun v =>
    v.vecOp (iword 0x37 w) tFp 0 true false false true typeRegs fun ty _ a b c =>
      fpApply ty (fun f a _ _ => f.fabs a) a b c
def execFaddi (k n : Nat) (w : BitVec 56) (s : State) := runFpImm 0x38 (fun r f a b => f.fadd r a b) k n w s
def execFmuli (k n : Nat) (w : BitVec 56) (s : State) := runFpImm 0x39 (fun r f a b => f.fmul r a b) k n w s
def execFrnd (k n : Nat) (w : BitVec 56) (s : State) : Host.Outcome State Fault Refusal :=
  let x := iword 0x3a w
  s.runPure k n .valu fun v =>
    v.vecOp x tF rndF true false false (arithRndOk x) typeRegs fun ty _ a _ _ => (typeFmt ty).frnd (arithRnd x) a
def execFrcp (k n : Nat) (w : BitVec 56) (s : State) := runSfu 0x50 frcp32 k n w s
def execFrsq (k n : Nat) (w : BitVec 56) (s : State) := runSfu 0x51 frsq32 k n w s
def execFsqrt (k n : Nat) (w : BitVec 56) (s : State) : Host.Outcome State Fault Refusal :=
  let x := iword 0x52 w
  s.runPure k n .sfu fun v =>
    v.vecOp x [4] rndF true false false (arithRndOk x) typeRegs fun _ _ a _ _ => fsqrt32 (arithRnd x) a
def execFex2 (k n : Nat) (w : BitVec 56) (s : State) := runSfu 0x53 fex2_32 k n w s
def execFlg2 (k n : Nat) (w : BitVec 56) (s : State) := runSfu 0x54 flg2_32 k n w s
def execFsin (k n : Nat) (w : BitVec 56) (s : State) := runSfu 0x55 fsin32 k n w s
def execFcos (k n : Nat) (w : BitVec 56) (s : State) := runSfu 0x56 fcos32 k n w s
/-- R118: quotient to vd, remainder to vd + 1. -/
def execIdivs (k n : Nat) (w : BitVec 56) (s : State) : Host.Outcome State Fault Refusal :=
  s.runPure k n .sfu fun v =>
    v.vecOp (iword 0x57 w) [0, 1] 0 true true false true (fun _ => 2) fun ty _ a b _ =>
      let (q, r) := idivs (ty == 0) a b
      q + 2 ^ 32 * r

end Sys2Proof.Machine
end

