-- ==== Sys2Proof/Machine/Convert.lean ====
section
/-! DEFINITION. The conversions (R119 to R121, R185, R186, R200 to R203, R207, R218, R230). -/

namespace Sys2Proof.Machine

/-- The types CVT takes: every type but the packed pairs. -/
def tCvt : List Nat := [0, 1, 2, 3, 4, 5, 8, 9, 10, 11, 12, 13, 14]

/-- Width and signedness of an integer type, none for a floating one. -/
def intType (ty : Nat) : Option (Nat × Bool) :=
  match ty with
  | 0 => some (32, true)
  | 1 => some (32, false)
  | 2 => some (64, true)
  | 3 => some (64, false)
  | 9 => some (8, true)
  | 10 => some (8, false)
  | 11 => some (16, true)
  | 12 => some (16, false)
  | _ => none

/-- R119, R186: the value of an operand of a type. -/
def cvtSource (ty a : Nat) : FV :=
  match intType ty with
  | some (w, sg) => FV.ofInt (if sg then toSigned w a else ((a % 2 ^ w : Nat) : Int))
  | none =>
    if ty = 8 then fmtF19.decode (a / 2 ^ 13)
    else if ty = 13 || ty = 14 then (typeFmt ty).decode (a % 2 ^ 16)
    else (typeFmt ty).decode a

/-- R119, R207: a value written as a type. -/
def cvtResult (ty : Nat) (r : Rnd) (sat : Bool) (x : FV) : Nat :=
  match intType ty with
  | some (w, sg) => ofInt (if w = 64 then 64 else 32) (x.toInt r sg w)
  | none => if ty = 8 then fmtF19.cvt r sat x * 2 ^ 13 else (typeFmt ty).cvt r sat x

/-- R119, R207: CVT, with RNA permitted and SR reserved. -/
def execCvt (k n : Nat) (w : BitVec 56) (s : State) : Host.Outcome State Fault Refusal :=
  let x := iword 0x58 w
  let from_ := fType2 x
  let to_ := fType x
  s.runPure k n .valu fun v =>
    v.legal x (onlyUses x (fbits 50 44 ||| fbits 43 37 ||| rndF ||| fbits 17 14 ||| fbits 13 13 ||| fbits 3 0) &&
      tCvt.contains from_ && tCvt.contains to_ && fRnd x ≤ 4) <|
    raising (groupCauses v x (fVa x) (typeRegs from_) false ++ groupCauses v x (fVd x) (typeRegs to_) true) <|
    .ok (v.eachLane x fun t a =>
      a.setVrs (fVd x) t
        (cvtResult to_ ((Rnd.ofCode (fRnd x)).getD .rne) (fSat x) (cvtSource from_ (v.val (typeRegs from_) (fVa x) t)))
        (typeRegs to_))

/-! ### Narrow formats -/

/-- The descriptor of an index (R46); an absent one is unused. -/
def Dev.fmtDesc (d : Dev) (i : Nat) : FmtDesc := d.fmts.getD i {}
def FmtDesc.used (f : FmtDesc) : Bool := f.kind != 0xff

/-- R182: may CVTN name the descriptor. -/
def cvtnOk (i : Nat) : Bool := (5 ≤ i && i ≤ 9) || (11 ≤ i && i ≤ 15)
/-- R182, R183: may CVTW name it; a codebook too. -/
def cvtwOk (i : Nat) : Bool := cvtnOk i || 16 ≤ i

/-- R120: the descriptor index of CVTN and CVTW. -/
def fFmt (w : Nat) : Nat := bits w 36 32

/-- R120: the element code of an FP32 value. -/
def narrowCode (fmt : Nat) (cb : Codebook) (r : Rnd) (sat umark : Bool) (seed idx a : Nat) : Nat :=
  encodeElem fmt cb r sat umark (sr16 seed idx) (bitAt a 31) (fmtF32.decode a)

def execCvtn (k n : Nat) (w : BitVec 56) (s : State) : Host.Outcome State Fault Refusal :=
  let x := iword 0x59 w
  let i := fFmt x
  s.runIssue k n .valu fun d v =>
    let sr := fRnd x = 5
    v.legal x (onlyUses x (fbits 50 44 ||| fbits 43 37 ||| fbits 36 32 ||| rndF ||| fbits 13 13 ||| negBc |||
        (if sr then fbits 29 23 ||| fbits 9 4 else 0)) && fRnd x ≤ 5) <|
    raising (causeIf (!((d.fmtDesc i).used && cvtnOk i)) 0x25 (v.allLanes x) :: groupCauses v x (fVa x) 1 false ++
      (if sr then groupCauses v x (fVc x) 1 false else []) ++ groupCauses v x (fVd x) 1 true) <|
    d.retire k n (v.eachLane x fun t a =>
      a.setVr (fVd x) t
        (narrowCode i (d.fmtDesc i).codebook ((Rnd.ofCode (fRnd x)).getD .rne) (fSat x) (fNegBc x)
          (v.ur (bits x 9 4)) (v.vr (fVc x) t) (v.vr (fVa x) t)))

/-- R121, R185: the value of an element code, exactly. -/
def execCvtw (k n : Nat) (w : BitVec 56) (s : State) : Host.Outcome State Fault Refusal :=
  let x := iword 0x5a w
  let i := fFmt x
  s.runIssue k n .valu fun d v =>
    v.legal x (onlyUses x (fbits 50 44 ||| fbits 43 37 ||| fbits 36 32)) <|
    raising (causeIf (!((d.fmtDesc i).used && cvtwOk i)) 0x25 (v.allLanes x) :: groupCauses v x (fVa x) 1 false ++
      groupCauses v x (fVd x) 1 true) <|
    d.retire k n (v.eachLane x fun t a =>
      a.setVr (fVd x) t
        (fmtF32.round .rne (elemVal i (d.fmtDesc i).codebook (v.vr (fVa x) t % 2 ^ fmtWidth i))))

end Sys2Proof.Machine
end

