-- ==== Sys2Proof/Machine/Access.lean ====
section
/-! DEFINITION. How an instruction reaches memory: lane addresses, the checks of R129 and R130, translation and the stall
of R393, the range tracker of R337, and the bytes of the three spaces. -/

namespace Sys2Proof.Machine

/-! ### The stores of the core and of the cluster -/

/-- R305: the cluster store's size in bytes. -/
def Dev.clusterBytes (d : Dev) (c : Nat) : Nat := d.fld F.DIR_L2_CONFIG_cluster_kib c * 1024

/-- R306: before another context's first access after a switch, the cluster store is zeroed. -/
def Dev.claimStore (d : Dev) (c asid : Nat) : Dev :=
  if NMap.find? d.storeAsid c == some asid then d
  else
    let kept := d.stores.filter fun x => !(c * 2 ^ 20 ≤ x.1 && x.1 < (c + 1) * 2 ^ 20)
    { d with stores := kept, storeAsid := NMap.insert d.storeAsid c asid }

/-- `n` bytes of a sparse store from `a`. -/
def readBytes (m : NMap Byte) (a : Nat) : Nat → List Byte
  | 0 => []
  | n + 1 => NMap.getD (α := Byte) m a 0 :: readBytes m (a + 1) n
def writeBytes (m : NMap Byte) (a : Nat) : List Byte → NMap Byte
  | [] => m
  | b :: bs => writeBytes (NMap.put (α := Byte) m a b 0) (a + 1) bs

/-- The reservation of a convoy's workgroup in its core's local store: start and size. -/
def Dev.localRange (d : Dev) (k : Nat) (v : Convoy) : Nat × Nat :=
  let x := d.convoyWg k v
  (x.localOff, x.launch.localBytes)

/-- Bytes of LOCAL (space 1) or CLUSTER (space 2). A write in the cluster store takes the reservations on its line (R137). -/
def Dev.storeRead (d : Dev) (k : Nat) (v : Convoy) (space a n : Nat) : List Byte :=
  if space = 1 then readBytes (d.core k).localMem ((d.localRange k v).1 + a) n
  else readBytes d.stores (coreCluster k * 2 ^ 20 + a) n
/-- The line number a reservation names for a line of the cluster store, kept apart from the physical lines. -/
def storeLine (c a : Nat) : Nat := 2 ^ 50 + (c * 2 ^ 20 + a) / 128

def Dev.storeWrite (d : Dev) (k : Nat) (v : Convoy) (space a : Nat) (bs : List Byte) : Dev :=
  if space = 1 then
    let c := d.core k
    d.setCore k { c with localMem := writeBytes c.localMem ((d.localRange k v).1 + a) bs }
  else
    ({ d with stores := writeBytes d.stores (coreCluster k * 2 ^ 20 + a) bs } : Dev).breakResv (coreCluster k)
      (storeLine (coreCluster k) a)

/-- The size of a store space for a convoy, and the cause of going beyond it (R130). -/
def Dev.spaceSize (d : Dev) (k : Nat) (v : Convoy) (space : Nat) : Nat :=
  if space = 1 then (d.localRange k v).2 else d.clusterBytes (coreCluster k)
def spaceCause (space : Nat) : Nat := if space = 1 then 0x11 else 0x12

/-! ### Lane addresses -/

/-- R128: the address of a lane; `imm` is zero for atomics (R133). -/
def Convoy.laneAddr (v : Convoy) (w : Nat) (imm : Int) (t : Nat) : Nat :=
  let o : Int := if fVaEn w then toSigned 32 (v.vr (fMVa w) t) else 0
  ofInt 64 ((v.ur (fMUa w) : Nat) + o + imm)

/-- Lanes of the effective set that a test names. -/
def Convoy.lanesWhere (v : Convoy) (w : Nat) (p : Nat → Bool) : Word := maskOf ((lanesOf (v.effective w)).filter p)

/-- R129, R130: the causes of the lanes' addresses: misaligned to `size`, or outside the space. -/
def Dev.addrCauses (d : Dev) (k : Nat) (v : Convoy) (w space size : Nat) (addr : Nat → Nat) : List (Nat × Word) :=
  [(0x10, v.lanesWhere w fun t => addr t % size != 0),
   (spaceCause space, if space = 0 then 0 else v.lanesWhere w fun t => addr t + size > d.spaceSize k v space)]

/-! ### The range tracker (R337) -/

/-- A range-tracker entry for addresses: lowest and highest 128-byte line. -/
def lineSpan (as : List Nat) (size : Nat) : Nat × Nat :=
  match as with
  | [] => (1, 0)
  | a :: rest => rest.foldl (fun x b => (min x.1 (b / 128), max x.2 ((b + size - 1) / 128))) (a / 128, (a + size - 1) / 128)

/-- The entries a core holds: those of its mover descriptors' regions, and those of its stalled instructions, which are in
GLOBAL space. The latter are given with their convoy slot. -/
def Core.heldRanges (c : Core) : List (Option Nat × RangeEntry) :=
  c.ranges.map (fun r => (none, r)) ++
    c.convoys.filterMap fun (n, v) => v.stall.map fun s => (some n, { space := 0, lo := s.lo, hi := s.hi, write := s.write, desc := 0 })

/-- Two entries that the tracker orders: one space, overlapping, at least one writing. -/
def RangeEntry.conflicts (r : RangeEntry) (space lo hi : Nat) (write : Bool) : Bool :=
  r.space == space && r.lo ≤ hi && lo ≤ r.hi && (r.write || write)

/-- Is an entry free, and does nothing held stand before it. LOCAL entries compare places in the core's local store. -/
def Dev.rangeFree (d : Dev) (k : Nat) (v : Convoy) (space : Nat) (span : Nat × Nat) (write : Bool) : Bool :=
  let held := (d.core k).heldRanges
  let base := if space = 1 then (d.localRange k v).1 / 128 else 0
  held.length < 64 &&
    (span.2 < span.1 || !held.any fun r => r.2.conflicts space (base + span.1) (base + span.2) write)

/-! ### Translation -/

/-- The convoy stalls on the pages a failed translation names (R393); its program counter stays at the instruction. -/
def Dev.stallConvoy (d : Dev) (k n w : Nat) (v : Convoy) (pages : List Nat) (got : List TlbEntry) (span : Nat × Nat)
    (write : Bool) : Dev :=
  d.setConvoy k n { v with stall := some ⟨BitVec.ofNat 64 w, pages, got, span.1, span.2, write⟩ }

/-- R393: every GLOBAL address of an instruction translated; `g` goes on with the lines, in the order of `vas`. -/
def Dev.translated (d : Dev) (k n w : Nat) (v : Convoy) (vas : List Nat) (size : Nat) (a : Access)
    (g : Dev → List Phys → Eff) : Eff :=
  let got := match v.stall with | some s => s.got | none => []
  match d.translateAll (d.convoyReq k n v) got vas a with
  | (d, .ok ps) => g d ps
  | (d, .error (pages, got)) => (d.stallConvoy k n w v pages got (lineSpan vas size) a.write, none)

/-- The lines of a list of accesses, ascending, with the key and the bytes needed of each. -/
def groupLines (as : List (Phys × Nat × Nat)) : NMap (Nat × LineMask) :=
  as.foldl (fun acc x =>
    let m := byteMask x.2.1 x.2.2
    let old := (NMap.getD acc x.1.line (0, 0)).2
    NMap.insert acc x.1.line (x.1.key, old ||| m)) []

/-- GLOBAL bytes read through the L1, one request per line: the bytes of each access and whether its line was poisoned
(R323). -/
def Dev.globalRead (d : Dev) (k hint size : Nat) (as : List (Nat × Phys)) : Dev × List (List Byte × Bool) :=
  let ls := groupLines (as.map fun x => (x.2, x.1 % 128, size))
  let (d, got) := ls.foldl (fun (acc : Dev × List (Nat × LineData × Bool)) x =>
    let (d, v, p) := acc.1.l1Load k x.1 x.2.1 x.2.2 hint
    (d, acc.2 ++ [(x.1, v, p)])) (d, [])
  (d, as.map fun x => match got.find? (·.1 == x.2.line) with
    | some (_, v, p) => (lineBytes v (x.1 % 128) size, p)
    | none => ([], false))

/-- R338: the line images of a store's lanes, a higher lane winning, by ascending line: key, bytes, mask. -/
def storeLines (as : List (Nat × Phys × List Byte)) : NMap (Nat × LineData × LineMask) :=
  as.foldl (fun acc x =>
    let o := x.1 % 128
    let m := byteMask o x.2.2.length
    let old := NMap.getD acc x.2.1.line (0, 0, 0)
    NMap.insert acc x.2.1.line (x.2.1.key, mergeLine old.2.1 (lineOf o x.2.2) m, old.2.2 ||| m)) []

/-- GLOBAL bytes stored through the L1, each line once; other convoys of the cluster lose reservations on them (R137). -/
def Dev.globalWrite (d : Dev) (k n hint : Nat) (as : List (Nat × Phys × List Byte)) : Dev :=
  d.each (storeLines as) fun d x =>
    (d.l1Store k x.1 x.2.1 x.2.2.1 x.2.2.2 hint).breakResv (coreCluster k) x.1 (some (k, n))

/-- R362: the tracker's peak follows an instruction that takes an entry. -/
def Dev.takeEntry (d : Dev) (k : Nat) : Dev :=
  let n := (d.core k).heldRanges.length + 1
  if n > d.fld F.CVY_RT_STATUS_peak k then d.setFld F.CVY_RT_STATUS_peak k n else d

/-! ### Fences (R341, R314, R367) -/

/-- A release by a convoy at a scope (0 CONVOY to 4 SYSTEM). -/
def Dev.release (d : Dev) (k n scope : Nat) : Dev :=
  let d := d.flushSignals fun s => s.agent == convoyAgent k n
  let d := if scope ≥ 1 then d.drainCombining k else d
  if scope ≥ 2 then d.l1Release k else d

/-- An acquire on a core at a scope. -/
def Dev.acquire (d : Dev) (k scope : Nat) : Dev := if scope ≥ 2 then d.l1Acquire k else d

/-- Fences completed (R362). -/
def Dev.countFence (d : Dev) (k : Nat) : Dev := d.count F.CVY_FENCE_COUNT_count k

/-- An ordered atomic's fences (R343). -/
def Dev.orderBefore (d : Dev) (k n order scope : Nat) : Dev :=
  if order ≥ 2 then (d.release k n scope).countFence k else d
def Dev.orderAfter (d : Dev) (k order scope : Nat) : Dev :=
  if order % 2 = 1 then (d.acquire k scope).countFence k else d

end Sys2Proof.Machine
end

