-- ==== Sys2Proof/Machine/LoadStore.lean ====
section
/-! DEFINITION. Loads, stores, prefetches, mover submissions, and the mask-stack image (R86, R128 to R132). -/

namespace Sys2Proof.Machine

/-- R114, R131: the enumerated fields of format M. -/
def formMOk (w : Nat) : Bool := fSpace w ≤ 2 && fSize w ≤ 5 && fHint w ≤ 3 && (fHint w == 0 || fSpace w == 0)

/-- Bytes and registers of a size field. -/
def sizeBytes (w : Nat) : Nat := 2 ^ fSize w
def sizeRegs (w : Nat) : Nat := max 1 (sizeBytes w / 4)

/-- The register number of va, read when va_en is set. -/
def vaCauses (v : Convoy) (w : Nat) : List (Nat × Word) := if fVaEn w then groupCauses v w (fMVa w) 1 false else []

/-- R128: a loaded value as it is written to the registers. -/
def loadValue (w : Nat) (bs : List Byte) : Nat :=
  let x := leNat bs
  if sizeBytes w < 4 && fSext w then ofInt 32 (toSigned (8 * sizeBytes w) x) else x

/-- The addresses an instruction of format M touches, by lane. -/
def Convoy.mLanes (v : Convoy) (w : Nat) : List (Nat × Nat) :=
  (lanesOf (v.effective w)).map fun t => (t, v.laneAddr w (toSigned 20 (fImm20 w)) t)

/-- R337: may an instruction of format M take its entry. -/
def Dev.mEligible (d : Dev) (k : Nat) (v : Convoy) (w : Nat) (write : Bool) : Bool :=
  d.rangeFree k v (fSpace w) (lineSpan ((v.mLanes w).map (·.2)) (sizeBytes w)) write

/-- Lanes of results whose line was poisoned. -/
def poisonLanes (as : List (Nat × Nat)) (rs : List (List Byte × Bool)) : Word :=
  maskOf (((as.zip rs).filter fun x => x.2.2).map fun x => x.1.1)

/-- R128: LD. -/
def memLd (k n w : Nat) (d : Dev) (v : Convoy) : Eff :=
  let as := v.mLanes w
  let size := sizeBytes w
  let addr (t : Nat) : Nat := v.laneAddr w (toSigned 20 (fImm20 w)) t
  match v.legal w (formMOk w) (raising (groupCauses v w (fVd w) (sizeRegs w) true ++ vaCauses v w ++
      d.addrCauses k v w (fSpace w) size addr) (.ok ())) with
  | .error c => (d, some c)
  | .ok _ =>
    let d := d.takeEntry k
    let put (d : Dev) (bss : List (List Byte)) : Eff :=
      d.lift (d.retire k n ((as.zip bss).foldl (fun a x => a.setVrs (fVd w) x.1.1 (loadValue w x.2) (sizeRegs w)) v))
    if fSpace w = 0 then
      d.translated k n w v (as.map (·.2)) size ⟨false, false, false⟩ fun d ps =>
        let (d, rs) := d.globalRead k (fHint w) size ((as.zip ps).map fun x => (x.1.2, x.2))
        let bad := poisonLanes as rs
        if bad != 0 then (d, some (0x15, bad)) else put d (rs.map (·.1))
    else
      let d := if fSpace w = 2 then d.claimStore (coreCluster k) (d.launchOf k v).asid else d
      put d (as.map fun x => d.storeRead k v (fSpace w) x.2 size)

/-- R128: ST, a higher lane winning (R338). -/
def memSt (k n w : Nat) (d : Dev) (v : Convoy) : Eff :=
  let as := v.mLanes w
  let size := sizeBytes w
  let addr (t : Nat) : Nat := v.laneAddr w (toSigned 20 (fImm20 w)) t
  match v.legal w (formMOk w && !fSext w) (raising (groupCauses v w (fVd w) (sizeRegs w) false ++ vaCauses v w ++
      d.addrCauses k v w (fSpace w) size addr) (.ok ())) with
  | .error c => (d, some c)
  | .ok _ =>
    let d := d.takeEntry k
    let data (t : Nat) : List Byte := leBytes (v.vrs (fVd w) t (sizeRegs w)) size
    if fSpace w = 0 then
      d.translated k n w v (as.map (·.2)) size ⟨true, false, false⟩ fun d ps =>
        let d := d.globalWrite k n (fHint w) ((as.zip ps).map fun x => (x.1.2, x.2, data x.1.1))
        d.lift (d.retire k n v)
    else
      let d := if fSpace w = 2 then d.claimStore (coreCluster k) (d.launchOf k v).asid else d
      let d := d.each as fun d x => d.storeWrite k v (fSpace w) x.2 (data x.1)
      d.lift (d.retire k n v)

/-- R128, R315: PRF brings lines into the side buffer; a prefetch that misses or faults in translation is dropped. -/
def memPrf (k n w : Nat) (d : Dev) (v : Convoy) : Eff :=
  match v.legal w (formMOk w && !fSext w && fVd w == 0) (.ok ()) with
  | .error c => (d, some c)
  | .ok _ =>
    let d := d.takeEntry k
    let d :=
      if fSpace w = 0 then
        d.each (v.mLanes w) fun d x =>
          match d.lookup (d.convoyReq k n v) [] x.2 ⟨false, false, false⟩ with
          | (d, .ok p) => if isHost p.1.line then d else d.sideFill k p.1.line p.1.key
          | (d, .error _) => d
      else d
    d.lift (d.retire k n v)

/-! ### Blocks of bytes of one convoy-level instruction -/

/-- The line pieces of `len` bytes at `a`, translated. -/
def Dev.blockTranslated (d : Dev) (k n w : Nat) (v : Convoy) (a len : Nat) (write : Bool)
    (g : Dev → List ((Nat × Nat) × Phys) → Eff) : Eff :=
  let ps := pieces a len
  d.translated k n w v (ps.map (·.1)) len ⟨write, false, false⟩ fun d xs => g d (ps.zip xs)

/-- Bytes of GLOBAL read as a block through the L1, with their poison. -/
def Dev.blockRead (d : Dev) (k : Nat) (ps : List ((Nat × Nat) × Phys)) : Dev × List Byte × Bool :=
  ps.foldl (fun (acc : Dev × List Byte × Bool) x =>
    let o := x.1.1 % 128
    let (d, v, p) := acc.1.l1Load k x.2.line x.2.key (byteMask o x.1.2) 0
    (d, acc.2.1 ++ lineBytes v o x.1.2, acc.2.2 || p)) (d, [], false)

/-- A block of bytes stored in GLOBAL through the L1. -/
def Dev.blockWrite (d : Dev) (k n : Nat) (ps : List ((Nat × Nat) × Phys)) (bs : List Byte) : Dev :=
  let parts := (ps.foldl (fun (acc : List Byte × List (Nat × Phys × List Byte)) x =>
    (acc.1.drop x.1.2, acc.2 ++ [(x.1.1, x.2, acc.1.take x.1.2)])) (bs, [])).2
  d.globalWrite k n 0 parts

/-! ### The mask-stack image (R86) -/

def stackBytes (st : List StackEntry) : List Byte :=
  leBytes st.length 32 ++ st.reverse.flatMap fun e =>
    leBytes e.mask.toNat 8 ++ leBytes e.path.toNat 8 ++ leBytes e.junction.toNat 8 ++ leBytes (b2n e.rejoin) 8

/-- The address of JSPILL and JFILL. -/
def Convoy.stackAddr (v : Convoy) (w : Nat) : Nat := v.ur (fBUa w)

/-- R125: the form of JSPILL and JFILL. -/
def stackForm (w : Nat) : Bool := noGuard w && onlyUses w (fbits 50 48 ||| fbits 46 41) && fPp w ≤ 1

/-- The causes of a mask-stack image's address: 32-byte alignment and the local store's bounds, in every active lane. -/
def Dev.imageCauses (d : Dev) (k : Nat) (v : Convoy) (w a align len : Nat) (space : Nat) : List (Nat × Word) :=
  [causeIf (a % align != 0) 0x10 (v.allLanes w),
   causeIf (space != 0 && a + len > d.spaceSize k v space) (spaceCause space) (v.allLanes w)]

/-- R86: JSPILL. The entries' path lanes are kept beside the convoy, since the image does not hold them (log entry 24). -/
def memJspill (k n w : Nat) (d : Dev) (v : Convoy) : Eff :=
  let a := v.stackAddr w
  let bs := stackBytes v.stack
  match v.legal w (stackForm w) (raising (d.imageCauses k v w a 32 bs.length (fPp w)) (.ok ())) with
  | .error c => (d, some c)
  | .ok _ =>
    let d := (d.takeEntry k).coreEvent k 0x0f
    let v' : Convoy := { v with stack := [], spilled := v.stack }
    if fPp w = 0 then
      d.blockTranslated k n w v a bs.length true fun d ps =>
        let d := d.blockWrite k n ps bs
        d.lift (d.retire k n v')
    else
      let d := d.storeWrite k v 1 a bs
      d.lift (d.retire k n v')

/-- An entry of an image, none where its kind is above 1. -/
def stackEntryOf (bs : List Byte) : Option StackEntry :=
  let f (i : Nat) : Word := BitVec.ofNat 64 (leNat ((bs.drop (8 * i)).take 8))
  let kind := (f 3).toNat
  if kind > 1 then none else some ⟨f 0, f 1, f 2, kind == 1, 0⟩

/-- The entries of an image, bottom first. -/
def stackEntriesOf (bs : List Byte) : Nat → Option (List StackEntry)
  | 0 => some []
  | n + 1 =>
    match stackEntryOf (bs.take 32), stackEntriesOf (bs.drop 32) n with
    | some e, some es => some (e :: es)
    | _, _ => none

/-- The path lanes of filled entries, given top first: those of the same entry spilled by this convoy, else the lanes
that run or wait now or stand in the entries above, less the entry's own (log entry 24). -/
def fillPaths (spilled : List StackEntry) : Word → List StackEntry → List StackEntry
  | _, [] => []
  | above, e :: es =>
    let p := match spilled.find? fun x => x.mask == e.mask && x.path == e.path && x.junction == e.junction && x.rejoin == e.rejoin with
      | some x => x.path0
      | none => above &&& ~~~e.mask
    { e with path0 := p } :: fillPaths spilled (above ||| e.mask) es

/-- The stack an image's bytes give, none where it is invalid. -/
def Convoy.filled (v : Convoy) (depth : Nat) (bs : List Byte) : Option (List StackEntry) :=
  (stackEntriesOf bs depth).map fun es => fillPaths v.spilled (v.active ||| v.parked) es.reverse

/-- R86: JFILL: the header first, then as many entries as it names. -/
def memJfill (k n w : Nat) (d : Dev) (v : Convoy) : Eff :=
  let a := v.stackAddr w
  let all := v.allLanes w
  let finish (d : Dev) (depth : Nat) (bs : List Byte) : Eff :=
    match v.filled depth bs with
    | some st => d.lift (d.retire k n { v with stack := st })
    | none => (d, some (7, all))
  match v.legal w (stackForm w) (raising (d.imageCauses k v w a 32 32 (fPp w)) (.ok ())) with
  | .error c => (d, some c)
  | .ok _ =>
    let d := d.takeEntry k
    if fPp w = 0 then
      d.blockTranslated k n w v a 32 false fun d ps =>
        let (d, h, p) := d.blockRead k ps
        let depth := leNat (h.take 8)
        if p then (d, some (0x15, all))
        else if depth > 32 then (d, some (7, all))
        else
          d.blockTranslated k n w v (a + 32) (32 * depth) false fun d ps =>
            let (d, bs, p) := d.blockRead k ps
            if p then (d, some (0x15, all)) else finish d depth bs
    else
      let depth := leNat (d.storeRead k v 1 a 8)
      if depth > 32 then (d, some (7, all))
      else
        match raising (d.imageCauses k v w a 32 (32 + 32 * depth) 1) (.ok ()) with
        | .error c => (d, some c)
        | .ok _ => finish d depth (d.storeRead k v 1 (a + 32) (32 * depth))

/-! ### MOVD (R132) -/

/-- The labels of a convoy's command, for a descriptor it submits. -/
def Dev.descCtx (d : Dev) (k : Nat) (v : Convoy) : DescCtx :=
  let x := d.convoyWg k v
  let l := x.launch
  ⟨l.part, l.asid, l.queue, l.seq, l.ctxTag, l.layer, l.op, x.localOff, l.localBytes⟩

/-- Mover numbers: cluster movers 0 to 199 by cluster, system movers 200 + g. -/
def Dev.mover (d : Dev) (m : Nat) : Mover := NMap.getD d.movers m {}
def Dev.setMover (d : Dev) (m : Nat) (x : Mover) : Dev := { d with movers := NMap.put d.movers m x {} }

/-- Submissions of a convoy, and of a core, that no mover has accepted. -/
def Dev.offersOf (d : Dev) (m : Nat) (p : Issuer → Bool) : Nat := ((d.mover m).offers.filter fun o => p o.issuer).length

/-- R80: fewer than 16 memory instructions outstanding for the convoy and 128 for the core. -/
def Dev.roomOutstanding (d : Dev) (k n : Nat) : Bool :=
  let m := coreCluster k
  d.offersOf m (fun i => match i with | .convoy k' n' _ => k' == k && n' == n | _ => false) < 16 &&
  d.offersOf m (fun i => match i with | .convoy k' _ _ => k' == k | _ => false) < 128

def memMovd (k n w : Nat) (d : Dev) (v : Convoy) : Eff :=
  let a := v.ur (bits w 50 45)
  let space := bits w 44 42
  match v.legal w (noGuard w && onlyUses w (fbits 50 45 ||| fbits 44 42) && space ≤ 2)
      (raising [causeIf (a % 128 != 0) 0x10 (v.allLanes w)] (.ok ())) with
  | .error c => (d, some c)
  | .ok _ =>
    let m := coreCluster k
    let x := d.mover m
    let o : Offer :=
      { id := x.nextId, issuer := .convoy k n v.wg, ctx := d.descCtx k v, addr := BitVec.ofNat 64 a, space := space }
    let d := d.setMover m { x with offers := x.offers ++ [o], nextId := x.nextId + 1 }
    d.lift (d.retire k n v)

/-! ### The instructions -/

/-- A memory instruction, issued when the range tracker and R80 allow. -/
def State.runMem (s : State) (k n : Nat) (f : Dev → Convoy → Eff) (elig : Dev → Convoy → Bool)
    (keepResv : Bool := false) : Host.Outcome State Fault Refusal :=
  s.run (convoyOk k n) fun d => d.issue k n .mem f (fun d v => d.roomOutstanding k n && elig d v) keepResv

def execLd (k n : Nat) (w : BitVec 56) (s : State) : Host.Outcome State Fault Refusal :=
  let x := iword 0xa0 w
  s.runMem k n (memLd k n x) fun d v => d.mEligible k v x false
def execSt (k n : Nat) (w : BitVec 56) (s : State) : Host.Outcome State Fault Refusal :=
  let x := iword 0xa1 w
  s.runMem k n (memSt k n x) fun d v => d.mEligible k v x true
def execMovd (k n : Nat) (w : BitVec 56) (s : State) : Host.Outcome State Fault Refusal :=
  s.runMem k n (memMovd k n (iword 0xa2 w)) fun _ _ => true
def execPrf (k n : Nat) (w : BitVec 56) (s : State) : Host.Outcome State Fault Refusal :=
  let x := iword 0xa3 w
  s.runMem k n (memPrf k n x) fun d v => d.mEligible k v x false
/-- R337: JSPILL's entry covers its image. -/
def execJspill (k n : Nat) (w : BitVec 56) (s : State) : Host.Outcome State Fault Refusal :=
  let x := iword 0x8b w
  s.runMem k n (memJspill k n x) fun d v =>
    d.rangeFree k v (fPp x) (lineSpan [v.stackAddr x] (32 + 32 * v.stack.length)) true
/-- JFILL is ordered as its largest image, since its depth is read from memory. -/
def execJfill (k n : Nat) (w : BitVec 56) (s : State) : Host.Outcome State Fault Refusal :=
  let x := iword 0x8c w
  s.runMem k n (memJfill k n x) fun d v => d.rangeFree k v (fPp x) (lineSpan [v.stackAddr x] 1056) false

end Sys2Proof.Machine
end

