-- ==== Sys2Proof/Machine/Atomic.lean ====
section
/-! DEFINITION. Atomics, the exact cells, reserved loads and conditional stores, and fences (R133 to R139, R208 to R213,
R327, R328, R341). -/

namespace Sys2Proof.Machine

/-- R114: the enumerated fields of format A. -/
def formAOk (w : Nat) : Bool := fSpace w ≤ 2 && fScope w ≤ 4 && fAsize w ≤ 2 && fOrder w ≤ 3

def asizeBytes (w : Nat) : Nat := match fAsize w with | 0 => 4 | 1 => 8 | _ => 64

/-- R109 and R133: the fields every atomic uses. -/
def atomFields : Nat :=
  fbits 43 38 ||| fbits 37 31 ||| fbits 30 30 ||| fbits 29 27 ||| fbits 26 24 ||| fbits 23 22 ||| fbits 7 7 |||
    fbits 6 4 ||| fbits 3 0

/-- The addresses of an instruction of format A, by lane. -/
def Convoy.aLanes (v : Convoy) (w : Nat) : List (Nat × Nat) :=
  (lanesOf (v.effective w)).map fun t => (t, v.laneAddr w 0 t)

/-- The distinct addresses of lanes, ascending, each with its lanes ascending (R135). -/
def groupByAddr (as : List (Nat × Nat)) : NMap (List Nat) :=
  as.foldl (fun acc x => NMap.insert acc x.2 (NMap.getD acc x.2 [] ++ [x.1])) []

/-- An atomic operation: new value from the old one, in a lane. -/
abbrev AtomFn := Convoy → Nat → Nat → Nat

/-- What an atomic instruction is: types, whether it works on a cell, reads vs or vc, writes its cell, may combine, its
operation, and the value it returns of a cell's content. -/
structure AtomDesc where
  op : Nat
  types : List Nat
  cell : Bool := false
  useVs : Bool := true
  useVc : Bool := false
  ret : Option Bool := none
  writes : Bool := true
  combines : Bool := false
  retRegs : Nat → Nat := typeRegs
  fn : Nat → AtomFn
  result : Nat → Nat → Nat := fun _ m => m

/-- R135: the lanes of one address in ascending order: what each returns, and what memory then holds. -/
def atomLanes (f : AtomFn) (v : Convoy) : List Nat → Nat → List (Nat × Nat) × Nat
  | [], m => ([], m)
  | t :: ts, m =>
    let (rs, m') := atomLanes f v ts (f v t m)
    ((t, m) :: rs, m')

/-- The form and causes of an atomic. R134: a cell operation on LOCAL, an asize that the operation does not have, or one
that is not the type's width (log entry 25), is not supported. -/
def AtomDesc.check (a : AtomDesc) (k w : Nat) (d : Dev) (v : Convoy) : Exec Unit :=
  let ty := fAType w
  let n := typeRegs ty
  let used := atomFields ||| (if a.useVs then fbits 21 15 else 0) ||| (if a.useVc then fbits 14 8 else 0) |||
    (if fRet w then fbits 50 44 else 0)
  let retOk := match a.ret with | some r => fRet w == r | none => true
  let sizeOk := if a.cell then fAsize w == 2 && fSpace w != 1 else fAsize w == n - 1
  v.legal w (onlyUses w used && formAOk w && a.types.contains ty && retOk) <|
  raising
    (causeIf (!sizeOk) 0x13 (v.allLanes w) ::
      (if fRet w then groupCauses v w (fVd w) (a.retRegs ty) true else []) ++
      (if a.useVs then groupCauses v w (fVs w) n false else []) ++
      (if a.useVc then groupCauses v w (fAVc w) n false else []) ++ vaCauses v w ++
      d.addrCauses k v w (fSpace w) (asizeBytes w) (fun t => v.laneAddr w 0 t)) (.ok ())

/-- The results of an atomic written to vd. -/
def AtomDesc.returns (a : AtomDesc) (w : Nat) (v : Convoy) (rs : List (Nat × Nat)) : Convoy :=
  let ty := fAType w
  if fRet w then rs.foldl (fun x r => x.setVrs (fVd w) r.1 (a.result ty r.2) (a.retRegs ty)) v else v

/-- Requests sent and lanes absorbed by combining (R551). -/
def Dev.countAtomic (d : Dev) (k : Nat) (a : AtomDesc) (gs : NMap (List Nat)) : Dev :=
  let lanes := gs.foldl (fun n g => n + g.2.length) 0
  let d := d.coreEvent k 0x14 gs.length
  if a.combines then d.coreEvent k 0x15 (lanes - gs.length) else d

/-- R327, R328: a line brought into the cluster's L2 in state M for an atomic, out of the core's L1. -/
def Dev.atomLine (d : Dev) (k : Nat) (p : Phys) : Dev × LineData × Bool :=
  let c := coreCluster k
  let d := d.l1Purge k p.line
  if isHost p.line then d.readMem p.line 0
  else
    let had := match (d.agent c).find p.line with | some x => x.st == .M | none => false
    let (d, v, q) := d.l2Own c p.line p.key
    let g := d.agent c
    let d := if had || g.hold.contains p.line then d else d.setAgent c { g with hold := g.hold ++ [p.line] }
    (d, v, q)

/-- The bytes an atomic leaves in its line, written in the L2. -/
def Dev.atomPut (d : Dev) (k n : Nat) (p : Phys) (o : Nat) (bs : List Byte) : Dev :=
  d.l2Write (coreCluster k) p.line p.key (lineOf o bs) (byteMask o bs.length) false (some (k, n))

/-- R135 in GLOBAL space, the addresses translated: every line is gained, poison is raised before anything is written,
and the groups act one after another. -/
def AtomDesc.globalRun (a : AtomDesc) (k n w : Nat) (d : Dev) (v : Convoy) (as : List (Nat × Nat)) (ps : List Phys) : Eff :=
  let size := asizeBytes w
  let xs := as.zip ps
  let lines := groupLines (xs.map fun x => (x.2, x.1.2 % 128, size))
  let (d, bad) := lines.foldl (fun (acc : Dev × List Nat) l =>
    let (d, _, q) := acc.1.atomLine k ⟨l.1, l.2.1⟩
    (d, if q then acc.2 ++ [l.1] else acc.2)) (d, [])
  let badLanes := maskOf ((xs.filter fun x => bad.contains x.2.line).map fun x => x.1.1)
  if badLanes != 0 then (d, some (0x15, badLanes))
  else
    let gs := groupByAddr (xs.map fun x => (x.1.1, x.2.line * 128 + x.1.2 % 128))
    let keyOf (l : Nat) : Nat := (NMap.getD lines l (0, 0)).1
    let (d, rs) := gs.foldl (fun (acc : Dev × List (Nat × Nat)) g =>
      let l := g.1 / 128
      let o := g.1 % 128
      let (d, data, _) := acc.1.atomLine k ⟨l, keyOf l⟩
      let (rs, m) := atomLanes (a.fn (fAType w)) v g.2 (leNat (lineBytes data o size))
      let d := if a.writes then d.atomPut k n ⟨l, keyOf l⟩ o (leBytes m size) else d
      (d, acc.2 ++ rs)) (d, [])
    let d := (d.countAtomic k a gs).orderAfter k (fOrder w) (fScope w)
    d.lift (d.retire k n (a.returns w v rs))

/-- R134: in LOCAL and CLUSTER space the groups act in the store. -/
def AtomDesc.storeRun (a : AtomDesc) (k n w : Nat) (d : Dev) (v : Convoy) (as : List (Nat × Nat)) : Eff :=
  let size := asizeBytes w
  let sp := fSpace w
  let d := if sp = 2 then d.claimStore (coreCluster k) (d.launchOf k v).asid else d
  let gs := groupByAddr as
  let (d, rs) := gs.foldl (fun (acc : Dev × List (Nat × Nat)) g =>
    let (rs, m) := atomLanes (a.fn (fAType w)) v g.2 (leNat (acc.1.storeRead k v sp g.1 size))
    (if a.writes then acc.1.storeWrite k v sp g.1 (leBytes m size) else acc.1, acc.2 ++ rs)) (d, [])
  let d := (d.countAtomic k a gs).orderAfter k (fOrder w) (fScope w)
  d.lift (d.retire k n (a.returns w v rs))

/-- An atomic instruction (R133 to R135, R343). -/
def AtomDesc.run (a : AtomDesc) (k n w : Nat) (d : Dev) (v : Convoy) : Eff :=
  match a.check k w d v with
  | .error c => (d, some c)
  | .ok _ =>
    let as := v.aLanes w
    let d := d.takeEntry k
    let d := if v.stall.isSome then d else d.orderBefore k n (fOrder w) (fScope w)
    if fSpace w = 0 then
      d.translated k n w v (as.map (·.2)) (asizeBytes w) ⟨a.writes, false, true⟩ fun d ps => a.globalRun k n w d v as ps
    else a.storeRun k n w d v as

/-! ### The operations -/

/-- Lane operand s. -/
def Convoy.atomS (v : Convoy) (w ty t : Nat) : Nat := v.val (typeRegs ty) (fVs w) t

def intAtom (w : Nat) (f : Nat → Nat → Nat → Nat) (ty : Nat) : AtomFn := fun v t m => f ty m (v.atomS w ty t)

def minAtom (ty a b : Nat) : Nat :=
  if typeSigned ty then (if toSigned (typeWidth ty) b < toSigned (typeWidth ty) a then b else a) else min a b
def maxAtom (ty a b : Nat) : Nat :=
  if typeSigned ty then (if toSigned (typeWidth ty) a < toSigned (typeWidth ty) b then b else a) else max a b

/-- The operand of XADD as a datum (R209). -/
def xaddOperand (ty a : Nat) : FV :=
  match ty with
  | 13 => fmtF16.decode (a % 2 ^ 16)
  | 14 => fmtBF16.decode (a % 2 ^ 16)
  | _ => fmtF32.decode a

/-- The twelve atomic instructions of R133 by opcode. -/
def atomDesc (op w : Nat) : AtomDesc :=
  let cellOf_ (x : FV) : Nat := (cellOf x).toNat
  match op with
  | 0xb0 => { op := op, types := [0, 1, 2, 3], combines := true,
              fn := intAtom w fun ty m s => (m + s) % 2 ^ typeWidth ty }
  | 0xb1 => { op := op, types := [0, 1, 2, 3], combines := true, fn := intAtom w minAtom }
  | 0xb2 => { op := op, types := [0, 1, 2, 3], combines := true, fn := intAtom w maxAtom }
  | 0xb3 => { op := op, types := [1, 3], combines := true, fn := intAtom w fun _ m s => m &&& s }
  | 0xb4 => { op := op, types := [1, 3], combines := true, fn := intAtom w fun _ m s => m ||| s }
  | 0xb5 => { op := op, types := [1, 3], combines := true, fn := intAtom w fun _ m s => m ^^^ s }
  | 0xb6 => { op := op, types := [1, 3], fn := intAtom w fun _ _ s => s }
  | 0xb7 => { op := op, types := [1, 3], useVc := true,
              fn := fun ty v t m => if m == v.val (typeRegs ty) (fAVc w) t then v.atomS w ty t else m }
  | 0xb8 => { op := op, types := [4, 5], fn := intAtom w fun ty m s => (typeFmt ty).fadd .rne m s }
  | 0xb9 => { op := op, types := [4, 13, 14], cell := true, combines := true, ret := some false,
              fn := fun ty v t m =>
                (cellAdd (BitVec.ofNat 512 m) (BitVec.ofNat 512 (cellOf_ (xaddOperand ty (v.atomS w ty t))))).toNat }
  | 0xba => { op := op, types := [4, 5], cell := true, useVs := false, ret := some true, writes := false,
              fn := fun _ _ _ m => m, result := fun ty m => cellRead (typeFmt ty) (BitVec.ofNat 512 m) }
  | _ => { op := op, types := [0], cell := true, useVs := false, ret := some false, fn := fun _ _ _ _ => 0 }

/-- R337: an atomic's entry. -/
def Dev.aEligible (d : Dev) (k : Nat) (v : Convoy) (w : Nat) (write : Bool) : Bool :=
  d.rangeFree k v (fSpace w) (lineSpan ((v.aLanes w).map (·.2)) (asizeBytes w)) write

def State.runAtom (s : State) (op k n : Nat) (w : BitVec 56) : Host.Outcome State Fault Refusal :=
  let x := iword op w
  s.runMem k n ((atomDesc op x).run k n x) fun d v => d.aEligible k v x (atomDesc op x).writes

def execAtomAdd (k n : Nat) (w : BitVec 56) (s : State) := s.runAtom 0xb0 k n w
def execAtomMin (k n : Nat) (w : BitVec 56) (s : State) := s.runAtom 0xb1 k n w
def execAtomMax (k n : Nat) (w : BitVec 56) (s : State) := s.runAtom 0xb2 k n w
def execAtomAnd (k n : Nat) (w : BitVec 56) (s : State) := s.runAtom 0xb3 k n w
def execAtomOr (k n : Nat) (w : BitVec 56) (s : State) := s.runAtom 0xb4 k n w
def execAtomXor (k n : Nat) (w : BitVec 56) (s : State) := s.runAtom 0xb5 k n w
def execAtomExch (k n : Nat) (w : BitVec 56) (s : State) := s.runAtom 0xb6 k n w
def execAtomCas (k n : Nat) (w : BitVec 56) (s : State) := s.runAtom 0xb7 k n w
def execAtomFadd (k n : Nat) (w : BitVec 56) (s : State) := s.runAtom 0xb8 k n w
def execXadd (k n : Nat) (w : BitVec 56) (s : State) := s.runAtom 0xb9 k n w
def execXrd (k n : Nat) (w : BitVec 56) (s : State) := s.runAtom 0xba k n w
def execXclr (k n : Nat) (w : BitVec 56) (s : State) := s.runAtom 0xbb k n w

/-! ### Reserved load and conditional store (R136 to R138) -/

def resvCheck (k w : Nat) (store : Bool) (d : Dev) (v : Convoy) : Exec Unit :=
  let n := if fAsize w = 1 then 2 else 1
  let used := (atomFields - fbits 7 7) |||
    (if store then fbits 21 15 ||| fbits 10 8 else fbits 50 44)
  let width := max 4 (typeWidth (fAType w) / 8)
  v.legal w (onlyUses w used && formAOk w && fAType w ≤ 14) <|
  raising
    (causeIf (fAsize w == 2 || fSpace w == 1 || asizeBytes w != width) 0x13 (v.allLanes w) ::
      (if store then groupCauses v w (fVs w) n false else groupCauses v w (fVd w) n true) ++ vaCauses v w ++
      d.addrCauses k v w (fSpace w) (asizeBytes w) (fun t => v.laneAddr w 0 t)) (.ok ())

/-- LDR's reservations, replacing those its lanes held. -/
def Convoy.reserve (v : Convoy) (xs : List (Nat × Nat)) : Convoy :=
  { v with resv := xs.foldl (fun m x => NMap.insert m x.1 x.2) v.resv }

/-- R136, R137: LDR. The line is read through the cluster's L2, where reservations are watched; one that does not stay in that
L2, as a host's never does, leaves no reservation (log entry 38). -/
def memLdr (k n w : Nat) (d : Dev) (v : Convoy) : Eff :=
  match resvCheck k w false d v with
  | .error c => (d, some c)
  | .ok _ =>
    let as := v.aLanes w
    let size := asizeBytes w
    let d := d.takeEntry k
    let d := if v.stall.isSome then d else d.orderBefore k n (fOrder w) (fScope w)
    let put (d : Dev) (xs : List ((Nat × Nat) × Nat × List Byte)) : Eff :=
      let d := d.orderAfter k (fOrder w) (fScope w)
      let v := xs.foldl (fun a x => a.setVrs (fVd w) x.1.1 (leNat x.2.2) (size / 4)) v
      let held (l : Nat) : Bool := l ≥ 2 ^ 50 || ((d.agent (coreCluster k)).find l).isSome
      d.lift (d.retire k n (v.reserve ((xs.map fun x => (x.1.1, x.2.1)).filter fun x => held x.2)))
    if fSpace w = 0 then
      d.translated k n w v (as.map (·.2)) size ⟨false, false, false⟩ fun d ps =>
        let (d, rs) := d.globalRead k 3 size ((as.zip ps).map fun x => (x.1.2, x.2))
        let bad := poisonLanes as rs
        if bad != 0 then (d, some (0x15, bad))
        else put d ((as.zip (ps.zip rs)).map fun x => (x.1, x.2.1.line, x.2.2.1))
    else
      let d := d.claimStore (coreCluster k) (d.launchOf k v).asid
      put d (as.map fun x => (x, storeLine (coreCluster k) x.2, d.storeRead k v 2 x.2 size))

/-- R136: the lanes that succeed: an intact reservation on the line of their address that no earlier lane of this STC
has stored to. -/
def stcSucceeds (v : Convoy) : List (Nat × Nat) → List Nat → List Nat
  | [], _ => []
  | (t, l) :: rest, done =>
    if NMap.find? v.resv t == some l && !done.contains l then t :: stcSucceeds v rest (l :: done)
    else stcSucceeds v rest done

/-- R136: STC. -/
def memStc (k n w : Nat) (d : Dev) (v : Convoy) : Eff :=
  match resvCheck k w true d v with
  | .error c => (d, some c)
  | .ok _ =>
    let as := v.aLanes w
    let size := asizeBytes w
    let d := d.takeEntry k
    let d := if v.stall.isSome then d else d.orderBefore k n (fOrder w) (fScope w)
    let data (t : Nat) : List Byte := leBytes (v.vrs (fVs w) t (size / 4)) size
    let finish (d : Dev) (ok : List Nat) : Eff :=
      let d := d.orderAfter k (fOrder w) (fScope w)
      let v := v.setPrIn (fAVc w % 8) (v.effective w) (maskOf ok)
      d.lift (d.retire k n { v with resv := [] })
    if fSpace w = 0 then
      d.translated k n w v (as.map (·.2)) size ⟨true, false, true⟩ fun d ps =>
        let xs := as.zip ps
        let ok := stcSucceeds v (xs.map fun x => (x.1.1, x.2.line)) []
        let d := d.each (xs.filter fun x => ok.contains x.1.1) fun d x =>
          let d := d.l1Purge k x.2.line
          d.atomPut k n x.2 (x.1.2 % 128) (data x.1.1)
        finish d ok
    else
      let d := d.claimStore (coreCluster k) (d.launchOf k v).asid
      let ok := stcSucceeds v (as.map fun x => (x.1, storeLine (coreCluster k) x.2)) []
      let d := d.each (as.filter fun x => ok.contains x.1) fun d x =>
        d.storeWrite k v 2 x.2 (data x.1)
      finish d ok

def execLdr (k n : Nat) (w : BitVec 56) (s : State) : Host.Outcome State Fault Refusal :=
  let x := iword 0xc0 w
  s.runMem k n (memLdr k n x) (fun d v => d.aEligible k v x false)
def execStc (k n : Nat) (w : BitVec 56) (s : State) : Host.Outcome State Fault Refusal :=
  let x := iword 0xc1 w
  s.runMem k n (memStc k n x) (fun d v => d.aEligible k v x true) true

/-! ### FENCE (R139, R341) -/

def memFence (k n w : Nat) (d : Dev) (v : Convoy) : Eff :=
  let scope := bits w 50 48
  let kind := bits w 47 45
  match v.legal w (noGuard w && onlyUses w (fbits 50 45) && scope ≤ 4 && kind ≤ 3) (.ok ()) with
  | .error c => (d, some c)
  | .ok _ =>
    let d := if kind ≥ 1 then d.release k n scope else d
    let d := if kind != 1 then d.acquire k scope else d
    let d := d.countFence k
    d.lift (d.retire k n v)

def execFence (k n : Nat) (w : BitVec 56) (s : State) : Host.Outcome State Fault Refusal :=
  s.runMem k n (memFence k n (iword 0xc4 w)) fun _ _ => true

/-! ### Replay of a stalled instruction (R393) -/

/-- The meaning of a memory-pipe instruction word that can stall on translation, by opcode. -/
def memByOpcode (k n w : Nat) : Dev → Convoy → Eff :=
  match bits w 63 56 with
  | 0x8b => memJspill k n w
  | 0x8c => memJfill k n w
  | 0xa0 => memLd k n w
  | 0xa1 => memSt k n w
  | 0xc0 => memLdr k n w
  | 0xc1 => memStc k n w
  | op => (atomDesc op w).run k n w

end Sys2Proof.Machine
end

