-- ==== Sys2Proof/Machine/Control.lean ====
section
/-! DEFINITION. The control instructions: branches, the mask stack (R84 to R88), barriers (R89, R96), exits, traps and
lay-bys (R125 to R127, R145). -/

namespace Sys2Proof.Machine

/-- A target in words relative to the instruction (R113). -/
def Convoy.target (v : Convoy) (i : Int) : Word := v.pc + BitVec.ofInt 64 (8 * i)

/-- R127: a jump's address must be a multiple of 8. -/
def jumpCause (v : Convoy) (w a : Nat) : Nat × Word := causeIf (a % 8 != 0) 0x10 (v.allLanes w)

/-- An instruction of the uniform pipe whose effect lies in the convoy, with its fields checked. -/
def runControl (op used : Nat) (guard : Bool) (f : Nat → Convoy → Exec Convoy) (k n : Nat) (w : BitVec 56) (s : State) :
    Host.Outcome State Fault Refusal :=
  let x := iword op w
  s.runPure k n .uniform fun v => v.legal x ((guard || noGuard x) && onlyUses x used) (f x v)

/-- An instruction of the uniform pipe with an effect beyond the convoy. -/
def runControlDev (op used : Nat) (guard : Bool) (f : Nat → Dev → Convoy → Exec Dev) (k n : Nat) (w : BitVec 56)
    (s : State) : Host.Outcome State Fault Refusal :=
  let x := iword op w
  s.runIssue k n .uniform fun d v => v.legal x ((guard || noGuard x) && onlyUses x used) (f x d v)

/-- A convoy that goes on at an address. -/
def Dev.jumpTo (d : Dev) (k n : Nat) (v : Convoy) (a : Word) : Exec Dev := .ok (d.setConvoy k n { v with pc := a })

def execNop (k n : Nat) (w : BitVec 56) (s : State) : Host.Outcome State Fault Refusal :=
  runControl 0x80 0 false (fun _ v => .ok v) k n w s

/-! ### Branches -/

/-- R126. -/
def execBra (k n : Nat) (w : BitVec 56) (s : State) : Host.Outcome State Fault Refusal :=
  runControlDev 0x81 (fbits 40 21) true (fun x d v =>
    let taken := v.effective x
    if !bitAt x 55 || taken == v.active then d.jumpTo k n v (v.target (fTgt x))
    else if taken = 0 then d.jumpTo k n v (v.pc + 8)
    else .error (4, v.active)) k n w s
def execBrx (k n : Nat) (w : BitVec 56) (s : State) : Host.Outcome State Fault Refusal :=
  runControlDev 0x82 (fbits 46 41) false (fun x d v =>
    let a := v.ur (fBUa x)
    raising [jumpCause v x a] <| d.jumpTo k n v (BitVec.ofNat 64 a)) k n w s
def execCall (k n : Nat) (w : BitVec 56) (s : State) : Host.Outcome State Fault Refusal :=
  runControlDev 0x83 (fbits 40 21 ||| fbits 46 41) false (fun x d v =>
    d.jumpTo k n (v.setUr (fBUa x) (v.pc + 8).toNat) (v.target (fTgt x))) k n w s
/-- The link register is bits [40:35] of the word. -/
def execCallx (k n : Nat) (w : BitVec 56) (s : State) : Host.Outcome State Fault Refusal :=
  runControlDev 0x84 (fbits 40 35 ||| fbits 46 41) false (fun x d v =>
    let a := v.ur (fBUa x)
    raising [jumpCause v x a] <| d.jumpTo k n (v.setUr (bits x 40 35) (v.pc + 8).toNat) (BitVec.ofNat 64 a)) k n w s
/-- R125, R226: RET through U63 ends the detouring state. -/
def execRet (k n : Nat) (w : BitVec 56) (s : State) : Host.Outcome State Fault Refusal :=
  runControlDev 0x85 (fbits 46 41) false (fun x d v =>
    let a := v.ur (fBUa x)
    raising [jumpCause v x a] <|
      d.jumpTo k n { v with detouring := v.detouring && fBUa x != 63 } (BitVec.ofNat 64 a)) k n w s

/-! ### The mask stack -/

/-- The predicate of JSPLIT and JBRK over the convoy's lanes. -/
def Convoy.splitPred (v : Convoy) (x : Nat) : Word := if fPneg x then ~~~v.pr (fPp x) else v.pr (fPp x)

/-- An entry pushed; the stack holds 32 (R82, R86). -/
def Dev.pushEntry (d : Dev) (k n : Nat) (v : Convoy) (x : Nat) (e : StackEntry) (g : Convoy → Convoy) : Exec Dev :=
  if v.stack.length ≥ 32 then .error (5, v.allLanes x)
  else .ok ((d.setConvoy k n (g { v with stack := e :: v.stack })).coreEvent k 0x0e)

def execJsplit (k n : Nat) (w : BitVec 56) (s : State) : Host.Outcome State Fault Refusal :=
  runControlDev 0x86 (fbits 50 47 ||| fbits 40 1) false (fun x d v =>
    let t := v.active &&& v.splitPred x
    let m := v.active &&& ~~~v.splitPred x
    let tgt := v.target (fTgt x)
    if m = 0 then d.jumpTo k n v tgt
    else if t = 0 then d.jumpTo k n v (v.pc + 8)
    else d.pushEntry k n v x { mask := m, path := v.pc + 8, junction := v.target (fJct x), rejoin := false, path0 := t }
      fun v => { v with active := t, pc := tgt }) k n w s
/-- R84, R85: a JCT that matches ends the path of the lanes active at it. -/
def execJct (k n : Nat) (w : BitVec 56) (s : State) : Host.Outcome State Fault Refusal :=
  runControlDev 0x87 0 false (fun x d v =>
    match v.stack with
    | e :: _ =>
      if e.junction == v.pc then d.doJunction k n { v with active := 0 } v.active (v.allLanes x)
      else d.jumpTo k n v (v.pc + 8)
    | [] => d.jumpTo k n v (v.pc + 8)) k n w s
def execJpush (k n : Nat) (w : BitVec 56) (s : State) : Host.Outcome State Fault Refusal :=
  runControlDev 0x88 (fbits 20 1) false (fun x d v =>
    d.pushEntry k n v x { mask := v.active, path := 0, junction := v.target (fJct x), rejoin := true, path0 := v.active }
      fun v => { v with pc := v.pc + 8 }) k n w s

/-- Lanes that leave the active mask: the convoy goes on, or takes the junction action when none is left. -/
def Dev.leave (d : Dev) (k n : Nat) (v : Convoy) (a all : Word) : Exec Dev :=
  if a = 0 then d.doJunction k n { v with active := 0 } 0 all
  else d.jumpTo k n { v with active := a } (v.pc + 8)

def execJbrk (k n : Nat) (w : BitVec 56) (s : State) : Host.Outcome State Fault Refusal :=
  runControlDev 0x89 (fbits 50 47) false (fun x d v =>
    d.leave k n v (v.active &&& ~~~v.splitPred x) (v.allLanes x)) k n w s
/-- The last lanes exit once the convoy's MMAs have completed (log entry 27). -/
def execExit (k n : Nat) (w : BitVec 56) (s : State) : Host.Outcome State Fault Refusal :=
  let x := iword 0x8a w
  s.run (convoyOk k n) fun d => d.issue k n .uniform (fun d v =>
    let e := v.effective x
    d.lift (v.legal x (onlyUses x 0)
      (d.leave k n { v with live := v.live &&& ~~~e } (v.active &&& ~~~e) (v.allLanes x))))
    fun d v => !d.inFlight k n || v.live &&& ~~~v.effective x != 0

/-! ### Barriers -/

/-- R89: the active lanes park; `fence` is BAR.F's. -/
def Dev.park (d : Dev) (k n : Nat) (v : Convoy) (x : Nat) (fence : Bool) : Exec Dev :=
  let b := fPp x
  if v.parked != 0 && (v.barIdx != b || v.barAddr != v.pc) then .error (8, v.allLanes x)
  else
    d.doJunction k n
      { v with parked := v.parked ||| v.active, active := 0, barIdx := b, barAddr := v.pc, barFence := fence } 0 (v.allLanes x)

def execBar (k n : Nat) (w : BitVec 56) (s : State) : Host.Outcome State Fault Refusal :=
  runControlDev 0x8d (fbits 50 48) false (fun x d v => d.park k n v x false) k n w s
/-- R96: a release fence of CORE scope before the lanes park; the acquire of CORE scope when they resume asks nothing of
the L1 (R314). -/
def execBarF (k n : Nat) (w : BitVec 56) (s : State) : Host.Outcome State Fault Refusal :=
  runControlDev 0x8e (fbits 50 48) false (fun x d v =>
    match d.park k n { v with resv := [] } x true with
    | .error c => .error c
    | .ok _ => ((d.release k n 1).countFence k).park k n { v with resv := [] } x true) k n w s

/-! ### Traps and lay-bys -/

/-- Raises cause 0x40 + *n*, *n* being bits [26:21]. -/
def execTrap (k n : Nat) (w : BitVec 56) (s : State) : Host.Outcome State Fault Refusal :=
  runControlDev 0x8f (fbits 26 21) false (fun x _ v => .error (0x40 + bits x 26 21, v.allLanes x)) k n w s
/-- R98: leaves the handler at the address in Ua with the mask of the trapping instruction; lanes of it that have exited
or parked since are not active (R83). -/
def execTret (k n : Nat) (w : BitVec 56) (s : State) : Host.Outcome State Fault Refusal :=
  runControlDev 0x90 (fbits 46 41) false (fun x d v =>
    let a := v.ur (fBUa x)
    raising [causeIf (!v.inHandler) 9 (v.allLanes x), jumpCause v x a] <|
      let m := v.handlerMask &&& v.live &&& ~~~v.parked
      let v : Convoy := { v with inHandler := false, handlerMask := 0, pc := BitVec.ofNat 64 a, active := m }
      if m = 0 then d.doJunction k n v 0 (v.allLanes x) else .ok (d.setConvoy k n v)) k n w s
def execBkpt (k n : Nat) (w : BitVec 56) (s : State) : Host.Outcome State Fault Refusal :=
  runControlDev 0x91 0 false (fun x _ v => .error (0x0a, v.allLanes x)) k n w s
/-- R145: with a preemption request pending the convoy stops after it, to be saved with the groups and tiles named. -/
def execLayby (k n : Nat) (w : BitVec 56) (s : State) : Host.Outcome State Fault Refusal :=
  runControlDev 0x92 (fbits 50 27) false (fun x d v =>
    let v : Convoy := { v with pc := v.pc + 8 }
    let v : Convoy :=
      if v.preempt then { v with saveForm := 1, vGroups := bits x 50 35, keepTiles := bits x 34 27 } else v
    .ok (d.setConvoy k n v)) k n w s

/-- The opcodes of the opcode tables of chapter 4. -/
def opcodeListed (op : Nat) : Bool :=
  (0x10 ≤ op && op ≤ 0x26) || (0x28 ≤ op && op ≤ 0x3a) || (0x50 ≤ op && op ≤ 0x5a) || op == 0x60 || op == 0x61 ||
  (0x63 ≤ op && op ≤ 0x68) || (0x70 ≤ op && op ≤ 0x7a) || (0x80 ≤ op && op ≤ 0x92) || (0xa0 ≤ op && op ≤ 0xa3) ||
  (0xb0 ≤ op && op ≤ 0xbb) || op == 0xc0 || op == 0xc1 || op == 0xc4 || (0xc8 ≤ op && op ≤ 0xcc) || op == 0xd0 ||
  op == 0xd1 || (0xd4 ≤ op && op ≤ 0xd7)

/-- R111: a word whose opcode is not listed traps in every lane; `op` is not one of the tables'. -/
def execIllegalInstruction (k n : Nat) (w : Word) (s : State) : Host.Outcome State Fault Refusal :=
  s.run (convoyOk k n && !opcodeListed (w.toNat / 2 ^ 56)) fun d =>
    d.issue k n .uniform fun d v => d.lift (.error (1, v.allLanes w.toNat))

end Sys2Proof.Machine
end

