-- ==== Sys2Proof/Machine/MsInstr.lean ====
section
/-! DEFINITION. The milestone instructions (R140), the operations of the homes (R366 to R371), the gating of a sleeping
core (R373) and the watchdog (R378, R379). -/

namespace Sys2Proof.Machine

/-! ### Instructions -/

/-- A milestone instruction: its fields, and "invalid resource" for a handle the convoy may not use (R140, R364). -/
def runMs (op used : Nat) (f : Nat → Dev → Convoy → Nat → Exec Dev) (k n : Nat) (w : BitVec 56) (s : State) :
    Host.Outcome State Fault Refusal :=
  let x := iword op w
  s.runMem k n (fun d v =>
    let h := v.ur (bits x 44 39)
    d.lift (v.legal x (noGuard x && onlyUses x used) <|
      raising [causeIf (!d.msUsable (d.launchOf k v).part h) 0x16 (v.allLanes x)] <| f x d v h)) fun _ _ => true

/-- MS.ADD and MS.SET: a signal sent on its way. -/
def msSend (k n : Nat) (isSet : Bool) (x : Nat) (d : Dev) (v : Convoy) (h : Nat) : Exec Dev :=
  (d.signal (convoyAgent k n) h isSet (v.ur (bits x 38 33))).retire k n v

def execMsAdd (k n : Nat) (w : BitVec 56) (s : State) : Host.Outcome State Fault Refusal :=
  runMs 0xc8 (fbits 44 33) (msSend k n false) k n w s
def execMsSet (k n : Nat) (w : BitVec 56) (s : State) : Host.Outcome State Fault Refusal :=
  runMs 0xc9 (fbits 44 33) (msSend k n true) k n w s

/-- MS.WAITGE and MS.WAITEQ: satisfied at issue, or asleep until WAIT_SATISFIED. -/
def msWait (k n : Nat) (eq : Bool) (x : Nat) (d : Dev) (v : Convoy) (h : Nat) : Exec Dev :=
  let r : WaitRec :=
    { handle := BitVec.ofNat 64 h, target := BitVec.ofNat 64 (v.ur (bits x 38 33)), eq := eq, since := d.time }
  if r.met (d.msVal h) then d.retire k n v
  else .ok (d.setConvoy k n { v with state := .sleeping, wait := some r })

def execMsWaitge (k n : Nat) (w : BitVec 56) (s : State) : Host.Outcome State Fault Refusal :=
  runMs 0xca (fbits 44 33) (msWait k n false) k n w s
def execMsWaiteq (k n : Nat) (w : BitVec 56) (s : State) : Host.Outcome State Fault Refusal :=
  runMs 0xcb (fbits 44 33) (msWait k n true) k n w s

/-- MS.TEST: after the convoy's own signals to the milestone (R367). -/
def execMsTest (k n : Nat) (w : BitVec 56) (s : State) : Host.Outcome State Fault Refusal :=
  runMs 0xcc (fbits 50 39) (fun x d v h =>
    let d := d.flushSignals fun s => s.agent == convoyAgent k n && s.handle.toNat == h
    d.retire k n (v.setUr (bits x 50 45) (d.msVal h))) k n w s

/-! ### Waits -/

/-- A core that a satisfied wait wakes: it ungates, and issues at half rate until its credit is back (R373, R374). -/
def Dev.ungate (d : Dev) (k : Nat) : Dev :=
  let c := d.core k
  if c.gated then d.setCore k { c with gated := false, halfRate := true } else d

/-- R373, R513: a register window of a core accessed. -/
def Dev.touchCore (d : Dev) (k : Nat) : Dev := (d.wakeCluster (coreCluster k)).ungate k

/-- A sleeping convoy's wait completes: it goes on after its wait instruction (R372, R381). A stepped convoy halts there
(R102). -/
def Dev.wakeConvoy (d : Dev) (k n : Nat) : Dev :=
  match d.convoy? k n with
  | none => d
  | some v =>
    match v.wait with
    | none => d
    | some w =>
      let v' : Convoy := { v with state := .running, wait := none, pc := v.pc + 8 }
      let l := d.launchOf k v
      (((((d.setConvoy k n v').dropSub k w.handle.toNat).ungate k).wakeCluster (coreCluster k)).trace l.part 8 (coreCluster k) (k % 8) n l.tag l.seq
        w.handle.toNat).afterStep k n

/-- A convoy's sleeping wait. -/
def Dev.sleeper (d : Dev) (k n : Nat) : Option (Convoy × WaitRec) :=
  match d.convoy? k n with
  | some v => if v.state == .sleeping then v.wait.map fun w => (v, w) else none
  | none => none

/-- Wait `i` of a command that has not been granted. -/
def Dev.cmdWait (d : Dev) (asid q seq i : Nat) : Option WaitRec :=
  match (d.queue asid q).fetched.find? (·.seq == seq) with
  | some c => if i = 0 then c.wait0 else c.wait1
  | none => none

/-- Wait `i` of a command replaced. -/
def Dev.setCmdWait (d : Dev) (asid q seq i : Nat) (w : Option WaitRec) : Dev :=
  let x := d.queue asid q
  let one (c : Cmd) : Cmd := if c.seq == seq then (if i = 0 then { c with wait0 := w } else { c with wait1 := w }) else c
  d.setQueue asid q { x with fetched := x.fetched.map one }

/-- The partition of a context (R416). -/
def Dev.ctxPart (d : Dev) (asid : Nat) : Nat := d.fld F.HIF_CTX_CFG_partition asid

/-- A named wait, with its subscriber. -/
def Dev.findWait (d : Dev) (r : WaitRef) : Option (Nat × WaitRec) :=
  match r with
  | .convoy k n => (d.sleeper k n).map fun x => (k, x.2)
  | .command asid q seq i => (d.cmdWait asid q seq i).map fun w => (dispatcherSub (d.ctxPart asid), w)

def Dev.putWait (d : Dev) (r : WaitRef) (w : WaitRec) : Dev :=
  match r with
  | .convoy k n => match d.convoy? k n with
    | some v => d.setConvoy k n { v with wait := some w }
    | none => d
  | .command asid q seq i => d.setCmdWait asid q seq i (some w)

/-- A satisfied wait ends: the convoy wakes, or the command has one wait less. -/
def Dev.endWait (d : Dev) (r : WaitRef) (w : WaitRec) : Dev :=
  match r with
  | .convoy k n => d.wakeConvoy k n
  | .command asid q seq i =>
    (d.setCmdWait asid q seq i none).dropSub (dispatcherSub (d.ctxPart asid)) w.handle.toNat

/-- A wait that exists: the core and convoy slot, or the context, queue and wait number are in range. -/
def waitRefOk : WaitRef → Bool
  | .convoy k n => convoyOk k n
  | .command asid q _ i => asid < 64 && q < 64 && i < 2

/-- R368, R369: a wait reaches its home; one that is already satisfied completes at once. -/
def execWaitRegistration (r : WaitRef) (s : State) : Host.Outcome State Fault Refusal :=
  s.run (waitRefOk r) fun d =>
    match d.findWait r with
    | some (sub, w) =>
      if w.registered then d
      else
        let (d, w) := d.register sub w
        let d := d.putWait r w
        if w.satisfied then d.endWait r w else d
    | none => d

/-- R372: the new value of a milestone reaches the core or dispatcher of a wait it has satisfied. -/
def execWaitSatisfied (r : WaitRef) (s : State) : Host.Outcome State Fault Refusal :=
  s.run (waitRefOk r) fun d =>
    match d.findWait r with
    | some (_, w) => if w.satisfied then d.endWait r w else d
    | none => d

/-- R371. -/
def execWaitPoll (r : WaitRef) (s : State) : Host.Outcome State Fault Refusal :=
  s.run (waitRefOk r) fun d =>
    match d.findWait r with
    | some (sub, w) =>
      if w.registered && w.polling then
        let (d, w) := d.pollWait sub w
        let d := d.putWait r w
        if w.satisfied then d.endWait r w else d
      else d
    | none => d

/-! ### The homes -/

/-- The signal at position `i` reaches its home, if it is an Add, or a Set, and may (R367). -/
def runSignal (isSet : Bool) (i : Nat) (s : State) : Host.Outcome State Fault Refusal :=
  s.run true fun d =>
    match d.signalFirst i with
    | some x => if x.isSet == isSet then d.deliverSignal i x else d
    | none => d

def execMilestoneAdd (i : Nat) (s : State) : Host.Outcome State Fault Refusal := runSignal false i s
def execMilestoneSet (i : Nat) (s : State) : Host.Outcome State Fault Refusal := runSignal true i s

/-- R366, R367: a Test of agent `a` at the home of `h`: the agent's own signals sent before it are applied first; the
value goes back to the agent and nothing else changes. -/
def execMilestoneTest (a : Nat) (h : Word) (s : State) : Host.Outcome State Fault Refusal :=
  s.run (handleOk h.toNat) fun d => d.flushSignals fun x => x.agent == a && x.handle == h

/-! ### Gating (R373 to R375) -/

/-- R373: every resident convoy sleeps on a wait that has not been satisfied; a satisfied one aborts the entry (R375). -/
def Core.mayGate (c : Core) : Bool :=
  !c.convoys.isEmpty && c.convoys.all fun (_, v) =>
    v.state == .sleeping && (match v.wait with | some w => !w.satisfied | none => false)

def execCoreGate (k : Nat) (s : State) : Host.Outcome State Fault Refusal :=
  s.run (coreOk k) fun d =>
    let c := d.core k
    if c.mayGate then d.setCore k { c with gated := true, halfRate := false } else d

/-! ### The watchdog (R378, R379) -/

/-- Waits and barriers of a partition now hung (R383). -/
def Dev.hungCount (d : Dev) (p : Nat) : Nat :=
  let w (o : Option WaitRec) : Nat := match o with | some w => b2n w.hung | none => 0
  let ofCore (c : Core) : Nat :=
    (c.convoys.map fun (_, v) => match NMap.find? c.wgs v.wg with
      | some x => if x.launch.part == p then w v.wait else 0
      | none => 0).sum + (c.wgs.map fun (_, x) => if x.launch.part == p then x.hungBars.length else 0).sum
  let ofQueue (q : QueueState) : Nat :=
    (q.fetched.map fun c => if d.ctxPart c.asid == p then w c.wait0 + w c.wait1 else 0).sum
  min 0xffff ((d.cores.map fun (_, c) => ofCore c).sum + (d.qs.map fun (_, q) => ofQueue q).sum)

/-- The records of one report written to the partition's ring, or the whole report dropped. -/
def Dev.hangReport (d : Dev) (p : Nat) (recs : List (List Byte)) : Dev :=
  if !d.flag F.MS_WDOG_CTRL_enable p || recs.isEmpty then d
  else
    let room := match d.ring .MS_WDOG_RING p with
      | some (_, size) => ringFree (d.fld F.MS_WDOG_HEAD_index p) (d.fld F.MS_WDOG_TAIL_index p) size
      | none => 0
    if room < recs.length then (d.count F.MS_WDOG_DROPPED_count p).setFld F.MS_WDOG_STATUS_dropped p 1
    else
      let d := d.each recs fun d r => d.ringPush .MS_WDOG_RING F.MS_WDOG_HEAD_index p r
      (d.errEvent (some p) 15 recs.length).sendCtrl .MS_WDOG_CTRL p

/-- A watchdog record (R379). -/
def hangBytes (kind p convoy bar cluster slot flags : Nat) (cookie a b value : Word) (wg : Nat × Nat × Nat)
    (tag : Nat × Nat × Nat) (asid queue since : Nat) : List Byte :=
  leBytes kind 1 ++ leBytes p 1 ++ leBytes convoy 1 ++ leBytes bar 1 ++ leBytes cluster 2 ++ leBytes slot 1 ++
  leBytes flags 1 ++ leBytes cookie.toNat 8 ++ leBytes a.toNat 8 ++ leBytes b.toNat 8 ++ leBytes value.toNat 8 ++
  leBytes wg.1 4 ++ leBytes wg.2.1 2 ++ leBytes wg.2.2 2 ++ leBytes tag.1 2 ++ leBytes tag.2.1 2 ++ leBytes tag.2.2 2 ++
  leBytes asid 1 ++ leBytes queue 1 ++ leBytes since 8

def waitFlags (w : WaitRec) : Nat := b2n w.eq + 2 * b2n w.polling

/-- A registered wait not reported yet and still unsatisfied is reported (R378). -/
def WaitRec.mayHang (w : WaitRec) : Bool := w.registered && !w.hung && !w.satisfied

def Dev.convoyHang (d : Dev) (k n : Nat) : Dev :=
  match d.sleeper k n with
  | some (v, w) =>
    if w.mayHang then
      let x := d.convoyWg k v
      let l := x.launch
      (d.setConvoy k n { v with wait := some { w with hung := true } }).hangReport l.part
        [hangBytes 1 l.part v.index 0 (coreCluster k) (k % 8) (waitFlags w) l.cookie w.handle w.target
          (BitVec.ofNat 64 (d.msVal w.handle.toNat)) x.coord l.tag l.asid 0 w.since]
    else d
  | none => d

/-- Field [hi:lo] of a command's 64 bytes. -/
def Cmd.field (c : Cmd) (hi lo : Nat) : Nat := bits c.raw.toNat hi lo

/-- The context tag, layer and operator of a command (R423). -/
def Cmd.tag (c : Cmd) : Nat × Nat × Nat :=
  (c.field 27 16, c.field 47 32, c.field 63 48)

def Dev.commandHang (d : Dev) (asid q seq i : Nat) : Dev :=
  match (d.queue asid q).fetched.find? (·.seq == seq), d.cmdWait asid q seq i with
  | some c, some w =>
    if w.mayHang then
      let p := d.ctxPart asid
      (d.setCmdWait asid q seq i (some { w with hung := true })).hangReport p
        [hangBytes 3 p i 0 0xffff 0 (waitFlags w) (BitVec.ofNat 64 (c.field 127 64)) w.handle w.target
          (BitVec.ofNat 64 (d.msVal w.handle.toNat)) (0, 0, 0) c.tag asid q w.since]
    else d
  | _, _ => d

/-- A barrier with an arrived or held convoy: one record per convoy that has not completed, by convoy index. -/
def Dev.barrierHang (d : Dev) (k w b : Nat) : Dev :=
  match d.wg? k w with
  | some x =>
    match NMap.find? x.arrivedAt b with
    | some since =>
      if x.hungBars.contains b then d
      else
        let l := x.launch
        let vs := (List.range x.count).filterMap fun i => (d.wgConvoys k w).find? fun c => c.2.index == i
        (d.setWg k w { x with hungBars := insSorted b x.hungBars }).hangReport l.part
          (vs.map fun c => hangBytes 2 l.part c.2.index b (coreCluster k) (k % 8) 0 l.cookie c.2.live c.2.parked 0 x.coord
            l.tag l.asid 0 since)
    | none => d
  | none => d

def hangRefOk : HangRef → Bool
  | .wait r => waitRefOk r
  | .barrier k w b => coreOk k && w < 16 && b < 8

/-- The named wait or barrier reaches the watchdog period; that its age has reached it is what the command says (log
entry 17). -/
def execWatchdogHang (r : HangRef) (s : State) : Host.Outcome State Fault Refusal :=
  s.run (hangRefOk r) fun d =>
    match r with
    | .wait (.convoy k n) => d.convoyHang k n
    | .wait (.command asid q seq i) => d.commandHang asid q seq i
    | .barrier k w b => d.barrierHang k w b

/-! ### The access registers (R380, R381) -/

/-- A go of MS_OP: the milestone in MS_SEL is tested, added to or set, and MS_VALUE takes its value. The operation is done
at once, so busy reads 0. -/
def Dev.msAccess (d : Dev) (op : Nat) : Dev :=
  if op = 3 then d
  else
    let h := d.reg .MS_SEL 0
    if !handleOk h then d.setFld F.MS_OP_error 0 1
    else
      let d := d.setFld F.MS_OP_error 0 0
      let d := if op = 0 then d else d.msApply h (op == 2) (d.reg .MS_OPERAND 0)
      d.setReg .MS_VALUE 0 (d.msVal h)

/-- A go of MS_FORCE_WAKE. -/
def Dev.forceWake (d : Dev) (cluster slot n : Nat) : Dev :=
  let k := cluster * 8 + slot
  match if cluster < 200 then d.sleeper k n else none with
  | some _ => (d.setFld F.MS_FORCE_WAKE_error 0 0).wakeConvoy k n
  | none => d.setFld F.MS_FORCE_WAKE_error 0 1

/-- A write of MS_OP with go. -/
def Dev.msGo (d : Dev) (op : Nat) : Dev := (d.setFld F.MS_OP_op 0 op).msAccess op

def execMsOpTest (s : State) : Host.Outcome State Fault Refusal := s.runBar true (·.msGo 0)
def execMsOpAdd (s : State) : Host.Outcome State Fault Refusal := s.runBar true (·.msGo 1)
def execMsOpSet (s : State) : Host.Outcome State Fault Refusal := s.runBar true (·.msGo 2)

/-- A write of MS_FORCE_WAKE with go, whose fields are stored. -/
def Dev.forceWakeGo (d : Dev) (cluster slot n : Nat) : Dev :=
  (((d.setFld F.MS_FORCE_WAKE_cluster 0 cluster).setFld F.MS_FORCE_WAKE_core_slot 0 slot).setFld
    F.MS_FORCE_WAKE_convoy_slot 0 n).forceWake cluster slot n

def execMsForceWake (cluster slot n : Nat) (s : State) : Host.Outcome State Fault Refusal :=
  s.runBar (cluster < 256 && slot < 8 && n < 16) (·.forceWakeGo cluster slot n)

end Sys2Proof.Machine
end

