-- ==== Sys2Proof/Machine/Matrix.lean ====
section
/-! DEFINITION. The matrix array: images and staging (R149 to R157), the MMA (R142, R150 to R169), its sentinels and
detours (R216 to R228), checks and replay (R174 to R180), and the tile instructions. -/

namespace Sys2Proof.Machine

/-! ### Formats in the array -/

/-- K of a stationary format (R150), 0 where the array does not take it. -/
def arrayK (fmt : Nat) (sparse : Bool) : Nat :=
  let k := match fmt with
    | 0 => 0 | 1 => 0 | 10 => 0 | 2 => 8 | 3 => 16 | 4 => 16 | 9 => 64 | 12 => 64 | 13 => 128 | 14 => 128 | 15 => 256 | _ => 32
  if sparse then 2 * k else k

/-- R151, R168: may a format be staged sparse. -/
def sparseOk (fmt : Nat) : Bool := fmt == 5 || fmt == 6 || fmt == 9
/-- R164: may a format be scaled. -/
def scaleOk (fmt : Nat) : Bool := arrayK fmt false ≥ 32

/-- R151: a permitted pair. -/
def pairOk (b a : Nat) : Bool :=
  match b with
  | 3 => a == 3 || a == 4
  | 4 => a == 3 || a == 4
  | 2 => a == 2
  | 9 => a == 9
  | 11 => a == 11
  | 12 => a == 12
  | 13 => a == 13 || a == 14
  | 14 => a == 13 || a == 14
  | 15 => a == 15
  | 0 => false
  | 1 => false
  | 10 => false
  | _ => 5 ≤ a && a ≤ 8

/-- R154: may STAGE take this format, with these bits. -/
def Dev.stageOk (d : Dev) (fmt : Nat) (sparse scaled : Bool) : Bool :=
  (d.fmtDesc fmt).used && arrayK fmt false != 0 && (!sparse || sparseOk fmt) &&
    (!scaled || (scaleOk fmt && (d.fmtDesc fmt).scaling != 0))

/-! ### Images (R153) -/

def valueBytes (fmt : Nat) : Nat := if fmt ≥ 16 then 512 else 1024
def metaBytes (fmt : Nat) (sparse : Bool) : Nat := if !sparse then 0 else if fmt = 9 then 512 else 256
def scaleBytes (fmt : Nat) (sparse scaled : Bool) : Nat := if scaled then arrayK fmt sparse else 0
def imageBytes (fmt : Nat) (sparse scaled : Bool) : Nat :=
  valueBytes fmt + metaBytes fmt sparse + scaleBytes fmt sparse scaled

/-- A buffer filled from an image's bytes. -/
def StatBuf.ofImage (fmt : Nat) (sparse scaled : Bool) (cb : Codebook) (bs : List Byte) : StatBuf :=
  let n := valueBytes fmt
  let m := metaBytes fmt sparse
  { filled := true, fmt := fmt, sparse := sparse, scaled := scaled, values := BitVec.ofNat 8192 (leNat (bs.take n)),
    meta_ := BitVec.ofNat 4096 (leNat ((bs.drop n).take m)), scales := BitVec.ofNat 2048 (leNat (bs.drop (n + m))),
    codebook := cb }

/-- Stored element `e` of column `c`. -/
def StatBuf.stored (b : StatBuf) (e c : Nat) : Nat :=
  let v := b.values.toNat
  if b.fmt ≥ 16 then
    let byte := bits v (8 * (32 * (e / 2) + c) + 7) (8 * (32 * (e / 2) + c))
    byte / 16 ^ (e % 2) % 16
  else if b.fmt = 2 then
    let at' (i : Nat) : Nat := bits v (8 * i + 15) (8 * i)
    at' (128 * e + 2 * c) * 2 ^ 16 + at' (128 * e + 64 + 2 * c)
  else
    let w := fmtWidth b.fmt
    let n := 16 / w
    let o := 8 * (64 * (e / n) + 2 * c) + w * (e % n)
    bits v (o + w - 1) o

/-- The number of stored elements of a column. -/
def StatBuf.count (b : StatBuf) : Nat := arrayK b.fmt false

/-- The position along K that a stored element meets (R168). -/
def StatBuf.position (b : StatBuf) (e c : Nat) : Nat :=
  if b.sparse then
    let g := e / 2
    let o := 8 * (c * (arrayK b.fmt true / 8) + g / 2) + 4 * (g % 2) + 2 * (e % 2)
    4 * g + bits b.meta_.toNat (o + 1) o
  else e

/-- The scale of a K-block of a column. -/
def StatBuf.scale (b : StatBuf) (c j : Nat) : Nat :=
  let nb := arrayK b.fmt b.sparse / 32
  let o := 8 * (nb * c + j)
  bits b.scales.toNat (o + 7) o

/-! ### The product (R163) -/

/-- A zero result of the exact sum has no sign. -/
def FV.unsignedZero : FV → FV
  | .fin _ 0 e => .fin false 0 e
  | x => x

/-- The exact sum of a list. -/
def fvSum (l : List FV) : FV := FV.unsignedZero (l.foldl (FV.add .rne) (.fin false 0 0))

/-- The scaled elements of row `r` of A. -/
def Dev.rowElems (d : Dev) (m : MmaRec) (r : Nat) : List FV :=
  let fa := bits m.word.toNat 40 36
  let x := m.a.getD r 0
  let s := m.aScales.getD r 0
  let w := fmtWidth fa
  (List.range (arrayK m.buf.fmt m.buf.sparse)).map fun k =>
    let e := elemVal fa [] (bits x (w * (k + 1) - 1) (w * k))
    if m.buf.scaled then FV.scaled (scaleVal (d.fmtDesc fa).scaling (bits s (8 * (k / 32) + 7) (8 * (k / 32)))) e else e

/-- The scaled stored elements of column `c`, with their positions. -/
def Dev.colElems (d : Dev) (m : MmaRec) (c : Nat) : List (Nat × FV) :=
  (List.range m.buf.count).map fun e =>
    let k := m.buf.position e c
    let x := elemVal m.buf.fmt m.buf.codebook (m.buf.stored e c)
    (k, if m.buf.scaled then FV.scaled (scaleVal (d.fmtDesc m.buf.fmt).scaling (m.buf.scale c (k / 32))) x else x)

/-- The dot product of a row and a column. -/
def fvDot (row : List FV) (col : List (Nat × FV)) : FV :=
  fvSum (col.map fun x => (row.getD x.1 (.fin false 0 0)).mul x.2)

/-- d[r][c] for every row, row by row; rows outside the effective set stream zeros. -/
def Dev.products (d : Dev) (m : MmaRec) : List (List FV) :=
  let cols := (List.range 32).map (d.colElems m)
  let zero := List.replicate (arrayK m.buf.fmt m.buf.sparse) (FV.fin false 0 0)
  (List.range 64).map fun r =>
    let row := if m.eff.getLsbD r then d.rowElems m r else zero
    cols.map (fvDot row)

/-! ### Faults in the array -/

/-- Bit `b` of a result's FP32 encoding inverted (R180). -/
def flipResult (x : FV) (b : Nat) : FV := fmtF32.decode (fmtF32.round .rne x ^^^ 2 ^ b)

/-- Two data are the same value or the same class. -/
def FV.same (x y : FV) : Bool :=
  match x, y with
  | .nan, .nan => true
  | x, y => x.cmp y == some .eq

/-- The products with the disturbed results in place: (row, column, bit), column 32 being the checksum column, which has
none here. -/
def disturb (ds : List (List FV)) (l : List (Nat × Nat × Nat)) : List (List FV) :=
  l.foldl (fun ds x =>
    let row := ds.getD x.1 []
    if x.2.1 < 32 then ds.set x.1 (row.set x.2.1 (flipResult (row.getD x.2.1 .nan) x.2.2)) else ds) ds

/-- The checksum value of a row as disturbed: the exact sum of the row with each bit inverted. -/
def rowCheck (row : List FV) (r : Nat) (l : List (Nat × Nat × Nat)) : FV :=
  (l.filter fun x => x.1 == r && x.2.1 == 32).foldl (fun a x => flipResult a x.2.2) (fvSum row)

/-- R174: the rows whose sum differs from the checksum column's value, among those a disturbance touches. -/
def badRows (true_ got : List (List FV)) (l : List (Nat × Nat × Nat)) : List Nat :=
  (List.range 64).filter fun r =>
    (l.any fun x => x.1 == r) && !FV.same (fvSum (got.getD r [])) (rowCheck (true_.getD r []) r l)

/-- R175: the columns whose sum differs from the checksum row's. -/
def badCols (true_ got : List (List FV)) (l : List (Nat × Nat × Nat)) : List Nat :=
  let sum (ds : List (List FV)) (c : Nat) : FV := fvSum (ds.map fun r => r.getD c .nan)
  (List.range 32).filter fun c => (l.any fun x => x.2.1 == c) && !FV.same (sum got c) (sum true_ c)

/-- The disturbance that ARR_INJECT asks for; a reserved column injects nothing. -/
def Dev.injection (d : Dev) (k : Nat) : List (Nat × Nat × Nat) :=
  let c := d.fld F.ARR_INJECT_column k
  if d.flag F.ARR_INJECT_arm k && c ≤ 32 then [(d.fld F.ARR_INJECT_row k, c, d.fld F.ARR_INJECT_bit k)] else []

/-! ### Tiles -/

def tileKey (t r c : Nat) : Nat := t * 2048 + r * 32 + c
def ArrayState.elem (a : ArrayState) (t r c : Nat) : Nat := (NMap.getD (α := BitVec 32) a.tiles (tileKey t r c) 0).toNat
def ArrayState.setElem (a : ArrayState) (t r c x : Nat) : ArrayState :=
  { a with tiles := NMap.put (α := BitVec 32) a.tiles (tileKey t r c) (BitVec.ofNat 32 x) 0 }
def ArrayState.stat (a : ArrayState) (t : Nat) : Nat := (NMap.getD (α := Word) a.status t 0).toNat
def ArrayState.setStat (a : ArrayState) (t x : Nat) : ArrayState :=
  { a with status := NMap.put (α := Word) a.status t (BitVec.ofNat 64 x) 0 }
/-- Bit `b` of a tile's status word (R144: 0 poisoned, 1 detoured, 2 detour_flagged). -/
def ArrayState.setStatBit (a : ArrayState) (t b : Nat) (v : Bool) : ArrayState := a.setStat t (setBits (a.stat t) b b (b2n v))
def Dev.arr (d : Dev) (k : Nat) : ArrayState := (d.core k).arr
def Dev.setArr (d : Dev) (k : Nat) (a : ArrayState) : Dev := d.setCore k { (d.core k) with arr := a }

/-- The elements of a tile as they stand. -/
def ArrayState.tileOf (a : ArrayState) (t : Nat) : NMap (BitVec 32) :=
  a.tiles.filter fun x => t * 2048 ≤ x.1 && x.1 < (t + 1) * 2048

/-- The rows of a mask put back to what they were (R178, R225). -/
def ArrayState.restoreRows (a : ArrayState) (t : Nat) (old : NMap (BitVec 32)) (rows : Word) : ArrayState :=
  let mine (i : Nat) : Bool := t * 2048 ≤ i && i < (t + 1) * 2048 && rows.getLsbD (i % 2048 / 32)
  let kept := a.tiles.filter fun x => !mine x.1
  let back := old.filter fun x => mine x.1
  { a with tiles := back.foldl (fun m x => NMap.insert m x.1 x.2) kept }

/-- R166: the physical tile of a workgroup's tile. -/
def WG.tile (x : WG) (i : Nat) : Option Nat := (maskList x.tiles 8)[i]?

/-- R158, R162, R225: is a tile free of MMAs, replays and pending restores. -/
def Dev.tileFree (d : Dev) (k t : Nat) : Bool :=
  let c := d.core k
  !(c.arr.inflight.any (·.tile == t)) && !(c.arr.cancelled.any (·.tile == t)) &&
    (match c.arr.replay with | some r => r.tile != t | none => true) &&
    c.convoys.all fun (_, v) => match v.divert with | some x => x.tile != t | none => true

/-! ### STAGE (R154 to R157) -/

/-- May the convoy's workgroup use the stationary buffers. -/
def Dev.ownsArray (d : Dev) (k : Nat) (v : Convoy) : Bool :=
  match (d.arr k).owner with
  | some w => w == v.wg
  | none => true

def Convoy.stageAddr (v : Convoy) (w : Nat) : Nat := ofInt 64 ((v.ur (bits w 50 45) : Nat) + toSigned 20 (fImm20 w))

/-- A STAGE whose image has been read: the back buffer is incomplete until STAGE_COMPLETE. -/
def Dev.beginStage (d : Dev) (k n : Nat) (v : Convoy) (b : StatBuf) : Eff :=
  let a := d.arr k
  let a : ArrayState :=
    { a with owner := some v.wg, stage := some b, stageHeld := false, stagedSinceSwap := true, back := { a.back with filled := false } }
  let d := (d.setArr k a).coreEvent k 8
  d.lift (d.retire k n v)

def memStage (k n w : Nat) (d : Dev) (v : Convoy) : Eff :=
  let fmt := bits w 41 37
  let space := bits w 44 42
  let sparse := bitAt w 36
  let scaled := bitAt w 35
  let a := v.stageAddr w
  let len := imageBytes fmt sparse scaled
  let buf := StatBuf.ofImage fmt sparse scaled (d.fmtDesc fmt).codebook
  match v.legal w (noGuard w && onlyUses w (fbits 50 35 ||| fbits 19 0) && space ≤ 2) (raising
      (causeIf (!d.stageOk fmt sparse scaled) 0x25 (v.allLanes w) :: d.imageCauses k v w a 64 len space) (.ok ())) with
  | .error c => (d, some c)
  | .ok _ =>
    if space = 0 then
      d.blockTranslated k n w v a len false fun d ps =>
        let (d, bs, p) := d.blockRead k ps
        if p then (d, some (0x15, v.allLanes w)) else d.beginStage k n v (buf bs)
    else
      let d := if space = 2 then d.claimStore (coreCluster k) (d.launchOf k v).asid else d
      d.beginStage k n v (buf (d.storeRead k v space a len))

/-- R156, R157: no other STAGE in flight, and the buffers not another workgroup's. -/
def Dev.stageEligible (d : Dev) (k : Nat) (v : Convoy) (w : Nat) : Bool :=
  (d.arr k).stage.isNone && d.ownsArray k v && (d.arr k).cancelled.isEmpty &&
    d.rangeFree k v (bits w 44 42) (lineSpan [v.stageAddr w] (imageBytes (bits w 41 37) (bitAt w 36) (bitAt w 35))) false

def execStage (k n : Nat) (w : BitVec 56) (s : State) : Host.Outcome State Fault Refusal :=
  let x := iword 0xd0 w
  s.run (convoyOk k n) fun d => d.issue k n .matrix (memStage k n x) fun d v => d.stageEligible k v x

/-- R154, R176: the image is in and the back buffer complete. A STAGE into the buffer of a failed MMA, which the undone swap
has made the front one, is held until the replay ends. -/
def execStageComplete (k : Nat) (s : State) : Host.Outcome State Fault Refusal :=
  s.run (coreOk k) fun d =>
    let a := d.arr k
    match a.stage with
    | none => d
    | some b =>
      if a.stageHeld then
        if a.replay.isSome then d else d.setArr k { a with front := b, stage := none, stageHeld := false }
      else d.setArr k { a with back := b, stage := none }

/-! ### MMA (R142, R158, R175) -/

/-- The buffer an MMA uses. -/
def ArrayState.used (a : ArrayState) (swap : Bool) : StatBuf := if swap then a.back else a.front

/-- R143: "stationary empty". -/
def ArrayState.empty (a : ArrayState) (swap : Bool) : Bool := if swap then !a.stagedSinceSwap else !a.front.filled

/-- A convoy's row of A: 8 or 16 registers. -/
def Convoy.aRow (v : Convoy) (w : Nat) (sparse : Bool) (t : Nat) : Nat := v.vrs (bits w 47 41) t (if sparse then 16 else 8)

/-- The attributes that the buffer must have. -/
def StatBuf.matches (b : StatBuf) (fmt : Nat) (sparse scaled : Bool) : Bool :=
  b.fmt == fmt && b.sparse == sparse && b.scaled == scaled

/-- R143, R151, R152, R164: the causes of an MMA. A scaled MMA whose A descriptor has no scaling is not permitted (log entry
28). -/
def Dev.mmaCauses (d : Dev) (k : Nat) (v : Convoy) (w : Nat) : List (Nat × Word) :=
  let fa := bits w 40 36
  let fb := bits w 35 31
  let sparse := bitAt w 28
  let scaled := bitAt w 18
  let a := d.arr k
  let swap := bitAt w 30
  let all := v.allLanes w
  let nb := arrayK fb sparse / 32
  let vs := bits w 25 19
  let fmtOk := (d.fmtDesc fa).used && d.stageOk fb sparse scaled && pairOk fb fa &&
    (!scaled || (d.fmtDesc fa).scaling != 0)
  [causeIf (bits w 47 41 % 8 != 0) 3 all,
   causeIf (bits w 47 41 + (if sparse then 16 else 8) > 128) 2 (v.effective w),
   causeIf (scaled && nb > 4 && vs % 2 != 0) 3 all,
   causeIf (scaled && nb > 4 && vs + 2 > 128) 2 (v.effective w),
   causeIf (((d.convoyWg k v).tile (bits w 50 48)).isNone) 0x22 all,
   causeIf (!fmtOk) 0x25 all,
   causeIf (a.empty swap) 0x24 all,
   causeIf (!a.empty swap && !(match (if swap then a.stage else none) with
      | some b => b.matches fb sparse scaled
      | none => (a.used swap).matches fb sparse scaled)) 0x23 all,
   causeIf (d.flag F.ARR_FAULT_STATUS_faulted k) 0x20 all]

/-- R112: the fields of an MMA. -/
def mmaForm (w : Nat) : Bool := onlyUses w (fbits 50 26 ||| fbits 18 12 ||| (if bitAt w 18 then fbits 25 19 else 0))

/-- R224: could the MMA divert. -/
def Dev.mayDivert (d : Dev) (l : LaunchInfo) (v : Convoy) (fb : Nat) : Bool :=
  let f := d.fmtDesc fb
  l.policy == 2 && fb ≥ 5 && fb != 10 && (f.satThr != 0 || f.ufThr != 0) && f.detourFmt != fb && !v.detouring && !v.inHandler

/-- R175: does the checksum row run, the count being the MMA's. -/
def Dev.checksumRow (d : Dev) (k w n : Nat) : Bool :=
  bitAt w 26 || (match d.fld F.ARR_CTRL_ckrow_rate k with | 1 => true | 2 => n % 8 == 0 | 3 => n % 64 == 0 | _ => false)

def matMma (k n w : Nat) (d : Dev) (v : Convoy) : Exec Dev :=
  let fb := bits w 35 31
  let sparse := bitAt w 28
  let swap := bitAt w 30
  v.legal w (mmaForm w) <|
  raising (d.mmaCauses k v w) <|
  match (d.convoyWg k v).tile (bits w 50 48) with
  | none => .error (0x22, v.allLanes w)
  | some t =>
    let e := v.effective w
    let a := d.arr k
    let a : ArrayState := if swap then { a with front := a.back, back := a.front, stagedSinceSwap := false } else a
    let d := (d.setArr k a).count F.ARR_MMA_COUNT_count k
    let l := d.launchOf k v
    let row (t : Nat) : Nat := if e.getLsbD t then v.aRow w sparse t else 0
    let sc (t : Nat) : Nat := if bitAt w 18 then v.vrs (bits w 25 19) t (if arrayK fb sparse / 32 > 4 then 2 else 1) else 0
    let rec_ : MmaRec :=
      { slot := n, wg := v.wg, pc := v.pc, word := BitVec.ofNat 64 w, eff := e, tile := t,
        a := (List.range 64).map row, aScales := (List.range 64).map sc, buf := a.front, usedBack := swap,
        ckRow := d.checksumRow k w (d.fld F.ARR_MMA_COUNT_count k), old := a.tileOf t, launch := l,
        mayDivert := d.mayDivert l v fb }
    ((d.setArr k { a with inflight := a.inflight ++ [rec_] }).coreEvent k 5).retire k n v

/-- R158: the conditions on the array; the causes of an MMA come before its wait for them. -/
def Dev.mmaEligible (d : Dev) (k : Nat) (v : Convoy) (w : Nat) : Bool :=
  let a := d.arr k
  let swap := bitAt w 30
  let tileReady := match (d.convoyWg k v).tile (bits w 50 48) with | some t => d.tileFree k t | none => true
  a.replay.isNone && a.cancelled.isEmpty && a.inflight.length < 2 && d.ownsArray k v && tileReady &&
    (a.empty swap || (if swap then a.stage.isNone && a.back.filled else true))

def execMma (k n : Nat) (w : BitVec 56) (s : State) : Host.Outcome State Fault Refusal :=
  let x := iword 0xd1 w
  s.run (convoyOk k n) fun d =>
    d.issue k n .matrix (fun d v => d.lift (matMma k n x d v)) fun d v => d.mmaEligible k v x

/-! ### Completion, sentinels and the decision (R216 to R223) -/

/-- The rows of an MMA written to its tile. -/
def ArrayState.writeRows (a : ArrayState) (m : MmaRec) (ds : List (List FV)) : ArrayState :=
  let w := m.word.toNat
  let acc := bitAt w 29
  let neg := bitAt w 27
  let sh := bits w 17 12
  (lanesOf m.eff).foldl (fun a r =>
    let row := ds.getD r []
    (List.range 32).foldl (fun a c =>
      let x := row.getD c .nan
      let x := FV.unsignedZero (if neg then x.neg else x)
      let x : FV := match x with | .fin s i e => .fin s i (e - sh) | x => x
      let old := if acc then fmtF32.decode (a.elem m.tile r c) else .fin false 0 0
      a.setElem m.tile r c (fmtF32.round .rne (old.add .rne x))) a) a

/-- R216: the sentinel counts of an MMA and the number of elements examined: sat, uf, E. -/
def Dev.sentinels (d : Dev) (m : MmaRec) : Nat × Nat × Nat :=
  let w := m.word.toNat
  let fa := bits w 40 36
  let fb := bits w 35 31
  let k := arrayK fb (bitAt w 28)
  let wa := fmtWidth fa
  let rows := lanesOf m.eff
  let as := rows.flatMap fun r => (List.range k).map fun i => bits (m.a.getD r 0) (wa * (i + 1) - 1) (wa * i)
  let bs := (List.range 32).flatMap fun c => (List.range m.buf.count).map fun e => m.buf.stored e c
  let cb := (d.fmtDesc fa).codebook
  ((as.filter (isSatCode fa cb)).length + (bs.filter (isSatCode fb m.buf.codebook)).length,
   (as.filter (isUfCode fa)).length + (bs.filter (isUfCode fb)).length,
   rows.length * k + 32 * m.buf.count)

/-- R219: the counts added to the tile's status word. -/
def ArrayState.addCounts (a : ArrayState) (t sat uf : Nat) : ArrayState :=
  let x := a.stat t
  a.setStat t (setBits (setBits x 31 16 (satAdd 16 (bits x 31 16) sat)) 47 32 (satAdd 16 (bits x 47 32) uf))

/-- R220: the tests of an MMA's own counts: sat, uf. -/
def Dev.crosses (d : Dev) (fb : Nat) (c : Nat × Nat × Nat) : Bool × Bool :=
  let f := d.fmtDesc fb
  let on := fb ≥ 5 && fb != 10
  (on && f.satThr != 0 && c.1 * 65536 > f.satThr * c.2.2, on && f.ufThr != 0 && c.2.1 * 65536 > f.ufThr * c.2.2)

/-- The convoy of an MMA, while it runs on. -/
def Dev.mmaConvoy (d : Dev) (k : Nat) (m : MmaRec) : Option Convoy :=
  match d.convoy? k m.slot with
  | some v => if v.wg == m.wg && v.state != .aborting then some v else none
  | none => none

/-- An aborting launch's workgroups leave once nothing of them is in flight (R98). -/
def Dev.mmaLeft (d : Dev) (m : MmaRec) : Dev := d.sweepWgs m.launch.part m.launch.asid m.launch.queue m.launch.seq

/-- R223: the decision at an MMA's completion. A diversion begins here and is carried out by DIVERSION. -/
def Dev.decide (d : Dev) (k : Nat) (m : MmaRec) : Dev :=
  let fb := bits m.word.toNat 35 31
  let c := d.sentinels m
  let d := d.setArr k ((d.arr k).addCounts m.tile c.1 c.2.1)
  let x := d.crosses fb c
  if !(x.1 || x.2) || m.launch.policy == 0 then d
  else
    let l := m.launch
    let diverts := m.mayDivert && l.detourEntry != 0 && (d.mmaConvoy k m).isSome
    let d := d.setArr k ((d.arr k).setStatBit m.tile 2 true)
    let info := l.layer * 2 ^ 48 + l.op * 2 ^ 32 + l.ctxTag * 2 ^ 20 + m.slot * 2 ^ 16 +
      (if diverts then 2 else 1) * 2 ^ 14 + m.tile * 2 ^ 11 + fb * 2 ^ 6 + b2n x.2 * 2 ^ 5 + b2n x.1 * 2 ^ 4
    let d := (d.setReg .ARR_DETOUR_INFO k info).errEvent (d.clusterPart (coreCluster k)) 8
    if diverts then
      match d.mmaConvoy k m with
      | some v => d.setConvoy k m.slot { v with divert := some ⟨m.pc, m.tile, m.old, m.eff⟩ }
      | none => d
    else d.count F.ARR_FLAG_COUNT_count k

/-- Swaps undone or made again: the buffers change places, and with them the STAGE that fills one (R176). -/
def ArrayState.toggle (a : ArrayState) (l : List MmaRec) : ArrayState :=
  if (l.filter (·.usedBack)).length % 2 = 1 then
    { a with front := a.back, back := a.front, stageHeld := if a.stage.isSome then !a.stageHeld else a.stageHeld }
  else a

/-- A disturbance is a bit of a result of a row, column 32 being the checksum column (R174). -/
def disturbOk (l : List (Nat × Nat × Nat)) : Bool := l.all fun x => x.1 < 64 && x.2.1 ≤ 32 && x.2.2 < 32

/-- An MMA in flight completes, `dist` being the disturbances its results took (R160, R174 to R176, R223). -/
def execMmaComplete (k : Nat) (dist : List (Nat × Nat × Nat)) (s : State) : Host.Outcome State Fault Refusal :=
  s.run (coreOk k && disturbOk dist) fun d =>
    match (d.arr k).inflight with
    | [] => d
    | m :: rest =>
      let inj := d.injection k
      let dist := dist ++ inj
      let d := if !inj.isEmpty && !d.flag F.ARR_INJECT_sticky k then d.setFld F.ARR_INJECT_arm k 0 else d
      let good := d.products m
      let got := disturb good dist
      let rows := badRows good got dist
      let cols := if m.ckRow then badCols good got dist else []
      let a := (d.arr k).writeRows m got
      if rows.isEmpty && cols.isEmpty then
        ((d.setArr k { a with inflight := rest }).decide k m).mmaLeft m
      else
        let l := m.launch
        let info := l.layer * 2 ^ 48 + l.op * 2 ^ 32 + l.ctxTag * 2 ^ 20 + m.slot * 2 ^ 16 + m.tile * 2 ^ 12 +
          bits m.word.toNat 35 31 * 2 ^ 7 + rows.headD 0
        let a := (a.setStatBit m.tile 0 true).toggle rest
        let m := { m with old := (d.arr k).tileOf m.tile, injected := !inj.isEmpty }
        (d.setArr k { a with inflight := [], cancelled := rest, replay := some m }).setReg .ARR_FAULT_INFO k info

/-- R176: the replay of a failed MMA issues in the core cycle after it completes. -/
def execMmaReplay (k : Nat) (s : State) : Host.Outcome State Fault Refusal :=
  s.run (coreOk k) fun d =>
    let a := d.arr k
    match a.replay with
    | some m => if m.replay then d else d.setArr k { a with replay := some { m with replay := true } }
    | none => d

/-- An array fault reaches a convoy: at once at an instruction boundary, else at its next one (R178). -/
def Dev.arrayFault (d : Dev) (k : Nat) (m : MmaRec) : Dev :=
  match d.mmaConvoy k m with
  | none => d
  | some v =>
    let lanes := if m.eff = 0 then v.active else m.eff
    if v.state == .running && v.stall.isNone && v.saveForm == 0 then d.deliverTrap k m.slot 0x20 m.pc lanes
    else if v.pendTrap.isSome then d
    else d.setConvoy k m.slot { v with pendTrap := some ⟨0x20, m.pc, lanes⟩ }

/-- R177: a clean replay. The cancelled MMAs issue again, with their swaps. -/
def Dev.replayClean (d : Dev) (k : Nat) (m : MmaRec) (ds : List (List FV)) : Dev :=
  let a := ((d.arr k).restoreRows m.tile m.old m.eff).writeRows m ds
  let a := (a.setStatBit m.tile 0 false).toggle a.cancelled
  let l := m.launch
  let d := d.setArr k { a with replay := none, inflight := a.cancelled, cancelled := [] }
  let d := (d.count F.ARR_TRANSIENT_COUNT_count k).errEvent (d.clusterPart (coreCluster k)) 6
  ((d.trace l.part 10 (coreCluster k) (k % 8) m.slot l.tag l.seq 0).decide k m).mmaLeft m

/-- R178, R179: a persistent fault. -/
def Dev.replayFailed (d : Dev) (k : Nat) (m : MmaRec) (rows cols : List Nat) (injected : Bool) : Dev :=
  let l := m.launch
  let part := d.clusterPart (coreCluster k)
  let a := (d.arr k).restoreRows m.tile m.old m.eff
  let c := d.sentinels m
  let cancelled := a.cancelled
  let d := d.setArr k { (a.addCounts m.tile c.1 c.2.1) with replay := none, cancelled := [] }
  let (located, column) : Nat × Nat := match cols with
    | [x] => (1, x)
    | [] => if rows.isEmpty then (3, 0) else (2, 0)
    | _ => (3, 0)
  let d := (d.count F.ARR_PERSIST_COUNT_count k).errEvent part 7
  let d := (d.setFld F.ARR_FAULT_STATUS_faulted k 1).setFld F.ARR_FAULT_STATUS_injected k (b2n injected)
  let d := (d.setFld F.ARR_FAULT_STATUS_located k located).setFld F.ARR_FAULT_STATUS_column k column
  let room := !d.flag F.ARR_SPARE_MAP_spare0_in k || !d.flag F.ARR_SPARE_MAP_spare1_in k
  let d :=
    if injected then d
    else if located ≤ 2 && room then
      (d.setFld F.ARR_FAULT_STATUS_repair_pending k 1).trigger
        { kind := 2, part := part.getD 0xff, reason := 3, sub := (if located = 1 then column else 32), unit := coreCluster k,
          slot := k % 8 }
    else d.trigger { kind := 1, part := part.getD 0xff, reason := 3, unit := coreCluster k, slot := k % 8 }
  let er : ErrRec :=
    { class_ := 2, source := some 1, unit := coreCluster k, part := l.part, code := some 0x20, detail := m.pc.toNat,
      ctxTag := l.ctxTag, layer := l.layer, op := l.op }
  let d := d.err er
  let d := d.trace l.part 10 (coreCluster k) (k % 8) m.slot l.tag l.seq 1
  let d := d.each (m :: cancelled) fun d m => d.arrayFault k m
  d.each (m :: cancelled) fun d m => d.mmaLeft m

/-- The replay completes, `dist` being the disturbances it took (R176 to R180). -/
def execReplayComplete (k : Nat) (dist : List (Nat × Nat × Nat)) (s : State) : Host.Outcome State Fault Refusal :=
  s.run (coreOk k && disturbOk dist) fun d =>
    match (d.arr k).replay with
    | none => d
    | some m =>
      if !m.replay then d
      else
        let inj := if d.flag F.ARR_INJECT_sticky k && m.injected then d.injection k else []
        let dist := dist ++ inj
        let good := d.products m
        let got := disturb good dist
        let rows := badRows good got dist
        let cols := badCols good got dist
        if rows.isEmpty && cols.isEmpty then d.replayClean k m got
        else d.replayFailed k m rows cols !inj.isEmpty

/-- R225: a diversion that is pending is carried out, or gives way to the trap of an earlier instruction. -/
def execDiversion (k n : Nat) (s : State) : Host.Outcome State Fault Refusal :=
  s.run (convoyOk k n) fun d =>
    match d.convoy? k n with
    | none => d
    | some v =>
      match v.divert with
      | none => d
      | some x =>
        let l := d.launchOf k v
        match v.pendTrap with
        | some t =>
          let d := (d.setFld F.ARR_DETOUR_INFO_outcome k 3).count F.ARR_FLAG_COUNT_count k
          (d.setConvoy k n { v with divert := none }).deliverTrap k n t.cause t.pc t.lanes
        | none =>
          if v.saveForm != 0 || v.state == .aborting then d
          else
            let a := (d.arr k).restoreRows x.tile x.old x.rows
            let a := (a.setStatBit x.tile 2 false).setStatBit x.tile 1 true
            let st : CvyState := if v.haltReq && v.state == .running then .halted else v.state
            let v := ((v.setUr 62 x.pc.toNat).setUr 63 (x.pc.toNat + 8))
            let v : Convoy := { v with pc := l.detourEntry, detouring := true, divert := none, state := st,
                                       haltReq := v.haltReq && st != .halted }
            let d := ((d.setArr k a).setConvoy k n v).count F.ARR_DETOUR_COUNT_count k
            d.trace l.part 9 (coreCluster k) (k % 8) n l.tag l.seq x.pc.toNat

/-! ### Tile instructions (R142 to R144, R162) -/

/-- A tile instruction: its fields, what it needs of its register group, and its effect on the convoy and the array. It waits
until its tile is free. -/
def runTile (op used : Nat) (ok : Nat → Bool) (causes : Nat → Dev → Convoy → Nat → List (Nat × Word))
    (f : Nat → Convoy → ArrayState → Nat → Convoy × ArrayState) (k n : Nat) (w : BitVec 56) (s : State) :
    Host.Outcome State Fault Refusal :=
  let x := iword op w
  let tile (d : Dev) (v : Convoy) : Option Nat := (d.convoyWg k v).tile (bits x 43 41)
  s.run (convoyOk k n) fun d => d.issue k n .matrix (fun d v => d.lift (
    v.legal x (onlyUses x used && ok x) <|
    match tile d v with
    | none => raising (causeIf true 0x22 (v.allLanes x) :: causes x d v 8) (.error (0x22, v.allLanes x))
    | some t => raising (causes x d v t) (
        let r := f x v (d.arr k) t
        (d.setArr k r.2).retire k n r.1)))
    fun d v => match tile d v with | some t => d.tileFree k t | none => true

/-- The columns of a TRD or TWR. -/
def tileCols (x : Nat) : Nat := bits x 35 31 + 1
def tileColsOk (x : Nat) : Bool := bits x 40 36 + bits x 35 31 ≤ 31

/-- The causes of a register group without alignment. -/
def tileGroup (v : Convoy) (x : Nat) (write : Bool) : List (Nat × Word) :=
  [causeIf (bits x 50 44 + tileCols x > 128) 2 (v.effective x),
   causeIf (write && bits x 50 44 + tileCols x > v.vRegs) 2 (v.effective x)]

def execTrd (k n : Nat) (w : BitVec 56) (s : State) : Host.Outcome State Fault Refusal :=
  runTile 0xd4 (fbits 50 31) tileColsOk
    (fun x d v t => causeIf (bitAt ((d.arr k).stat t) 0) 0x21 (v.allLanes x) :: tileGroup v x true)
    (fun x v a t => ((lanesOf (v.effective x)).foldl (fun v r =>
      (List.range (tileCols x)).foldl (fun v i => v.setVr (bits x 50 44 + i) r (a.elem t r (bits x 40 36 + i))) v) v, a)) k n w s

def execTwr (k n : Nat) (w : BitVec 56) (s : State) : Host.Outcome State Fault Refusal :=
  runTile 0xd5 (fbits 50 31) tileColsOk (fun x _ v _ => tileGroup v x false)
    (fun x v a t => (v, (lanesOf (v.effective x)).foldl (fun a r =>
      (List.range (tileCols x)).foldl (fun a i => a.setElem t r (bits x 40 36 + i) (v.vr (bits x 50 44 + i) r)) a) a)) k n w s

def execTzero (k n : Nat) (w : BitVec 56) (s : State) : Host.Outcome State Fault Refusal :=
  runTile 0xd6 (fbits 43 41) (fun _ => true) (fun _ _ _ _ => [])
    (fun _ v a t => (v, (a.restoreRows t [] (BitVec.ofNat 64 (2 ^ 64 - 1))).setStat t 0)) k n w s

def execTstat (k n : Nat) (w : BitVec 56) (s : State) : Host.Outcome State Fault Refusal :=
  runTile 0xd7 (fbits 43 41 ||| fbits 30 25) (fun _ => true) (fun _ _ _ _ => [])
    (fun x v a t => (v.setUr (bits x 30 25) (a.stat t), a)) k n w s

end Sys2Proof.Machine
end

