-- ==== Sys2Proof/Machine/Placement.lean ====
section
/-! DEFINITION. Placing workgroups on cores (R72 to R77, R451), and the debugger's registers of a core (R95, R100 to
R103). -/

namespace Sys2Proof.Machine

/-! ### Room on a core (R73) -/

/-- The local store's size in bytes (R305). -/
def Dev.localSize (d : Dev) (k : Nat) : Nat := d.fld F.CVY_L1_CONFIG_local_kib k * 1024

def LaunchInfo.threads (l : LaunchInfo) : Nat := l.wg.1 * l.wg.2.1 * l.wg.2.2
/-- R72: the convoys of a workgroup. -/
def LaunchInfo.convoys (l : LaunchInfo) : Nat := (l.threads + 63) / 64

/-- Register units in use. -/
def Core.units (c : Core) : Nat := c.convoys.foldl (fun n x => n + x.2.vRegs) 0
def Core.localUsed (c : Core) : Nat := c.wgs.foldl (fun n x => n + x.2.launch.localBytes) 0
/-- Physical tiles reserved, as a mask. -/
def Core.tileMask (c : Core) : Nat := c.wgs.foldl (fun m x => m ||| x.2.tiles) 0

/-- May the core take a workgroup of the launch (R73, R178): it is in service, and what is left suffices. -/
def Dev.coreFits (d : Dev) (k : Nat) (l : LaunchInfo) : Bool :=
  let c := d.core k
  !d.sys.coreOut.contains k && d.fld F.PWR_CLUSTER_STATUS_state (coreCluster k) == 0 &&
    c.convoys.length + l.convoys ≤ 16 && c.units + l.convoys * l.vRegs ≤ 1024 &&
    c.localUsed + l.localBytes ≤ d.localSize k && popCount c.tileMask 8 + l.tiles ≤ 8 &&
    (l.tiles = 0 || !d.flag F.ARR_FAULT_STATUS_faulted k)

/-- The lowest number below `n` that a list does not hold. -/
def lowestFree (used : List Nat) (n : Nat) : Nat := ((List.range n).find? fun i => !used.contains i).getD 0
/-- The `n` lowest convoy slots that are free. -/
def Core.freeSlots (c : Core) (n : Nat) : List Nat :=
  ((List.range 16).filter fun i => (NMap.find? c.convoys i).isNone).take n

/-- Where a reservation of `n` bytes starts: the lowest place clear of the others. Places are names for storage that is
never fragmented (R73), so one may lie past the store's end (log entry 29). -/
def Core.localPlace (c : Core) (n : Nat) : Nat :=
  let rs := c.wgs.map fun x => (x.2.localOff, x.2.launch.localBytes)
  let clear (a : Nat) : Bool := rs.all fun r => a + n ≤ r.1 || r.1 + r.2 ≤ a
  (minBy id ((0 :: rs.map fun r => r.1 + r.2).filter clear)).getD 0

/-- The `t` lowest-numbered free tiles (R166). -/
def Core.freeTiles (c : Core) (t : Nat) : Nat :=
  listMask (((List.range 8).filter fun i => !bitAt c.tileMask i).take t)

/-! ### Placement -/

/-- The workgroup number of a launch's coordinates (R450). -/
def LaunchInfo.coordOf (l : LaunchInfo) (no : Nat) : Nat × Nat × Nat :=
  (no % l.grid.1, no / l.grid.1 % l.grid.2.1, no / (l.grid.1 * l.grid.2.1))

/-- R559: convoys placed while the package is frozen halt. -/
def Dev.freezeHalts (d : Dev) (p : Nat) : Bool := d.frozen && bitAt (d.fld F.DBG_FREEZE_CTRL_halt_mask 0) p

/-- R75, R77: convoy `i` of a workgroup at its start. -/
def startConvoy (l : LaunchInfo) (w i : Nat) (halted : Bool) : Convoy :=
  let lanes := min 64 (l.threads - 64 * i)
  let m := BitVec.ofNat 64 (2 ^ lanes - 1)
  { wg := w, index := i, pc := l.entry, active := m, live := m, vRegs := l.vRegs, u := NMap.put (α := Word) [] 0 l.args 0,
    state := if halted then .halted else .running }

/-- A workgroup put on a core: its resources reserved, its local store and tiles cleared (R166, R306), its convoys
started. -/
def Dev.placeWg (d : Dev) (k : Nat) (l : LaunchInfo) (no chunk : Nat) : Dev :=
  let c := d.core k
  let w := lowestFree c.wgs.keys 16
  let off := c.localPlace l.localBytes
  let tiles := c.freeTiles l.tiles
  let x : WG :=
    { launch := l, coord := l.coordOf no, chunkNo := chunk, count := l.convoys, localOff := off, tiles := tiles }
  let halted := d.flag F.CVY_DBG_CTRL_halt_on_launch k || d.freezeHalts l.part
  let convoys := ((c.freeSlots l.convoys).zipIdx).foldl (fun m y =>
    NMap.insert m y.1 (startConvoy l w y.2 halted)) c.convoys
  let arr := (maskList tiles 8).foldl (fun (a : ArrayState) t =>
    (a.restoreRows t [] (BitVec.ofNat 64 (2 ^ 64 - 1))).setStat t 0) c.arr
  let kept := c.localMem.filter fun y => y.1 < off || off + l.localBytes ≤ y.1
  let d := d.setCore k { c with wgs := NMap.insert c.wgs w x, convoys := convoys, arr := arr, localMem := kept }
  let d := { d with tag := some l.tag }.clusterEvent (coreCluster k) 0x4f
  let d := { d with tag := none }
  (d.ungate k).trace l.part 5 (coreCluster k) (k % 8) 0xff l.tag l.seq no

/-- Does a context hold its partition's slice, with no switch, save or restore under way (R447, R449). -/
def Dev.sliceRuns (d : Dev) (p asid : Nat) : Bool :=
  d.flag F.PRT_STATUS_holder_valid p && d.fld F.PRT_STATUS_holder p == asid && d.fld F.PRT_STATUS_phase p == 1

/-- A launch's chunks on a cluster's queue. -/
def Launch.queueOf (y : Launch) (c : Nat) : List Chunk := NMap.getD y.queues c []
def Launch.setQueue (y : Launch) (c : Nat) (q : List Chunk) : Launch := { y with queues := NMap.put y.queues c q [] }
def SavedWg.ofLaunch (y : Launch) (x : SavedWg) : Bool := y.info.isCmd x.asid x.queue x.seq

/-- R451: the launch a cluster places from next: the earliest-granted that has a chunk on its queue, no saved workgroup,
and a next workgroup that some core of the cluster has room for. -/
def Dev.nextLaunch (d : Dev) (p c : Nat) : Option Launch :=
  let s := d.pstate p
  s.launches.find? fun y =>
    y.stopped.isNone && d.sliceRuns p y.info.asid && !(y.queueOf c).isEmpty && !s.saved.any (SavedWg.ofLaunch y) &&
      (List.range 8).any fun i => d.coreFits (c * 8 + i) y.info

/-- The launch changed. -/
def Dev.onLaunch (d : Dev) (p : Nat) (i : LaunchInfo) (g : Launch → Launch) : Dev :=
  let s := d.pstate p
  d.setPstate p
    { s with launches := s.launches.map fun y => if y.info.isCmd i.asid i.queue i.seq then g y else y }

/-- A workgroup of the cluster's next launch placed on core `k`, if it has room; the first on a core for its command comes
after an acquire at SYSTEM scope (R353). -/
def execWorkgroupPlacement (k : Nat) (s : State) : Host.Outcome State Fault Refusal :=
  s.run (coreOk k) fun d =>
    let c := coreCluster k
    match d.clusterPart c with
    | none => d
    | some p =>
      match d.nextLaunch p c with
      | none => d
      | some y =>
        match y.queueOf c with
        | [] => d
        | x :: rest =>
          if !d.coreFits k y.info then d
          else
            let l := y.info
            let no := x.no * y.chunkSize + x.begun
            let d := if x.begun = 0 then d.trace p 3 c 0xff 0xff l.tag l.seq x.no else d
            let d := if y.coresRun.contains k then d else d.acquire k 4
            let last := x.begun + 1 == y.chunkSize || no + 1 == y.total
            let q := if last then rest else { x with begun := x.begun + 1 } :: rest
            (d.onLaunch p l fun y => { y.setQueue c q with coresRun := insSorted k y.coresRun }).placeWg k l no x.no

/-! ### Halting, resuming and stepping (R100, R102) -/

def CvyState.isHalted (s : CvyState) : Bool := s == .halted || s == .haltedOnTrap

/-- A halt request reaches a convoy. -/
def Dev.haltConvoy (d : Dev) (k n : Nat) : Dev :=
  match d.convoy? k n with
  | none => d
  | some v =>
    match v.state with
    | .running => d.setConvoy k n { v with haltReq := true }
    | .sleeping =>
      let d := d.setConvoy k n { v with state := .halted, resume := .running, wait := none }
      match v.wait with
      | some w => d.dropSub k w.handle.toNat
      | none => d
    | .arrived => d.setConvoy k n { v with state := .halted, resume := .arrived }
    | .held => d.setConvoy k n { v with state := .halted, resume := .held }
    | .halted => d
    | .haltedOnTrap => d
    | .aborting => d

/-- The slots of a mask. -/
def Dev.eachSlot (d : Dev) (m : BitVec 16) (g : Dev → Nat → Dev) : Dev := d.each (maskList m.toNat 16) g

def execCvyDbgHalt (k : Nat) (slots : BitVec 16) (s : State) : Host.Outcome State Fault Refusal :=
  s.runBar (coreOk k) fun d => (d.touchCore k).eachSlot slots fun d n => d.haltConvoy k n

/-- A convoy that a halt request stopped, with nothing of it in flight, reads halted; an array fault that waits is
delivered first (R99). -/
def execConvoyHalted (k n : Nat) (s : State) : Host.Outcome State Fault Refusal :=
  s.run (convoyOk k n) fun d =>
    match d.convoy? k n with
    | none => d
    | some v =>
      if !(v.state == .running && v.haltReq && !v.stepping && v.stall.isNone && v.divert.isNone && !d.inFlight k n) then d
      else
        let d := match v.pendTrap with | some t => d.deliverTrap k n t.cause t.pc t.lanes | none => d
        match d.convoy? k n with
        | some v =>
          if v.state == .running then d.setConvoy k n { v with state := .halted, resume := .running, haltReq := false } else d
        | none => d

/-- A halted convoy goes back to the state it was in. -/
def Dev.resumeConvoy (d : Dev) (k n : Nat) : Dev :=
  match d.convoy? k n with
  | some v =>
    if v.state.isHalted then
      d.setConvoy k n { v with state := v.resume, resume := .running, haltReq := false, stepping := false }
    else d
  | none => d

def execCvyDbgResume (k : Nat) (slots : BitVec 16) (s : State) : Host.Outcome State Fault Refusal :=
  s.runBar (coreOk k) fun d => (d.touchCore k).eachSlot slots fun d n => d.resumeConvoy k n

/-- A halted convoy may issue one instruction. -/
def Dev.stepConvoy (d : Dev) (k n : Nat) : Dev :=
  match d.convoy? k n with
  | some v =>
    if v.state.isHalted then
      d.setConvoy k n { v with state := v.resume, resume := .running, haltReq := true, stepping := true }
    else d
  | none => d

def execCvyDbgStep (k : Nat) (slots : BitVec 16) (s : State) : Host.Outcome State Fault Refusal :=
  s.runBar (coreOk k) fun d => (d.touchCore k).eachSlot slots fun d n => d.stepConvoy k n

/-! ### Registers of a halted convoy (R101) -/

/-- The mask-stack entry counted from the bottom, as a position in the list. -/
def Convoy.stackPos (v : Convoy) (i : Nat) : Nat := v.stack.length - 1 - i

/-- A word of a mask-stack entry. -/
def StackEntry.word (e : StackEntry) (i : Nat) : Nat :=
  match i with
  | 0 => e.mask.toNat | 1 => e.path.toNat | 2 => e.junction.toNat | _ => b2n e.rejoin
def StackEntry.setWord (e : StackEntry) (i x : Nat) : StackEntry :=
  match i with
  | 0 => { e with mask := BitVec.ofNat 64 x } | 1 => { e with path := BitVec.ofNat 64 x }
  | 2 => { e with junction := BitVec.ofNat 64 x } | _ => { e with rejoin := x % 2 == 1 }

/-- What CVY_REG_SEL selects of a convoy; none where the index is out of range. -/
def Convoy.readSel (v : Convoy) (sel : Nat) : Option Nat :=
  let lane := bits sel 21 16
  let i := bits sel 6 0
  match bits sel 23 22 with
  | 0 => some (v.vr i lane)
  | 1 => if i < 64 then some (v.ur i) else none
  | 2 => some (listMask ((List.range 8).filter fun p => (v.pr p).getLsbD lane))
  | _ => if i < v.stack.length then (v.stack[v.stackPos i]?).map fun e => e.word (bits sel 15 14) else none

def Convoy.writeSel (v : Convoy) (sel x : Nat) : Option Convoy :=
  let lane := bits sel 21 16
  let i := bits sel 6 0
  match bits sel 23 22 with
  | 0 => if i < v.vRegs then some (v.setVr i lane x) else none
  | 1 => if i < 64 then some (v.setUr i x) else none
  | 2 => some ((List.range 8).foldl (fun v p =>
      v.setPr p (if bitAt x p then v.pr p ||| maskOf [lane] else v.pr p &&& ~~~maskOf [lane])) v)
  | _ =>
    if i < v.stack.length && !(bits sel 15 14 == 3 && x > 1) then
      some { v with stack := v.stack.modify (v.stackPos i) fun e => e.setWord (bits sel 15 14) x }
    else none

/-- An access through CVY_REG_SEL with its fields as written: refused for a convoy that is not halted. -/
def Dev.regAccess (d : Dev) (k sel : Nat) : Dev :=
  let d := d.setReg .CVY_REG_SEL k (bits sel 30 30 * 2 ^ 30 + bits sel 27 14 * 2 ^ 14 + bits sel 6 0)
  let n := bits sel 27 24
  let refuse := d.setFld F.CVY_REG_SEL_error k 1
  match d.convoy? k n with
  | none => refuse
  | some v =>
    if !v.state.isHalted then refuse
    else if bitAt sel 30 then
      match v.writeSel sel (d.reg .CVY_REG_DATA k) with
      | some v => d.setConvoy k n v
      | none => refuse
    else
      match v.readSel sel with
      | some x => d.setReg .CVY_REG_DATA k x
      | none => refuse

def execCvyRegRead (k : Nat) (sel : BitVec 30) (s : State) : Host.Outcome State Fault Refusal :=
  s.runBar (coreOk k) fun d => (d.touchCore k).regAccess k sel.toNat
def execCvyRegWrite (k : Nat) (sel : BitVec 30) (s : State) : Host.Outcome State Fault Refusal :=
  s.runBar (coreOk k) fun d => (d.touchCore k).regAccess k (sel.toNat + 2 ^ 30)

/-- R83. -/
def Convoy.masksOk (v : Convoy) : Bool :=
  v.active &&& ~~~v.live == 0 && v.parked &&& ~~~v.live == 0 && v.active &&& v.parked == 0

/-- The PC (0), active (1), live (2) or parked (3) mask of a halted convoy written, its arrival looked at again under R90. -/
def Dev.maskWrite (d : Dev) (k n which : Nat) (x : Word) : Dev :=
  match d.convoy? k n with
  | none => d
  | some v =>
    let v' : Convoy := match which with
      | 0 => { v with pc := x } | 1 => { v with active := x } | 2 => { v with live := x } | _ => { v with parked := x }
    if !v.state.isHalted || !v'.masksOk then d.setFld F.CVY_REG_SEL_error k 1
    else if which = 0 then d.setConvoy k n v'
    else
      let r : CvyState :=
        if v'.parked != 0 && v'.parked == v'.live then .arrived
        else if v.resume == .arrived || v.resume == .held then (if v'.active != 0 || v'.parked = 0 then .running else .held)
        else v.resume
      let d := d.setConvoy k n { v' with resume := r }
      let d := if r == .arrived then d.noteArrival k v.wg v.barIdx else d
      d.evalBarrier k v.wg v.barIdx

def execCvyMaskWrite (k n which : Nat) (x : Word) (s : State) : Host.Outcome State Fault Refusal :=
  s.runBar (convoyOk k n && which < 4) fun d => (d.touchCore k).maskWrite k n which x

/-- R95: barriers of a workgroup slot released by hand. -/
def Dev.barRelease (d : Dev) (k w : Nat) (m : BitVec 8) : Dev :=
  d.each (maskList m.toNat 8) fun d b =>
    if (d.wgConvoys k w).any fun x => x.2.parked != 0 && x.2.barIdx == b then d.releaseBarrier k w b else d

def execCvyBarRelease (k w : Nat) (m : BitVec 8) (s : State) : Host.Outcome State Fault Refusal :=
  s.runBar (convoyOk k w) fun d => (d.touchCore k).barRelease k w m

end Sys2Proof.Machine
end

