-- ==== Sys2Proof/Machine/Mover.lean ====
section
/-! DEFINITION. The mover's descriptor (R239), its refusals (R240), logical tensors and layouts (R241 to R246), and the
values an operation makes (R247 to R259). -/

namespace Sys2Proof.Machine

/-! ### Fields of the descriptor (R239), of its 1,024 bits as a number -/

/-- `n` bytes at offset `o`. -/
def mB (r o n : Nat) : Nat := bits r (8 * (o + n) - 1) (8 * o)
def mOp (r : Nat) : Nat := mB r 0 1
def mSrcFmt (r : Nat) : Nat := mB r 1 1
def mDstFmt (r : Nat) : Nat := mB r 2 1
def mSrcLay (r : Nat) : Nat := bits (mB r 3 1) 3 0
def mDstLay (r : Nat) : Nat := bits (mB r 3 1) 7 4
def mRnd (r : Nat) : Nat := bits (mB r 4 1) 2 0
def mSat (r : Nat) : Bool := bitAt (mB r 4 1) 3
def mUmark (r : Nat) : Bool := bitAt (mB r 4 1) 4
def mConv (r : Nat) : Nat := mB r 5 1
def mHilo (r : Nat) : Bool := bitAt (mConv r) 6
def mSplit (r : Nat) : Bool := bitAt (mConv r) 5
def mSparse (r : Nat) : Bool := bitAt (mConv r) 4
def mFlags (r : Nat) : Nat := mB r 6 2
def mAxis (r : Nat) : Nat := bits (mFlags r) 13 12
def mMsBytes (r : Nat) : Bool := bitAt (mFlags r) 10
def mMsEn (r : Nat) : Bool := bitAt (mFlags r) 9
def mAux2Space (r : Nat) : Nat := bits (mFlags r) 7 6
def mAuxSpace (r : Nat) : Nat := bits (mFlags r) 5 4
def mDstSpace (r : Nat) : Nat := bits (mFlags r) 3 2
def mSrcSpace (r : Nat) : Nat := bits (mFlags r) 1 0
def mSrc (r : Nat) : Nat := mB r 8 8
def mDst (r : Nat) : Nat := mB r 0x10 8
def mShape (r i : Nat) : Nat := mB r (0x18 + 4 * i) 4
def mSrcStride (r i : Nat) : Int := toSigned 32 (mB r (0x28 + 4 * i) 4)
def mDstStride (r i : Nat) : Int := toSigned 32 (mB r (0x38 + 4 * i) 4)
def mAux (r : Nat) : Nat := mB r 0x48 8
def mAux2 (r : Nat) : Nat := mB r 0x50 8
def mWindow (r : Nat) : Nat := mB r 0x58 4
def mFill (r : Nat) : Nat := mB r 0x5c 4
def mTscale (r : Nat) : Nat := mB r 0x60 4
def mCheck (r : Nat) : Nat := mB r 0x64 4
def mPoly (r : Nat) : Nat := bits (mCheck r) 2 0
def mSide (r : Nat) : Nat := bits (mCheck r) 3 3
def mSeed (r : Nat) : Nat := mB r 0x68 8
def mMs (r : Nat) : Nat := mB r 0x70 8
def mResult (r : Nat) : Nat := mB r 0x78 8

/-- The scaling in force: code 3 takes the format descriptor's. -/
def Dev.scaling (d : Dev) (fmt code : Nat) : Nat := if code = 3 then (d.fmtDesc fmt).scaling else code
def Dev.mDstScal (d : Dev) (r : Nat) : Nat := d.scaling (mDstFmt r) (bits (mConv r) 3 2)
def Dev.mSrcScal (d : Dev) (r : Nat) : Nat := if mOp r = 5 then 0 else d.scaling (mSrcFmt r) (bits (mConv r) 1 0)

/-! ### Sizes and layouts -/

def ceilDiv (a b : Nat) : Nat := (a + b - 1) / b

/-- Coordinates, innermost first. -/
abbrev Coord := Nat × Nat × Nat × Nat
/-- Coordinate `i`, and the coordinates with it replaced. -/
def coordAt (c : Coord) (i : Nat) : Nat := match i with | 0 => c.1 | 1 => c.2.1 | 2 => c.2.2.1 | _ => c.2.2.2
def coordSet (c : Coord) (i x : Nat) : Coord :=
  match i with
  | 0 => (x, c.2) | 1 => (c.1, x, c.2.2) | 2 => (c.1, c.2.1, x, c.2.2.2) | _ => (c.1, c.2.1, c.2.2.1, x)

/-- R241: the logical index, and its inverse. -/
def coordIndex (n c : Coord) : Nat := c.1 + n.1 * (c.2.1 + n.2.1 * (c.2.2.1 + n.2.2.1 * c.2.2.2))
def coordOf (n : Coord) (i : Nat) : Coord :=
  (i % n.1, i / n.1 % n.2.1, i / (n.1 * n.2.1) % n.2.2.1, i / (n.1 * n.2.1 * n.2.2.1))
def coordCount (n : Coord) : Nat := n.1 * n.2.1 * n.2.2.1 * n.2.2.2
/-- The coordinates of a tensor in logical order. -/
def coords (n : Coord) : List Coord := (List.range (coordCount n)).map (coordOf n)

def mShapes (r : Nat) : Coord := (mShape r 0, mShape r 1, mShape r 2, mShape r 3)

/-- The fields of the window word, and OH and OW. -/
def wKh (r : Nat) : Nat := bits (mWindow r) 31 28
def wKw (r : Nat) : Nat := bits (mWindow r) 27 24
def wSh (r : Nat) : Nat := bits (mWindow r) 23 20
def wSw (r : Nat) : Nat := bits (mWindow r) 19 16
def wDh (r : Nat) : Nat := bits (mWindow r) 15 12
def wDw (r : Nat) : Nat := bits (mWindow r) 11 8
def wPt (r : Nat) : Nat := bits (mWindow r) 7 4
def wPl (r : Nat) : Nat := bits (mWindow r) 3 0
def wOh (r : Nat) : Nat := mB r 0x40 4
def wOw (r : Nat) : Nat := mB r 0x44 4
/-- 32 × Cg of a WINDOW's source. -/
def wC32 (r : Nat) : Nat := 32 * ceilDiv (mShape r 2) 32

/-- R247: the sizes of the source and of the destination. -/
def mSrcSizes (r : Nat) : Coord := if mOp r = 3 then coordSet (mShapes r) (mAxis r) (mWindow r) else mShapes r
def mDstSizes (r : Nat) : Coord :=
  match mOp r with
  | 1 => (mShape r 1, mShape r 0, mShape r 2, mShape r 3)
  | 2 => (wKh r * wKw r * wC32 r, mShape r 3 * wOh r * wOw r, 1, 1)
  | 4 => coordSet (mShapes r) (mAxis r) (mWindow r)
  | _ => mShapes r

/-- Bytes of a row chunk of AROWS. -/
def rowChunk (r : Nat) : Nat := if mSparse r then 64 else 32

/-- The bit of an element of width `w` from the base, by layout (R242 to R244). -/
def elemBit (r lay w : Nat) (n : Coord) (stride : Nat → Int) (c : Coord) : Int :=
  match lay with
  | 0 => (w : Int) * (c.1 * stride 0 + c.2.1 * stride 1 + c.2.2.1 * stride 2 + c.2.2.2 * stride 3)
  | 1 => (w * ((((c.2.2.2 * ceilDiv n.2.2.1 32 + c.2.2.1 / 32) * n.2.1 + c.2.1) * n.1 + c.1) * 32 + c.2.2.1 % 32) : Nat)
  | _ =>
    let b := rowChunk r
    let kb := 8 * b / w
    let kt := ceilDiv n.1 kb
    (8 * (((c.2.1 / 64) * kt + c.1 / kb) * 64 * b + (c.2.1 % 64) * b) + (c.1 % kb) * w : Nat)

/-- R245: Ki, S, KT and P of an IMAGE destination. -/
def imgK (r : Nat) : Nat := arrayK (mDstFmt r) (mSparse r)
def imgStrips (r : Nat) : Nat := ceilDiv (mDstSizes r).1 32
def imgBlocks (r : Nat) : Nat := ceilDiv (mDstSizes r).2.1 (imgK r)
def Dev.imgPitch (d : Dev) (r : Nat) : Nat := 64 * ceilDiv (imageBytes (mDstFmt r) (mSparse r) (d.mDstScal r != 0)) 64

/-- The lowest and highest byte, from the base, of a tensor with its padding. -/
def Dev.extent (d : Dev) (r lay w : Nat) (n : Coord) (stride : Nat → Int) : Int × Int :=
  match lay with
  | 0 =>
    let lo (i : Nat) : Int := min 0 (((coordAt n i : Nat) - 1 : Int) * stride i)
    let hi (i : Nat) : Int := max 0 (((coordAt n i : Nat) - 1 : Int) * stride i)
    (((w : Int) * (lo 0 + lo 1 + lo 2 + lo 3)) / 8, ((w : Int) * (hi 0 + hi 1 + hi 2 + hi 3) + w - 1) / 8)
  | 1 => (0, ((w * 32 * n.1 * n.2.1 * ceilDiv n.2.2.1 32 * n.2.2.2 / 8 : Nat) : Int) - 1)
  | 2 => (0, ((ceilDiv n.2.1 64 * ceilDiv n.1 (8 * rowChunk r / w) * 64 * rowChunk r : Nat) : Int) - 1)
  | _ => (0, ((imgStrips r * imgBlocks r * d.imgPitch r : Nat) : Int) - 1)

/-- The blocks of 32 of a tensor, one scale byte each (R197, R255). -/
def scaleCount (lay : Nat) (n : Coord) : Nat :=
  if lay = 1 then n.1 * n.2.1 * ceilDiv n.2.2.1 32 * n.2.2.2 else ceilDiv n.1 32 * n.2.1 * n.2.2.1 * n.2.2.2
/-- The block of an element. -/
def scaleBlock (lay : Nat) (n c : Coord) : Nat :=
  if lay = 1 then ((c.2.2.2 * ceilDiv n.2.2.1 32 + c.2.2.1 / 32) * n.2.1 + c.2.1) * n.1 + c.1
  else (c.2.1 + n.2.1 * (c.2.2.1 + n.2.2.1 * c.2.2.2)) * ceilDiv n.1 32 + c.1 / 32

/-! ### Regions (R263) -/

/-- A region: space, lowest and highest byte, whether the descriptor writes it. -/
structure Region where
  space : Nat
  lo : Int
  hi : Int
  write : Bool
deriving DecidableEq, Repr

def regionAt (space base : Nat) (e : Int × Int) (write : Bool) : Region := ⟨space, base + e.1, base + e.2, write⟩
def regionLen (space base len : Nat) (write : Bool) : Region := ⟨space, base, (base : Int) + len - 1, write⟩

def Dev.srcExtent (d : Dev) (r : Nat) : Int × Int :=
  d.extent r (mSrcLay r) (fmtWidth (mSrcFmt r)) (mSrcSizes r) (mSrcStride r)
def Dev.dstExtent (d : Dev) (r : Nat) : Int × Int :=
  d.extent r (mDstLay r) (fmtWidth (mDstFmt r)) (mDstSizes r) (mDstStride r)

/-- R259: the sizes of a split's index tensor and side images in bytes. -/
def splitIndexBytes (r : Nat) : Nat := 4 * (imgStrips r * ((mDstSizes r).2.1 / 64))
def splitSideBytes (r : Nat) : Nat := imgStrips r * ceilDiv (mDstSizes r).2.1 2048 * 1088

/-- The regions a descriptor has: source, destination, aux, aux2, record. -/
def Dev.regions (d : Dev) (r : Nat) : List Region :=
  let indexed := mOp r = 3 || mOp r = 4
  let src := if mOp r = 5 then [] else [regionAt (mSrcSpace r) (mSrc r) (d.srcExtent r) false]
  let dst := [regionAt (mDstSpace r) (mDst r) (d.dstExtent r) true]
  let aux :=
    if indexed then [regionLen (mAuxSpace r) (mAux r) (4 * coordAt (mShapes r) (mAxis r)) false]
    else if mSplit r then [regionLen (mAuxSpace r) (mAux r) (splitIndexBytes r) true]
    else if d.mSrcScal r != 0 then [regionLen (mAuxSpace r) (mAux r) (scaleCount (mSrcLay r) (mSrcSizes r)) false]
    else []
  let aux2 :=
    if mHilo r then [regionAt (mAux2Space r) (mAux2 r) (d.dstExtent r) true]
    else if mSplit r then [regionLen (mAux2Space r) (mAux2 r) (splitSideBytes r) true]
    else if d.mDstScal r != 0 && mDstLay r != 3 then
      [regionLen (mAux2Space r) (mAux2 r) (scaleCount (mDstLay r) (mDstSizes r)) true]
    else []
  src ++ dst ++ aux ++ aux2 ++ (if mResult r = 0 then [] else [regionLen 0 (mResult r) 16 true])

/-! ### Refusals (R240) -/

/-- R182, R183: may the format carry a scaling. -/
def scalingOk (fmt s : Nat) : Bool := s = 0 || ((5 ≤ fmt && fmt != 10) && s ≤ 2)
/-- Narrow: 8 bits or fewer, and codebooks. -/
def isNarrow (fmt : Nat) : Bool := 5 ≤ fmt && fmt != 10
/-- R253: a raw copy. FILL ignores src_fmt and is never one (log entry 30). -/
def mRaw (d : Dev) (r : Nat) : Bool :=
  mOp r != 5 && mSrcFmt r == mDstFmt r && d.mSrcScal r == 0 && d.mDstScal r == 0 && !mHilo r && !mSplit r && !mSparse r

/-- Reserved values and bits marked zero. -/
def badFields (r : Nat) : Bool :=
  mOp r > 5 || mSrcFmt r > 31 || mDstFmt r > 31 || mSrcLay r > 3 || mDstLay r > 3 || mRnd r > 5 || bits (mB r 4 1) 7 5 != 0 ||
    bitAt (mConv r) 7 || bits (mFlags r) 15 14 != 0 || bitAt (mFlags r) 11 || bitAt (mFlags r) 8 || mSrcSpace r = 3 ||
    mDstSpace r = 3 || mAuxSpace r = 3 || mAux2Space r = 3 || mCheck r / 16 != 0 || mPoly r > 4 ||
    ((mOp r < 2 || mOp r = 5) && mWindow r != 0)

def Dev.badFormat (d : Dev) (r : Nat) : Bool :=
  let s := mSrcFmt r
  let t := mDstFmt r
  let src := mOp r != 5
  (src && !(d.fmtDesc s).used) || !(d.fmtDesc t).used || (mDstLay r = 3 && arrayK t false = 0) ||
    (src && !scalingOk s (d.mSrcScal r)) || !scalingOk t (d.mDstScal r) || (mRnd r = 5 && !isNarrow t) ||
    (mHilo r && (s = 7 || s = 8 || t = 7 || t = 8)) || (mSparse r && mDstLay r = 3 && !sparseOk t)

def Dev.badLayout (d : Dev) (r : Nat) : Bool :=
  let op := mOp r
  let sl := mSrcLay r
  let dl := mDstLay r
  let n := mDstSizes r
  let m := mSrcSizes r
  let src := op != 5
  let zero (f : Nat → Int) : Bool := (List.range 4).all fun i => f i == 0
  (src && sl = 3) || (op = 1 && sl != 0) || (op = 2 && (sl > 1 || (dl != 0 && dl != 2))) ||
    (dl = 3 && d.mSrcScal r != 0) || (src && sl = 1 && !zero (mSrcStride r)) || (dl = 1 && !zero (mDstStride r)) ||
    (src && sl = 2 && !(m.2.2.1 = 1 && m.2.2.2 = 1)) || (dl ≥ 2 && !(n.2.2.1 = 1 && n.2.2.2 = 1))

def badShape (r : Nat) : Bool :=
  (List.range 4).any (fun i => mShape r i = 0) ||
    (mOp r = 2 && ([wKh r, wKw r, wSh r, wSw r, wDh r, wDw r, wOh r, wOw r].any (· = 0) || wOh r ≥ 2 ^ 31 || wOw r ≥ 2 ^ 31)) ||
    ((mOp r = 3 || mOp r = 4) && mWindow r = 0)

/-- R242 to R245: the alignment of a tensor. -/
def badAlign (lay w base : Nat) (stride : Nat → Int) (dims : Nat) : Bool :=
  match lay with
  | 0 =>
    if w ≥ 8 then base % (w / 8) != 0
    else stride 0 != 1 || (List.range dims).any fun i => i != 0 && stride i % ((8 / w : Nat) : Int) != 0
  | 3 => base % 64 != 0
  | _ => base % 128 != 0

def Dev.misplaced (_ : Dev) (r : Nat) : Bool :=
  let wd := fmtWidth (mDstFmt r)
  (mOp r != 5 && badAlign (mSrcLay r) (fmtWidth (mSrcFmt r)) (mSrc r) (mSrcStride r) 4) ||
    badAlign (mDstLay r) wd (mDst r) (mDstStride r) (if mOp r = 2 then 2 else 4) ||
    (mHilo r && badAlign (mDstLay r) wd (mAux2 r) (mDstStride r) (if mOp r = 2 then 2 else 4)) ||
    ((mOp r = 3 || mOp r = 4) && mAux r % 4 != 0) || mResult r % 16 != 0

def Dev.badOption (d : Dev) (r : Nat) : Bool :=
  let t := mDstFmt r
  ((mOp r = 3 || mOp r = 4) && d.mSrcScal r != 0) || (d.mDstScal r = 2 && d.mSrcScal r = 2) ||
    (mHilo r && (mSrcFmt r != 1 || t != 3 || d.mDstScal r != 0 || mSplit r || mSparse r || mRnd r != 0)) ||
    (mSplit r && !((t = 9 || t = 7 || t = 8 || t = 12) && d.mDstScal r = 1 && mDstLay r = 3 &&
      (mDstSizes r).2.1 % 64 = 0 && !mSparse r && !mHilo r)) ||
    (mOp r = 5 && mPoly r != 0 && mSide r = 1)

/-- The size of a space for a descriptor, none for GLOBAL. -/
def Dev.movSpace (d : Dev) (m : Nat) (x : DescCtx) (space : Nat) : Option Nat :=
  match space with
  | 0 => none
  | 1 => some x.localBytes
  | _ => some (d.clusterBytes m)

/-- R240: the cause a descriptor is refused with, the lowest where it breaks several rules (log entry 31). -/
def Dev.refusal (d : Dev) (m : Nat) (x : DescCtx) (r : Nat) : Option Nat :=
  if badFields r then some 1
  else if d.badFormat r then some 2
  else if d.badLayout r then some 3
  else if badShape r then some 4
  else if d.misplaced r then some 5
  else if d.badOption r then some 6
  else if m ≥ 200 && (d.regions r).any (·.space != 0) then some 7
  else if (d.regions r).any (fun g => match d.movSpace m x g.space with
      | some n => g.lo < 0 || g.hi ≥ n
      | none => false) then some 8
  else if mMsEn r && !d.msUsable x.part (mMs r) then some 9
  else none

/-! ### What each destination element is made from (R247 to R250) -/

/-- A source element, the fill, or code 0. -/
inductive Origin where
  | src (c : Coord)
  | fill
  | zero
deriving DecidableEq, Repr

/-- R248: the origin of element (k, m) of a WINDOW's destination. -/
def windowOrigin (r : Nat) (j : Coord) : Origin :=
  let c := j.1 % wC32 r
  let tap := j.1 / wC32 r
  let ow := j.2.1 % wOw r
  let oh := j.2.1 / wOw r % wOh r
  let n := j.2.1 / (wOw r * wOh r)
  let y : Int := (oh * wSh r + tap / wKw r * wDh r : Nat) - (wPt r : Nat)
  let x : Int := (ow * wSw r + tap % wKw r * wDw r : Nat) - (wPl r : Nat)
  if c ≥ mShape r 2 then .zero
  else if y < 0 || y ≥ mShape r 1 || x < 0 || x ≥ mShape r 0 then .fill
  else .src (x.toNat, y.toNat, c, n)

/-- The index entry as a coordinate below the extent. -/
def indexOf (r x : Nat) : Option Nat :=
  let i := toSigned 32 x
  if 0 ≤ i && i < mWindow r then some i.toNat else none

/-- Every destination element that is written, in logical order, with its origin; `idx` is the index tensor. -/
def origins (r : Nat) (idx : List Nat) : List (Coord × Origin) :=
  match mOp r with
  | 0 => (coords (mDstSizes r)).map fun j => (j, .src j)
  | 1 => (coords (mDstSizes r)).map fun j => (j, .src (j.2.1, j.1, j.2.2))
  | 2 => (coords (mDstSizes r)).map fun j => (j, windowOrigin r j)
  | 3 => (coords (mDstSizes r)).map fun j =>
    (j, match indexOf r (idx.getD (coordAt j (mAxis r)) 0) with
      | some i => .src (coordSet j (mAxis r) i)
      | none => .fill)
  | 4 =>
    let n := mDstSizes r
    let m : NMap Coord := (coords (mSrcSizes r)).foldl (fun m c =>
      match indexOf r (idx.getD (coordAt c (mAxis r)) 0) with
      | some i => NMap.insert m (coordIndex n (coordSet c (mAxis r) i)) c
      | none => m) []
    m.map fun x => (coordOf n x.1, .src x.2)
  | _ => (coords (mDstSizes r)).map fun j => (j, .fill)

/-- R252: writes that a SCATTER drops. -/
def droppedWrites (r : Nat) (idx : List Nat) : Nat :=
  if mOp r = 4 then
    ((coords (mSrcSizes r)).filter fun c => (indexOf r (idx.getD (coordAt c (mAxis r)) 0)).isNone).length
  else 0

/-! ### Bytes read (R254) -/

/-- Lines read, by line number in their space: data and poison. -/
abbrev LineMap := NMap (LineData × Bool)
def LineMap.bits (m : LineMap) (a w : Nat) : Nat × Bool :=
  match NMap.find? m (a / 1024) with
  | some (v, p) => (Sys2Proof.bits v.toNat (a % 1024 + w - 1) (a % 1024), p)
  | none => (0, false)

/-- The bit address of a source element. -/
def srcBit (r : Nat) (c : Coord) : Nat :=
  (8 * (mSrc r : Int) + elemBit r (mSrcLay r) (fmtWidth (mSrcFmt r)) (mSrcSizes r) (mSrcStride r) c).toNat % 2 ^ 67

/-- A source element as read: its value under its scale, its sign bit, its code, and whether it is poisoned. -/
structure SrcElem where
  v : FV
  neg : Bool
  code : Nat
  poison : Bool
deriving DecidableEq, Repr

/-- The sign bit of a code. -/
def codeSign (fmt code : Nat) : Bool := bitAt code ((if fmt = 7 || fmt = 8 then 6 else fmtWidth fmt) - 1)

def Dev.srcElem (d : Dev) (r : Nat) (src aux : LineMap) (idxPoison : Coord → Bool) (j : Coord) (o : Origin) : SrcElem :=
  match o with
  | .fill => ⟨fmtF32.decode (mFill r), bitAt (mFill r) 31, 0, idxPoison j⟩
  | .zero => ⟨.fin false 0 0, false, 0, false⟩
  | .src c =>
    let f := mSrcFmt r
    let x := src.bits (srcBit r c) (fmtWidth f)
    let v := elemVal f (d.fmtDesc f).codebook x.1
    let s := d.mSrcScal r
    let p := x.2 || idxPoison j
    if s = 0 then ⟨v, codeSign f x.1, x.1, p⟩
    else
      let y := aux.bits (8 * (mAux r + scaleBlock (mSrcLay r) (mSrcSizes r) c)) 8
      let k := scaleVal s y.1
      let k := if s = 2 then k.mul (fmtF32.decode (mTscale r)) else k
      ⟨FV.scaled k v, codeSign f x.1 != k.signBit, x.1, p || y.2⟩

/-- R253: the code a raw copy gives an element. -/
def rawCode (r : Nat) (o : Origin) (e : SrcElem) : Nat :=
  match o with
  | .src _ => e.code
  | .fill => if mDstFmt r = 0 then fmtF64.round .rne (fmtF32.decode (mFill r)) else mFill r % 2 ^ fmtWidth (mDstFmt r)
  | .zero => 0

/-! ### Conversion (R254 to R256) -/

def roundF32 (v : FV) : FV := fmtF32.decode (fmtF32.round .rne v)
def mRound (r : Nat) : Rnd := (Rnd.ofCode (mRnd r)).getD .rne

/-- The value an element has before it is scaled and encoded. -/
def mValue (r : Nat) (v : FV) : FV := if isNarrow (mDstFmt r) then roundF32 v else v

/-- R198: the scale code of a block. -/
def Dev.blockScale (d : Dev) (fmt scal st : Nat) (l : List FV) : Nat :=
  let cb := (d.fmtDesc fmt).codebook
  match scal with
  | 1 => scaleE8M0 (fmtEmax fmt cb) l
  | 2 => scaleE4M3 fmt cb st (if l.any FV.isNan then .nan else l.foldl magMax (.fin false 0 0))
  | _ => 0

/-- The code of an element under a block's scale code (R199 to R203). -/
def Dev.encode (d : Dev) (r fmt scal st sc idx : Nat) (rnd : Rnd) (sat : Bool) (v : FV) (neg : Bool) : Nat :=
  let cb := (d.fmtDesc fmt).codebook
  let q := scaleQuot scal sc st v
  encodeAny fmt cb rnd sat (mUmark r) (sr16 (mSeed r) idx) (match q with | .nan => neg | q => q.signBit) q

/-- R256: the tensor scale used, with whether a pre-pass made it. -/
def Dev.tensorScaleOf (d : Dev) (r : Nat) (l : List FV) : Nat × Bool :=
  if d.mDstScal r != 2 then (0, false)
  else if mTscale r != 0 then (mTscale r, false)
  else
    let fin := l.filter fun v => match v with | .fin _ _ _ => true | _ => false
    (tensorScale (mDstFmt r) (d.fmtDesc (mDstFmt r)).codebook (fin.foldl magMax (.fin false 0 0)), true)

/-! ### Bytes written -/

/-- Bytes to write in a space: address to value and bit mask, and the lines to be marked poisoned. -/
structure Out where
  bytes : NMap (Nat × Nat) := []
  poison : List Nat := []
deriving DecidableEq, Repr

/-- A byte's bits put in. -/
def Out.put (o : Out) (a v mask : Nat) : Out :=
  let old := NMap.getD o.bytes a (0, 0)
  { o with bytes := NMap.insert o.bytes a ((old.1 &&& (255 - mask)) ||| (v &&& mask), old.2 ||| mask) }
/-- `n` bytes of a number, least significant first. -/
def Out.putNat (o : Out) (a x : Nat) : Nat → Out
  | 0 => o
  | n + 1 => Out.putNat (o.put a (x % 256) 255) (a + 1) (x / 256) n
/-- An element's code at a bit address. -/
def Out.putElem (o : Out) (bit w code : Nat) (poison : Bool) : Out :=
  let o := if w ≥ 8 then o.putNat (bit / 8) code (w / 8)
    else o.put (bit / 8) (code * 2 ^ (bit % 8)) ((2 ^ w - 1) * 2 ^ (bit % 8))
  if poison then { o with poison := insSorted (bit / 1024) o.poison } else o

/-- The outputs of a descriptor: destination, aux and aux2 bytes, whether groups were pruned. -/
structure Outs where
  dst : Out := {}
  aux : Out := {}
  aux2 : Out := {}
  pruned : Bool := false
  poisoned : Bool := false
deriving DecidableEq, Repr

/-- An element with its place: coordinates, value, sign, whether it came poisoned. -/
structure DstElem where
  j : Coord
  o : Origin
  e : SrcElem
deriving DecidableEq, Repr

/-- The bit address of a destination element from base `b`. -/
def dstBit (r b : Nat) (c : Coord) : Nat :=
  (8 * (b : Int) + elemBit r (mDstLay r) (fmtWidth (mDstFmt r)) (mDstSizes r) (mDstStride r) c).toNat % 2 ^ 67

/-- The positions of padding of the destination's layout, written with code 0 (R243, R244). -/
def padding (r : Nat) : List Coord :=
  let n := mDstSizes r
  match mDstLay r with
  | 1 => (coords (n.1, n.2.1, 32 * ceilDiv n.2.2.1 32, n.2.2.2)).filter fun c => c.2.2.1 ≥ n.2.2.1
  | 2 =>
    let kb := 8 * rowChunk r / fmtWidth (mDstFmt r)
    (coords (kb * ceilDiv n.1 kb, 64 * ceilDiv n.2.1 64, 1, 1)).filter fun c => c.1 ≥ n.1 || c.2.1 ≥ n.2.1
  | _ => []

/-- The outputs of a descriptor whose destination is not IMAGE. -/
def Dev.plainOuts (d : Dev) (r st : Nat) (es : List DstElem) : Outs :=
  let fmt := mDstFmt r
  let w := fmtWidth fmt
  let n := mDstSizes r
  let scal := d.mDstScal r
  let pad (o : Out) (b : Nat) : Out := (padding r).foldl (fun o c => o.putElem (dstBit r b c) w 0 false) o
  if mRaw d r then
    let dst := es.foldl (fun o x => o.putElem (dstBit r (mDst r) x.j) w (rawCode r x.o x.e) x.e.poison) {}
    { dst := pad dst (mDst r), poisoned := es.any (·.e.poison) }
  else if mHilo r then
    let hi (x : DstElem) : Nat := fmtBF16.round .rne x.e.v
    let lo (x : DstElem) : Nat := fmtBF16.round .rne (roundF32 (x.e.v.add .rne (fmtBF16.decode (hi x)).neg))
    let dst := es.foldl (fun o x => o.putElem (dstBit r (mDst r) x.j) w (hi x) x.e.poison) {}
    let aux2 := es.foldl (fun o x => o.putElem (dstBit r (mAux2 r) x.j) w (lo x) x.e.poison) {}
    { dst := pad dst (mDst r), aux2 := pad aux2 (mAux2 r), poisoned := es.any (·.e.poison) }
  else
    let blockOf (x : DstElem) : Nat := scaleBlock (mDstLay r) n x.j
    let groups : NMap (List DstElem) := if scal = 0 then [] else es.foldl (fun m x =>
      NMap.insert m (blockOf x) (x :: NMap.getD m (blockOf x) [])) []
    let scales : NMap (Nat × Bool) := groups.map fun g =>
      (g.1, d.blockScale fmt scal st (g.2.map fun x => mValue r x.e.v), g.2.any (·.e.poison))
    let dst := es.foldl (fun o x =>
      let s := NMap.getD scales (blockOf x) (0, false)
      let code := match x.o with
        | .zero => 0
        | _ => d.encode r fmt scal st s.1 (coordIndex n x.j) (mRound r) (mSat r) (mValue r x.e.v) x.e.neg
      o.putElem (dstBit r (mDst r) x.j) w code (x.e.poison || s.2)) {}
    let aux2 := scales.foldl (fun (o : Out) g => o.put (mAux2 r + g.1) g.2.1 255) {}
    { dst := pad dst (mDst r), aux2 := aux2, poisoned := es.any (·.e.poison) }

/-! ### Images (R245, R257, R259) -/

/-- The bit, within the values of an image, of stored element `e` of column `c`; an FP19 element has its upper half there
and its lower half 512 bits on. -/
def imgBit (fmt e c : Nat) : Nat :=
  if fmt ≥ 16 then 8 * (32 * (e / 2) + c) + 4 * (e % 2)
  else if fmt = 2 then 8 * (128 * e + 2 * c)
  else
    let w := fmtWidth fmt
    let n := 16 / w
    8 * (64 * (e / n) + 2 * c) + w * (e % n)

/-- A stored element written into an image at byte `b`. -/
def Out.putImg (o : Out) (b fmt e c code : Nat) (poison : Bool) : Out :=
  if fmt = 2 then
    let a := 8 * b + imgBit 2 e c
    (o.putElem a 16 (code / 2 ^ 16) poison).putElem (a + 512) 16 (code % 2 ^ 16) poison
  else o.putElem (8 * b + imgBit fmt e c) (fmtWidth fmt) code poison

/-- The rank of an encoded element for pruning: NaN largest, then magnitude. -/
def keepOrder (fmt : Nat) (a : Nat × Nat) (b : Nat × Nat) : Bool :=
  let m (x : Nat × Nat) : FV := elemVal fmt [] x.2
  match m a, m b with
  | .nan, _ => true
  | _, .nan => false
  | x, y => (x.abs.cmp y.abs) != some .lt

/-- R257: the two positions of a group of four that are kept, with their codes, ascending, and whether a non-zero element
was dropped. -/
def keepTwo (fmt : Nat) (codes : List Nat) : List (Nat × Nat) × Bool :=
  let isZero (c : Nat) : Bool := match elemVal fmt [] c with | .fin _ 0 _ => true | _ => false
  let xs : List (Nat × Nat) := (List.range 4).map fun i => (i, codes.getD i 0)
  let nz := xs.filter fun x => !isZero x.2
  let best (l : List (Nat × Nat)) : Option (Nat × Nat) := l.foldl (fun a x => match a with
    | none => some x
    | some y => if keepOrder fmt y x then some y else some x) none
  let kept : List (Nat × Nat) :=
    if nz.length ≥ 2 then
      match best nz with
      | none => []
      | some a => match best (nz.filter fun x => x.1 != a.1) with
        | none => [a]
        | some b => [a, b]
    else
      let zs := (xs.filter fun x => isZero x.2).take (2 - nz.length)
      nz ++ zs.map fun x => (x.1, 0)
  let s := if (kept.getD 0 (0, 0)).1 ≤ (kept.getD 1 (0, 0)).1 then kept else kept.reverse
  (s, nz.length > 2)

/-- The elements of an IMAGE destination by (column, position): value, sign, origin and poison. -/
abbrev ImgVals := Nat → Nat → Option DstElem

/-- R233: the row of the group of 64 positions `g` of strip `s` that is split, if one is. -/
def Dev.splitRow (d : Dev) (r : Nat) (vals : ImgVals) (s g : Nat) : Option Nat :=
  let fmt := mDstFmt r
  let val (c k : Nat) : FV := match vals (32 * s + c) k with | some x => mValue r x.e.v | none => .fin false 0 0
  let ks := (List.range 64).map fun i => 64 * g + i
  let rowMax (k : Nat) : FV := (List.range 32).foldl (fun a c => magMax a (val c k)) (.fin false 0 0)
  let finite : Bool := ks.all fun k => (List.range 32).all fun c => match val c k with | .fin _ _ _ => true | _ => false
  if !finite then none
  else
    let k := (ks.foldl (fun (a : Nat × FV) k =>
      if a.2.cmp (rowMax k) == some .lt then (k, rowMax k) else a) (64 * g, rowMax (64 * g))).1
    let b := k / 32
    let tooBig (c : Nat) : Bool :=
      let l := (List.range 32).map fun i => if 32 * b + i = k then FV.fin false 0 0 else val c (32 * b + i)
      let q := scaleQuot 1 (d.blockScale fmt 1 0 l) 0 (val c k)
      (fmtVmax fmt []).cmp q.abs == some .lt
    if (List.range 32).any tooBig then some k else none

/-- One image of the body written. -/
def Dev.putImage (d : Dev) (r st : Nat) (vals : ImgVals) (split : Nat → Option Nat) (s j : Nat) (a : Outs) : Outs :=
  let fmt := mDstFmt r
  let ki := imgK r
  let b := mDst r + (s * imgBlocks r + j) * d.imgPitch r
  let scal := d.mDstScal r
  let elem (c k : Nat) : Option DstElem := vals (32 * s + c) (ki * j + k)
  let isSplit (k : Nat) : Bool := split ((ki * j + k) / 64) == some (ki * j + k)
  let val (c k : Nat) : FV := match elem c k with
    | some x => if isSplit k then .fin false 0 0 else mValue r x.e.v
    | none => .fin false 0 0
  let block (jj : Nat) : List Nat := (List.range 32).map fun i => 32 * jj + i
  let tainted (c jj : Nat) : Bool := scal != 0 && (block jj).any fun k => match elem c k with | some x => x.e.poison | none => false
  let sc (c jj : Nat) : Nat := if scal = 0 then 0 else d.blockScale fmt scal st ((block jj).map (val c))
  let scs : List (List (Nat × Bool)) :=
    (List.range 32).map fun c => (List.range (ki / 32)).map fun jj => (sc c jj, tainted c jj)
  let scAt (c k : Nat) : Nat × Bool := (scs.getD c []).getD (k / 32) (0, false)
  let code (c k : Nat) : Option (Nat × Bool) := match elem c k with
    | none => if mOp r = 4 && 32 * s + c < (mDstSizes r).1 && ki * j + k < (mDstSizes r).2.1 then none else some (0, false)
    | some x =>
      let t := scAt c k
      let p := x.e.poison || t.2
      if isSplit k then some (0, p)
      else match x.o with
        | .zero => some (0, p)
        | _ =>
          if mRaw d r then some (rawCode r x.o x.e, p)
          else some (d.encode r fmt scal st t.1 (coordIndex (mDstSizes r) x.j) (mRound r) (mSat r) (mValue r x.e.v) x.e.neg, p)
  let a : Outs :=
    if mSparse r then
      (List.range 32).foldl (fun a c => (List.range (ki / 4)).foldl (fun (a : Outs) g =>
        let cs := (List.range 4).map fun i => (code c (4 * g + i)).getD (0, false)
        let k2 := keepTwo fmt (cs.map (·.1))
        let p := cs.any (·.2)
        let e (i : Nat) : Nat × Nat := k2.1.getD i (0, 0)
        let o := (a.dst.putImg b fmt (2 * g) c (e 0).2 p).putImg b fmt (2 * g + 1) c (e 1).2 p
        let nib := (e 0).1 + 4 * (e 1).1
        let mb := b + valueBytes fmt + c * (ki / 8) + g / 2
        { a with dst := o.putElem (8 * mb + 4 * (g % 2)) 4 nib p, pruned := a.pruned || k2.2 }) a) a
    else
      (List.range 32).foldl (fun a c => (List.range ki).foldl (fun (a : Outs) k =>
        match code c k with
        | some x => { a with dst := a.dst.putImg b fmt k c x.1 x.2 }
        | none => a) a) a
  let so := b + valueBytes fmt + metaBytes fmt (mSparse r)
  let a : Outs :=
    if scal = 0 then a
    else (List.range 32).foldl (fun a c => (List.range (ki / 32)).foldl (fun (a : Outs) jj =>
      let t := (scs.getD c []).getD jj (0, false)
      { a with dst := a.dst.putElem (8 * (so + (ki / 32) * c + jj)) 8 t.1 t.2 }) a) a
  let n := imageBytes fmt (mSparse r) (scal != 0)
  { a with dst := (List.range (d.imgPitch r - n)).foldl (fun o i => o.put (b + n + i) 0 255) a.dst }

/-- R234: a side image: E4M3 values of the split rows of a segment, scaled per column. -/
def Dev.putSide (d : Dev) (r : Nat) (vals : ImgVals) (rows : List (Option Nat)) (s q : Nat) (a : Outs) : Outs :=
  let b := mAux2 r + (s * ceilDiv (mDstSizes r).2.1 2048 + q) * 1088
  let row (i : Nat) : Option Nat := (rows[32 * q + i]?).join
  let elem (c i : Nat) : Option DstElem := (row i).bind fun k => vals (32 * s + c) k
  let val (c i : Nat) : FV := match elem c i with | some x => mValue r x.e.v | none => .fin false 0 0
  (List.range 32).foldl (fun (a : Outs) c =>
    let l := (List.range 32).map (val c)
    let sc := scaleE8M0 (fmtEmax 5 []) l
    let p := (List.range 32).any fun i => match elem c i with | some x => x.e.poison | none => false
    let o := (List.range 32).foldl (fun (o : Out) i =>
      let x := val c i
      o.putImg b 5 i c (d.encode r 5 1 0 sc 0 .rne true x x.signBit) p) a.aux2
    { a with aux2 := o.put (b + 1024 + c) sc 255 }) { a with aux2 := (List.range 32).foldl (fun o i => o.put (b + 1056 + i) 0 255) a.aux2 }

/-- The outputs of a descriptor whose destination is IMAGE. -/
def Dev.imageOuts (d : Dev) (r st : Nat) (es : List DstElem) : Outs :=
  let n := mDstSizes r
  let m : NMap DstElem := es.foldl (fun m x => NMap.insert m (coordIndex n x.j) x) []
  let vals : ImgVals := fun c k => if c < n.1 && k < n.2.1 then NMap.find? m (c + n.1 * k) else none
  let groups := if mSplit r then n.2.1 / 64 else 0
  (List.range (imgStrips r)).foldl (fun a s =>
    let rows := (List.range groups).map (d.splitRow r vals s)
    let split (g : Nat) : Option Nat := (rows[g]?).join
    let a := (List.range (imgBlocks r)).foldl (fun a j => d.putImage r st vals split s j a) a
    let a : Outs := rows.zipIdx.foldl (fun (a : Outs) x =>
      let e := match x.1 with | some k => k | none => 2 ^ 32 - 1
      { a with aux := a.aux.putNat (mAux r + 4 * (s * groups + x.2)) e 4 }) a
    if mSplit r then (List.range (ceilDiv n.2.1 2048)).foldl (fun a q => d.putSide r vals rows s q a) a else a)
    { poisoned := es.any (·.e.poison) }

end Sys2Proof.Machine
end

