-- ==== Sys2Proof/Machine/MoverRun.lean ====
section
/-! DEFINITION. What a mover does with a descriptor: acceptance (R237 to R240, R263), the six operations (R247 to R260,
R264, R265) and completion (R261, R262). -/

namespace Sys2Proof.Machine

/-- The mover as a translation requester (R395), for offer or descriptor `id`. -/
def DescCtx.req (x : DescCtx) (m id : Nat) : Requester :=
  { engine := if m < 200 then 1 else 2, unit := if m < 200 then m else m - 200, part := x.part, asid := x.asid,
    ctxTag := x.ctxTag, layer := x.layer, op := x.op, waiter := .mover m id, mover := some m,
    cluster := if m < 200 then some m else none }
def DescCtx.tag (x : DescCtx) : Nat × Nat × Nat := (x.ctxTag, x.layer, x.op)

/-- The core that issued a descriptor, none for a command's. -/
def Issuer.core? (i : Issuer) : Option Nat := match i with | .convoy k _ _ => some k | .command .. => none

/-- Work done under a command's labels (R552). -/
def Dev.underTag (d : Dev) (t : Nat × Nat × Nat) (g : Dev → Dev) : Dev := { g { d with tag := some t } with tag := none }

/-- The lines of a list translated in order, up to the first failure, which becomes a request (R265, R393). Answers the
translations gathered and, where none failed, each line's place. -/
def Dev.moveLines (d : Dev) (w : Requester) (got : List TlbEntry) (a : Access) :
    List Nat → NMap Phys → Dev × List TlbEntry × Option (NMap Phys)
  | [], acc => (d, got, some acc)
  | l :: ls, acc =>
    match d.lookup w got (l * 128) a with
    | (d, .ok (p, e)) => Dev.moveLines d w (if got.contains e then got else got ++ [e]) a ls (NMap.insert acc l p)
    | (d, .error k) => (d.requestPage w k (pageOf (l * 128)) a, got, none)

/-- R263: before a mover reads a line the issuing core writes its L1's dirty bytes of it back; before it writes one the
L1's copy goes. -/
def Dev.coreFlush (d : Dev) (k : Option Nat) (l : Nat) : Dev :=
  match k with | some k => (d.drainEntry k l).l1WriteBack k l | none => d
def Dev.corePurge (d : Dev) (k : Option Nat) (l : Nat) : Dev := match k with | some k => d.l1Purge k l | none => d

/-- A line of a space read by mover `m`: GLOBAL through its cluster's L2, or as an I/O agent (R264). -/
def Dev.movRead (d : Dev) (m : Nat) (k : Option Nat) (x : DescCtx) (space l : Nat) (at_ : NMap Phys) :
    Dev × LineData × Bool :=
  match space with
  | 0 =>
    let p := NMap.getD at_ l ⟨0, 0⟩
    let d := d.coreFlush k p.line
    if m < 200 then d.l2Read m p.line p.key else d.ioRead (100 + m) p.line p.key
  | 1 => (d, lineOf 0 (readBytes (d.core (k.getD 0)).localMem (x.localOff + 128 * l) 128), false)
  | _ =>
    let d := d.claimStore m x.asid
    (d, lineOf 0 (readBytes d.stores (m * 2 ^ 20 + 128 * l) 128), false)

/-- Bytes of a line of a space written. Only GLOBAL lines hold poison. -/
def Dev.movWrite (d : Dev) (m : Nat) (k : Option Nat) (x : DescCtx) (space l : Nat) (at_ : NMap Phys) (v : LineData)
    (mask : LineMask) (p : Bool) : Dev :=
  let o := maskList mask.toNat 128
  let put (s : NMap Byte) (base : Nat) : NMap Byte :=
    o.foldl (fun s i => NMap.put (α := Byte) s (base + i) (v.extractLsb' (8 * i) 8) 0) s
  match space with
  | 0 =>
    let q := NMap.getD at_ l ⟨0, 0⟩
    let d := d.corePurge k q.line
    if m < 200 then d.l2Write m q.line q.key v mask p else d.ioWrite (100 + m) q.line q.key v mask p
  | 1 =>
    let c := d.core (k.getD 0)
    d.setCore (k.getD 0) { c with localMem := put c.localMem (x.localOff + 128 * l) }
  | _ =>
    let d := d.claimStore m x.asid
    ({ d with stores := put d.stores (m * 2 ^ 20 + 128 * l) } : Dev).breakResv m (storeLine m (128 * l))

/-- Lines of a space read in order. -/
def Dev.movReads (d : Dev) (m : Nat) (k : Option Nat) (x : DescCtx) (space : Nat) (at_ : NMap Phys) (ls : List Nat) :
    Dev × LineMap :=
  ls.foldl (fun (acc : Dev × LineMap) l =>
    let (d, v, p) := acc.1.movRead m k x space l at_
    (d, NMap.insert acc.2 l (v, p))) (d, [])

/-! ### Acceptance -/

/-- The lines of a region, as places of its space's range tracker: LOCAL ones by place in the core's local store. -/
def Region.entry (x : DescCtx) (id : Nat) (g : Region) : RangeEntry :=
  let base := if g.space = 1 then x.localOff / 128 else 0
  ⟨g.space, base + g.lo.toNat / 128, base + g.hi.toNat / 128, g.write, id⟩

/-- The entries of a descriptor's regions. -/
def Dev.rangesOf (d : Dev) (x : DescCtx) (id r : Nat) : List RangeEntry := (d.regions r).map (·.entry x id)

/-- Two sets of entries of which some pair is ordered. -/
def rangesClash (a b : List RangeEntry) : Bool := a.any fun x => b.any fun y => x.conflicts y.space y.lo y.hi y.write

/-- R263: may a descriptor's entries be taken: room on the issuing core and nothing held before them; for a system mover,
no accepted descriptor of its queue in the way. -/
def Dev.rangesFree (d : Dev) (i : Issuer) (es : List RangeEntry) : Bool :=
  match i with
  | .convoy k _ _ =>
    let held := (d.core k).heldRanges.map (·.2)
    held.length + es.length ≤ 64 && !rangesClash es held
  | .command a q _ => !d.movers.any fun y => y.1 ≥ 200 && y.2.descs.any fun z =>
      z.ctx.asid == a && z.ctx.queue == q && rangesClash es (d.rangesOf z.ctx z.id z.raw.toNat)

/-- R263: the offers that must be taken before one: those of its core, or of its queue, made earlier. -/
def Dev.offerFirst (d : Dev) (m : Nat) (o : Offer) : Bool :=
  match o.issuer with
  | .convoy k _ _ => !(d.mover m).offers.any fun y => y.id < o.id && y.issuer.core? == some k
  | .command a q n => !d.movers.any fun y => y.1 ≥ 200 && y.2.offers.any fun z =>
      match z.issuer with | .command a' q' n' => a' == a && q' == q && n' < n | _ => false

def Mover.queued (x : Mover) : Nat := (x.descs.filter fun y => !y.started).length
def Mover.executing (x : Mover) : Nat := (x.descs.filter (·.started)).length
def moverDepth (m : Nat) : Nat := if m < 200 then 32 else 64
def moverWide (m : Nat) : Nat := if m < 200 then 4 else 8

/-- R240, R265: a fault recorded in MOV_FAULT_INFO. -/
def Dev.movFault (d : Dev) (m : Nat) (i : Issuer) (x : DescCtx) (cause : Nat) : Dev :=
  let slot := match i.core? with | some k => k % 8 | none => 0
  d.setReg .MOV_FAULT_INFO m
    (x.layer * 2 ^ 48 + x.op * 2 ^ 32 + x.ctxTag * 2 ^ 20 + slot * 2 ^ 16 + 2 ^ 15 + cause)

/-- The command behind a descriptor is aborted with a status (R98, R240). -/
def Dev.movAbort (d : Dev) (i : Issuer) (x : DescCtx) (status detail : Nat) : Dev :=
  match i with
  | .convoy .. => d.stopLaunch x.part x.asid x.queue x.seq status detail
  | .command a q n => d.markDone a q n status detail

def Mover.dropOffer (x : Mover) (id : Nat) : Mover := { x with offers := x.offers.filter (·.id != id) }
def Mover.setOffer (x : Mover) (o : Offer) : Mover := { x with offers := x.offers.map fun y => if y.id == o.id then o else y }
def Mover.setDesc (x : Mover) (y : Desc) : Mover := { x with descs := x.descs.map fun z => if z.id == y.id then y else z }

/-- The 128 bytes of an offered descriptor read; none when its page does not translate, which stalls the offer. -/
def Dev.readOffer (d : Dev) (m : Nat) (o : Offer) : Dev × Option (LineData × Bool) :=
  let l := o.addr.toNat / 128
  let k := o.issuer.core?
  if o.space = 0 then
    match d.moveLines (o.ctx.req m o.id) o.got {} [l] [] with
    | (d, _, some at_) =>
      let (d, v, p) := d.movRead m k o.ctx 0 l at_
      (d, some (v, p))
    | (d, got, none) => (d.setMover m ((d.mover m).setOffer { o with stalled := true, got := got }), none)
  else
    let (d, v, p) := d.movRead m k o.ctx o.space l []
    (d, some (v, p))

/-- A descriptor outside its LOCAL or CLUSTER space. -/
def Dev.offerBeyond (d : Dev) (m : Nat) (o : Offer) : Bool :=
  match d.movSpace m o.ctx o.space with
  | some n => o.addr.toNat + 128 > n
  | none => false

/-- An offer refused: recorded, dropped, and its command aborted with "mover fault". -/
def Dev.refuse (d : Dev) (m : Nat) (o : Offer) (cause : Nat) : Dev :=
  ((d.setMover m ((d.mover m).dropOffer o.id)).movFault m o.issuer o.ctx cause).movAbort o.issuer o.ctx 3 cause

/-- R237 to R240, R263: offer `id` of mover `m` taken. -/
def Dev.acceptOffer (d : Dev) (m id : Nat) : Dev :=
  match (d.mover m).offers.find? (·.id == id) with
  | none => d
  | some o =>
    if o.stalled || (d.mover m).queued ≥ moverDepth m || !d.offerFirst m o then d
    else if d.offerBeyond m o then d.refuse m o 8
    else
      match d.readOffer m o with
      | (d, none) => d
      | (d, some (v, p)) =>
        if p then d.refuse m o 1
        else
          let r := v.toNat
          match d.refusal m o.ctx r with
          | some c => d.refuse m o c
          | none =>
            let es := d.rangesOf o.ctx id r
            if !d.rangesFree o.issuer es then d
            else
              let x := (d.mover m).dropOffer id
              let d := d.setMover m { x with descs := x.descs ++ [{ id := id, issuer := o.issuer, ctx := o.ctx, raw := v }] }
              match o.issuer.core? with
              | some k =>
                let c := d.core k
                let d := d.setCore k { c with ranges := c.ranges ++ es }
                let n := (d.core k).heldRanges.length
                d.when (n > d.fld F.CVY_RT_STATUS_peak k) (·.setFld F.CVY_RT_STATUS_peak k n)
              | none => d

def moverOk (m : Nat) : Bool := m < 208

def execDescriptorAccept (m id : Nat) (s : State) : Host.Outcome State Fault Refusal :=
  s.run (moverOk m) fun d => match (d.mover m).offers.find? (·.id == id) with
    | some o => d.underTag o.ctx.tag fun d => d.acceptOffer m id
    | none => d

/-! ### The operations -/

/-- R238: descriptors start in the order of acceptance, within the mover's width. -/
def Mover.mayRun (x : Mover) (m : Nat) (y : Desc) : Bool :=
  !y.stalled && !y.written &&
  (y.started || (x.executing < moverWide m && x.descs.all fun z => z.started || !(z.id < y.id)))

/-- Bit addresses to ascending line numbers. -/
def bitLines (l : List Nat) : List Nat := l.foldl (fun a b => insSorted (b / 1024) a) []
/-- Byte ranges to line numbers. -/
def byteLines (a n : Nat) : List Nat := if n = 0 then [] else (List.range ((a + n - 1) / 128 + 1 - a / 128)).map (· + a / 128)

/-- The source lines an operation reads: of the elements used, or of all of them for a check value over the source. -/
def srcLines (r : Nat) (os : List (Coord × Origin)) : List Nat :=
  if mOp r = 5 then []
  else if mPoly r != 0 && mSide r = 1 then bitLines ((coords (mSrcSizes r)).map (srcBit r))
  else bitLines (os.filterMap fun x => match x.2 with | .src c => some (srcBit r c) | _ => none)

/-- A written line: data and bit mask, of 1,024 bits each. -/
def Out.lines (o : Out) : NMap (Nat × Nat) :=
  o.bytes.foldl (fun m x =>
    let l := x.1 / 128
    let s := 8 * (x.1 % 128)
    let old := NMap.getD m l (0, 0)
    NMap.insert m l (old.1 ||| (x.2.1 <<< s), old.2 ||| (x.2.2 <<< s))) []

/-- The bytes a bit mask touches, and whether it leaves part of one. -/
def touched (mask : Nat) : LineMask :=
  BitVec.ofNat 128 (listMask ((List.range 128).filter fun i => bits mask (8 * i + 7) (8 * i) != 0))
def partByte (mask : Nat) : Bool := (List.range 128).any fun i => !([0, 255] : List Nat).contains (bits mask (8 * i + 7) (8 * i))

/-- An output written line by line in ascending order; sub-byte elements are merged into the byte as it was. Answers the
bytes as written. -/
def Dev.writeOut (d : Dev) (m : Nat) (k : Option Nat) (x : DescCtx) (space : Nat) (at_ : NMap Phys) (o : Out) :
    Dev × List Byte :=
  o.lines.foldl (fun (acc : Dev × List Byte) y =>
    let mask := touched y.2.2
    let (d, old) := if partByte y.2.2 then
        let (d, v, _) := acc.1.movRead m k x space y.1 at_
        (d, v.toNat)
      else (acc.1, 0)
    let v := BitVec.ofNat 1024 ((old &&& (2 ^ 1024 - 1 - y.2.2)) ||| y.2.1)
    let d := d.movWrite m k x space y.1 at_ v mask (o.poison.contains y.1)
    (d, acc.2 ++ (maskList mask.toNat 128).map fun i => v.extractLsb' (8 * i) 8)) (d, [])

/-- The bytes that hold a source element, ascending, as read (R260, side 1). -/
def srcBytes (r : Nat) (src : LineMap) : List Byte :=
  let w := fmtWidth (mSrcFmt r)
  let as := (coords (mSrcSizes r)).foldl (fun a c =>
    let b := srcBit r c
    (List.range ((w + 7) / 8)).foldl (fun a i => insSorted (b / 8 + i) a) a) []
  as.map fun a => BitVec.ofNat 8 (src.bits (8 * a) 8).1

/-- Everything an operation reads, translated and read; none when a page did not translate. -/
structure MovIn where
  os : List (Coord × Origin)
  idx : List Nat := []
  idxPoison : List Nat := []
  src : LineMap
  aux : LineMap
deriving DecidableEq, Repr

/-- Lines of a space translated where the space is GLOBAL. -/
def Dev.mapSpace (d : Dev) (w : Requester) (got : List TlbEntry) (space : Nat) (write : Bool) (ls : List Nat) :
    Dev × List TlbEntry × Option (NMap Phys) :=
  if space = 0 then d.moveLines w got { write := write } ls [] else (d, got, some [])

/-- The index tensor of a GATHER or SCATTER: its entries, and the ones on poisoned lines. -/
def Dev.movIndex (d : Dev) (m : Nat) (y : Desc) (got : List TlbEntry) :
    Dev × List TlbEntry × Option (List Nat × List Nat) :=
  let r := y.raw.toNat
  if mOp r = 3 || mOp r = 4 then
    let n := coordAt (mShapes r) (mAxis r)
    let ls := byteLines (mAux r) (4 * n)
    match d.mapSpace (y.ctx.req m y.id) got (mAuxSpace r) false ls with
    | (d, got, none) => (d, got, none)
    | (d, got, some at_) =>
      let (d, lm) := d.movReads m y.issuer.core? y.ctx (mAuxSpace r) at_ ls
      let es := (List.range n).map fun i => lm.bits (8 * (mAux r + 4 * i)) 32
      (d, got, some (es.map (·.1), (es.zipIdx.filter (·.1.2)).map (·.2)))
  else (d, got, some ([], []))

def Dev.movInputs (d : Dev) (m : Nat) (y : Desc) (got : List TlbEntry) : Dev × List TlbEntry × Option MovIn :=
  let r := y.raw.toNat
  let w := y.ctx.req m y.id
  let k := y.issuer.core?
  match d.movIndex m y got with
  | (d, got, none) => (d, got, none)
  | (d, got, some (idx, ip)) =>
    let os := origins r idx
    let sl := srcLines r os
    match d.mapSpace w got (mSrcSpace r) false sl with
    | (d, got, none) => (d, got, none)
    | (d, got, some sat) =>
      let al := if d.mSrcScal r != 0 then byteLines (mAux r) (scaleCount (mSrcLay r) (mSrcSizes r)) else []
      match d.mapSpace w got (mAuxSpace r) false al with
      | (d, got, none) => (d, got, none)
      | (d, got, some aat) =>
        let (d, src) := d.movReads m k y.ctx (mSrcSpace r) sat sl
        let (d, aux) := d.movReads m k y.ctx (mAuxSpace r) aat al
        (d, got, some { os := os, idx := idx, idxPoison := ip, src := src, aux := aux })

/-- The three places an operation writes: space and output. -/
def outPlaces (r : Nat) (o : Outs) : List (Nat × Out) := [(mDstSpace r, o.dst), (mAuxSpace r, o.aux), (mAux2Space r, o.aux2)]

/-- Every line an operation writes translated for writing. -/
def Dev.mapOuts (d : Dev) (w : Requester) :
    List TlbEntry → List (Nat × Out) → List (NMap Phys) → Dev × List TlbEntry × Option (List (NMap Phys))
  | got, [], acc => (d, got, some acc.reverse)
  | got, (sp, o) :: rest, acc =>
    match d.mapSpace w got sp true (o.lines.map (·.1)) with
    | (d, got, some at_) => Dev.mapOuts d w got rest (at_ :: acc)
    | (d, got, none) => (d, got, none)

/-- The values of an operation (R247 to R259), and the tensor scale of its record. -/
def Dev.movOuts (d : Dev) (r : Nat) (i : MovIn) : Outs × Nat × Bool :=
  let bad (j : Coord) : Bool := mOp r = 3 && i.idxPoison.contains (coordAt j (mAxis r))
  let es : List DstElem := i.os.map fun x => ⟨x.1, x.2, d.srcElem r i.src i.aux bad x.1 x.2⟩
  let es := if mOp r = 4 && !i.idxPoison.isEmpty then es.map fun x => { x with e := { x.e with poison := true } } else es
  let ts := d.tensorScaleOf r (es.map fun x => mValue r x.e.v)
  (if mDstLay r = 3 then d.imageOuts r ts.1 es else d.plainOuts r ts.1 es, ts)

/-- R260, R261, R265: what the record will say, once everything is written. -/
def Dev.movDone (d : Dev) (m : Nat) (y : Desc) (i : MovIn) (o : Outs) (ts : Nat × Bool) (bs : List Byte) : Dev :=
  let r := y.raw.toNat
  let check := if mPoly r = 0 then 0 else crcOf (mPoly r - 1) (if mSide r = 0 then bs else srcBytes r i.src)
  let drops := droppedWrites r i.idx
  let notes := b2n (drops != 0) + 2 * b2n o.pruned + 4 * b2n ts.2 + 8 * b2n o.poisoned
  let d := d.setMover m ((d.mover m).setDesc
    { y with started := true, stalled := false, got := [], written := true, check := check, tscale := ts.1,
             dropped := min drops 0xffff, notes := notes, bytes := bs.length })
  let d := (d.count F.MOV_DROP_COUNT_count m drops).errEvent (some y.ctx.part) 9 drops
  d.when (m < 200) fun d => (d.clusterEvent m 0x45 (128 * (i.src.length + i.aux.length))).clusterEvent m 0x46 bs.length

/-- One operation of a descriptor, from the reading of its source to its last write. A page that does not translate stalls
it with nothing written (R265); it is run again when the translation is there. -/
def Dev.runDesc (d : Dev) (m : Nat) (y : Desc) : Dev :=
  let r := y.raw.toNat
  let k := y.issuer.core?
  let stall (d : Dev) (got : List TlbEntry) : Dev :=
    d.setMover m ((d.mover m).setDesc { y with started := true, stalled := true, got := got })
  match d.movInputs m y y.got with
  | (d, got, none) => stall d got
  | (d, got, some i) =>
    let (o, ts) := d.movOuts r i
    match d.mapOuts (y.ctx.req m y.id) got (outPlaces r o) [] with
    | (d, got, none) => stall d got
    | (d, _, some ats) =>
      let (d, bs) := d.writeOut m k y.ctx (mDstSpace r) (ats.getD 0 []) o.dst
      let (d, _) := d.writeOut m k y.ctx (mAuxSpace r) (ats.getD 1 []) o.aux
      let (d, _) := d.writeOut m k y.ctx (mAux2Space r) (ats.getD 2 []) o.aux2
      d.movDone m y i o ts bs

/-- Descriptor `id` of mover `m`, if it holds operation `op` and may run. -/
def State.runMove (s : State) (op m id : Nat) : Host.Outcome State Fault Refusal :=
  s.run (moverOk m) fun d => match (d.mover m).descs.find? (·.id == id) with
    | some y =>
      if mOp y.raw.toNat = op && (d.mover m).mayRun m y then d.underTag y.ctx.tag fun d => d.runDesc m y else d
    | none => d

def execCopy (m id : Nat) (s : State) : Host.Outcome State Fault Refusal := s.runMove 0 m id
def execTranspose (m id : Nat) (s : State) : Host.Outcome State Fault Refusal := s.runMove 1 m id
def execWindow (m id : Nat) (s : State) : Host.Outcome State Fault Refusal := s.runMove 2 m id
def execGather (m id : Nat) (s : State) : Host.Outcome State Fault Refusal := s.runMove 3 m id
def execScatter (m id : Nat) (s : State) : Host.Outcome State Fault Refusal := s.runMove 4 m id
def execFill (m id : Nat) (s : State) : Host.Outcome State Fault Refusal := s.runMove 5 m id

/-! ### Completion -/

/-- A descriptor leaves its mover, and its range-tracker entries go. -/
def Dev.dropDesc (d : Dev) (m : Nat) (y : Desc) : Dev :=
  let x := d.mover m
  let d := d.setMover m { x with descs := x.descs.filter (·.id != y.id) }
  match y.issuer.core? with
  | some k =>
    let c := d.core k
    d.setCore k { c with ranges := c.ranges.filter (·.desc != y.id) }
  | none => d

/-- R261: the completion record. -/
def Desc.record (y : Desc) : List Byte :=
  leBytes y.check 8 ++ leBytes y.tscale 4 ++ leBytes y.dropped 2 ++ leBytes y.notes 1 ++ leBytes 0 1

/-- R262: the record is written; false when its page does not translate. -/
def Dev.writeRecord (d : Dev) (m : Nat) (y : Desc) : Dev × Bool :=
  let a := mResult y.raw.toNat
  if a = 0 then (d, true)
  else
    match d.moveLines (y.ctx.req m y.id) y.got { write := true } [a / 128] [] with
    | (d, got, none) => (d.setMover m ((d.mover m).setDesc { y with stalled := true, got := got }), false)
    | (d, _, some at_) =>
      (d.movWrite m y.issuer.core? y.ctx 0 (a / 128) at_ (lineOf (a % 128) y.record) (byteMask (a % 128) 16) false, true)

/-- R262: record, counts and milestone, in that order. -/
def Dev.completeDesc (d : Dev) (m : Nat) (y : Desc) : Dev :=
  match d.writeRecord m y with
  | (d, false) => d
  | (d, true) =>
    let r := y.raw.toNat
    let x := y.ctx
    let d := ((d.dropDesc m y).count F.MOV_DESC_COUNT_count m).count F.MOV_BYTES_WRITTEN_count m y.bytes
    let d := d.when (bitAt y.notes 3) (·.count F.MOV_POISON_COUNT_count m)
    let d := d.when (m < 200) (·.clusterEvent m 0x47)
    let d := d.when (mMsEn r) fun d => d.signal (moverAgent m) (mMs r) false (if mMsBytes r then y.bytes else 1)
    let d := d.trace x.part 11 (if m < 200 then m else 0xffff) 0xff 0xff x.tag x.seq y.bytes
    match y.issuer with
    | .command a q n => d.markDone a q n 0 0
    | .convoy .. => d.sweepLaunch x.part x.asid x.queue x.seq

def execDescriptorComplete (m id : Nat) (s : State) : Host.Outcome State Fault Refusal :=
  s.run (moverOk m) fun d => match (d.mover m).descs.find? (·.id == id) with
    | some y => if y.written && !y.stalled then d.underTag y.ctx.tag fun d => d.completeDesc m y else d
    | none => d

/-- R265: an unresolvable fault abandons an offer or a descriptor; no record or milestone follows. The command's abort and
the context's state are UNRESOLVABLE's. -/
def Dev.abandonDesc (d : Dev) (m id : Nat) : Dev :=
  let x := d.mover m
  match x.descs.find? (·.id == id) with
  | some y => (d.dropDesc m y).movFault m y.issuer y.ctx 0x10
  | none => match x.offers.find? (·.id == id) with
    | some o => (d.setMover m (x.dropOffer id)).movFault m o.issuer o.ctx 0x10
    | none => d

end Sys2Proof.Machine
end

