-- ==== Sys2Proof/Machine/CheckUnits.lean ====
section
/-! DEFINITION. The check-value units (R267 to R271, R273). -/

namespace Sys2Proof.Machine

def cvuIdle : Nat := 0
def cvuRunning : Nat := 1
def cvuSuspending : Nat := 2

def Dev.cvuState (d : Dev) (u : Nat) : Nat := d.fld F.MOV_CVU_STATUS_state u
def Dev.setCvuState (d : Dev) (u st : Nat) : Dev := d.setFld F.MOV_CVU_STATUS_state u st
/-- R271: registers closed to writes. -/
def Dev.cvuBusy (d : Dev) (u : Nat) : Bool := d.cvuState u == 1 || d.cvuState u == 2

/-- The partition of a unit's context. -/
def Dev.cvuPart (d : Dev) (u : Nat) : Nat := d.fld F.HIF_CTX_CFG_partition (d.fld F.MOV_CVU_CTRL_asid u)

/-- A unit as a translation requester (R395); a pair shares a mover TLB (R391). -/
def Dev.cvuReq (d : Dev) (u : Nat) : Requester :=
  { engine := 3, unit := u, part := d.cvuPart u, asid := d.fld F.MOV_CVU_CTRL_asid u, waiter := .cvu u,
    mover := some (300 + u / 2) }

/-- R267: the value of the polynomials' empty scan. -/
def crcEmpty (poly : Nat) : Nat := crcOf poly []

/-- R364: the milestone a scan would signal is invalid. -/
def Dev.cvuBadMs (d : Dev) (u : Nat) : Bool :=
  let h := d.reg .MOV_CVU_MS u
  d.flag F.MOV_CVU_CTRL_ms_en u && !(handleOk h && (d.flag F.MOV_CVU_CTRL_phys u || d.msOwned (d.cvuPart u) h))

/-- R269, R271: the end of a scan with a fault. -/
def Dev.cvuFault (d : Dev) (u cause : Nat) : Dev :=
  ({ d with cvuAborting := d.cvuAborting.erase u, cvuStalled := d.cvuStalled.erase u }.setCvuState u 5).setFld
    F.MOV_CVU_STATUS_fault u cause

/-- R269: a scan that has read everything: done, then its milestone. -/
def Dev.cvuDone (d : Dev) (u : Nat) : Dev :=
  let d := { d with cvuAborting := d.cvuAborting.erase u }.setCvuState u 4
  d.when (d.flag F.MOV_CVU_CTRL_ms_en u) fun d => d.signal (cvuAgent u) (d.reg .MOV_CVU_MS u) false 1

/-- R269: a go. -/
def Dev.cvuGo (d : Dev) (u : Nat) : Dev :=
  if d.cvuBusy u then d.setFld F.MOV_CVU_STATUS_busy_reject u 1
  else
    let d := (d.setFld F.MOV_CVU_STATUS_fault u 0).when (d.flag F.MOV_CVU_CTRL_init u) fun d =>
      d.setReg .MOV_CVU_VALUE u (crcEmpty (d.fld F.MOV_CVU_CTRL_poly u))
    let n := d.fld F.MOV_CVU_LENGTH_length u
    if d.cvuBadMs u then d.cvuFault u 3
    else if n > 2 ^ 40 then d.cvuFault u 4
    else if n = 0 then d.cvuDone u
    else d.setCvuState u cvuRunning

/-- What a step of a scan met: its bytes folded, a miss, or poison. -/
inductive ScanStep where
  | folded | missed | poisoned
deriving DecidableEq, Repr

/-- Bytes up to the next 128-byte aligned address, or to the end, read and folded. -/
def Dev.cvuFold (d : Dev) (u : Nat) : Dev × ScanStep :=
  let a := d.reg .MOV_CVU_START u
  let n := d.fld F.MOV_CVU_LENGTH_length u
  let len := min n (128 - a % 128)
  let agent := 300 + u / 2
  let fold (d : Dev) (bs : List Byte) : Dev :=
    let v := crcContinue (d.fld F.MOV_CVU_CTRL_poly u) (d.reg .MOV_CVU_VALUE u) bs
    ((d.setReg .MOV_CVU_VALUE u v).setReg .MOV_CVU_START u (a + len)).setFld F.MOV_CVU_LENGTH_length u (n - len)
  if d.flag F.MOV_CVU_CTRL_phys u then
    let (d, bs, p) := d.physRead agent 0 a len
    if p then (d, .poisoned) else (fold d bs, .folded)
  else
    match d.lookup (d.cvuReq u) [] a {} with
    | (d, .error k) => (d.requestPage (d.cvuReq u) k (pageOf a) {}, .missed)
    | (d, .ok (p, _)) =>
      let (d, v, q) := d.ioRead agent p.line p.key
      if q then (d, .poisoned) else (fold d (lineBytes v (a % 128) len), .folded)

/-- A running scan goes on for up to `n` steps: to its end, to the first miss, which stalls it, or to poison, which ends
it. -/
def Dev.cvuScan (d : Dev) (u : Nat) : Nat → Dev
  | 0 => d
  | n + 1 =>
    if d.fld F.MOV_CVU_LENGTH_length u = 0 then d
    else match d.cvuFold u with
      | (d, .folded) => Dev.cvuScan d u n
      | (d, .missed) => { d with cvuStalled := insSorted u d.cvuStalled }
      | (d, .poisoned) => d.cvuFault u 2

/-- Steps that end any scan. -/
def Dev.cvuAll (d : Dev) (u : Nat) : Nat := d.fld F.MOV_CVU_LENGTH_length u / 128 + 2
/-- A scan that may go on. -/
def Dev.cvuLive (d : Dev) (u : Nat) : Bool := d.cvuBusy u && !d.cvuStalled.contains u

def Dev.cvuSuspend (d : Dev) (u : Nat) : Dev := if d.cvuState u = cvuRunning then d.setCvuState u cvuSuspending else d

/-- R270: an abort; the state reads suspending until the boundary, as for a suspend. -/
def Dev.cvuAbort (d : Dev) (u : Nat) : Dev :=
  if d.cvuState u = cvuRunning then { d with cvuAborting := insSorted u d.cvuAborting }.setCvuState u cvuSuspending else d

/-- R270: the scan goes on for `n` 128-byte boundaries and stops there. One that reaches its end is done; one that meets a
miss or poison does not reach its boundary. -/
def Dev.cvuStop (d : Dev) (u n : Nat) : Dev :=
  if d.cvuState u != cvuSuspending || d.cvuStalled.contains u then d
  else
    let d := d.cvuScan u (n + 1)
    if d.cvuState u != cvuSuspending || d.cvuStalled.contains u then d
    else if d.fld F.MOV_CVU_LENGTH_length u = 0 then d.cvuDone u
    else if d.cvuAborting.contains u then { d with cvuAborting := d.cvuAborting.erase u }.setCvuState u 6
    else d.setCvuState u 3

/-- R269: the rest of a scan, and its end. -/
def Dev.cvuFinish (d : Dev) (u : Nat) : Dev :=
  if !d.cvuLive u then d
  else
    let d := d.cvuScan u (d.cvuAll u)
    if d.cvuBusy u && d.fld F.MOV_CVU_LENGTH_length u = 0 then d.cvuDone u else d

/-- R271: the scan goes on up to a poisoned line, if one is before it; a scan that meets none is left where it was. -/
def Dev.cvuToFault (d : Dev) (u : Nat) : Dev :=
  if !d.cvuLive u then d
  else
    let e := d.cvuScan u (d.cvuAll u)
    if e.cvuState u = 5 then e else d

def cvuOk (u : Nat) : Bool := u < 16

def execCvuGo (u : Nat) (s : State) : Host.Outcome State Fault Refusal := s.runBar (cvuOk u) (·.cvuGo u)
def execCvuSuspend (u : Nat) (s : State) : Host.Outcome State Fault Refusal := s.runBar (cvuOk u) (·.cvuSuspend u)
def execCvuAbort (u : Nat) (s : State) : Host.Outcome State Fault Refusal := s.runBar (cvuOk u) (·.cvuAbort u)
def execCvuStop (u n : Nat) (s : State) : Host.Outcome State Fault Refusal := s.run (cvuOk u) (·.cvuStop u n)
def execCvuScanDone (u : Nat) (s : State) : Host.Outcome State Fault Refusal := s.run (cvuOk u) (·.cvuFinish u)
def execCvuScanFault (u : Nat) (s : State) : Host.Outcome State Fault Refusal := s.run (cvuOk u) (·.cvuToFault u)

end Sys2Proof.Machine
end

