-- ==== Sys2Proof/Machine/Vault.lean ====
section
/-! DEFINITION. The vault controllers' own work: refresh, patrol scrub and row closing (R275, R286). -/

namespace Sys2Proof.Machine

/-- A vault whose controller works its DRAM: active or migrating (R302). -/
def Dev.vaultAwake (d : Dev) (v : Nat) : Bool := d.fld F.VLT_STATUS_state v == 2 || d.fld F.VLT_STATUS_state v == 6

/-- A symbol's upset added to a line; the same bits lost twice stand as they were. -/
def Dev.addUpset (d : Dev) (l sym mask : Nat) : Dev :=
  let es := d.upsets.getD l []
  { d with upsets := d.upsets.put l (combineErrs es [(sym, mask)]) [] }

/-- R275: a refresh closes every row of the vault. `lost` are the cells that lost their charge since the last one: vault-local
line, symbol of R283 and bits. -/
def Dev.refreshVault (d : Dev) (v : Nat) (lost : List (Nat × Nat × Nat)) : Dev :=
  if !d.vaultAwake v then d
  else
    let s := d.vaults.getD v {}
    let d := { d with vaults := d.vaults.insert v { s with open_ := [] } }
    d.each lost fun d x => d.addUpset (v * 2 ^ 23 + x.1) x.2.1 x.2.2

def upsetsOk (lost : List (Nat × Nat × Nat)) : Bool := lost.all fun x => x.1 < 2 ^ 23 && x.2.1 < 72 && x.2.2 < 2 ^ 16

def execRefresh (v : Nat) (lost : List (Nat × Nat × Nat)) (s : State) : Host.Outcome State Fault Refusal :=
  s.run (v < 200 && upsetsOk lost) (·.refreshVault v lost)

/-- R285, R286: one line scrubbed: read, a single-symbol error corrected in place by the read, and a line whose own cells
hold an uncorrectable error marked poisoned. An injected error leaves the stored line as it is (R302). -/
def Dev.scrubLine (d : Dev) (v line : Nat) : Dev :=
  if !d.vaultAwake v then d
  else
    let l := v * 2 ^ 23 + line
    let own := eccDecode (d.upsets.getD l [])
    let (d, _, _) := d.vaultRead l
    match own with
    | .detected => (({ d with upsets := d.upsets.erase l }).vaultTransfer l true).setPoison l true
    | _ => d

def execPatrolScrub (v line : Nat) (s : State) : Host.Outcome State Fault Refusal :=
  s.run (v < 200 && line < 2 ^ 23) (·.scrubLine v line)

/-- R275: a bank's row closed after 64 vault cycles without an access. -/
def Dev.closeRow (d : Dev) (v bank : Nat) : Dev :=
  let s := d.vaults.getD v {}
  { d with vaults := d.vaults.put v { s with open_ := s.open_.erase bank } {} }

def execRowClose (v bank : Nat) (s : State) : Host.Outcome State Fault Refusal :=
  s.run (v < 200 && bank < 64) (·.closeRow v bank)

end Sys2Proof.Machine
end

