-- ==== Sys2Proof/Machine/CacheRows.lean ====
section
/-! DEFINITION. The coherence protocol message by message (R318 to R326), and the caches' own events (R312, R313, R316,
R328, R329). -/

namespace Sys2Proof.Machine

/-- Lines that have a home: of the advertised vaults, and of the capacity devices fitted. -/
def Dev.homed (d : Dev) (l : Nat) : Bool :=
  if isStacked l then advertisedVault (lineVault l)
  else isCapacity l && lineChannel l < 32 && (l - capLineBase) % 2 ^ 27 < d.chanBytes / 128

/-- R322: may a request reach its home: a free line, or room in the slice's queue. -/
def Dev.homeTakes (d : Dev) (l : Nat) : Bool := (d.txn l).isNone || (d.home (lineHome l)).queue.length < 64

/-- Has an agent a request for a line on its way. -/
def Dev.asking (d : Dev) (a l : Nat) : Bool :=
  (match d.txn l with | some t => t.req.agent == a && t.req.op != .recall | none => false) ||
    (d.home (lineHome l)).queue.any fun r => r.agent == a && r.line == l

/-- A request reaches its home, which answers it where nothing need be asked of anyone. -/
def Dev.message (d : Dev) (r : HomeReq) : Dev := ((d.homeArrive r).homeSettle r.line).1

/-- A caching agent, a line that has a home is checked in the meaning, and a key selector. -/
def cachingOk (a l key : Nat) : Bool := a < 224 && l < 2 ^ 40 && key < 64

/-- R320: a request by an agent in one of the given states of the line. -/
def Dev.cacheRequest (d : Dev) (a l key : Nat) (op : HomeOp) (from_ : Option LineSt → Bool) : Dev :=
  if d.homed l && from_ (((d.agent a).find l).map (·.st)) && !d.asking a l && ((d.agent a).victim.find? l).isNone &&
    d.homeTakes l then d.message ⟨l, a, op, key⟩ else d

def execGetS (a l key : Nat) (s : State) : Host.Outcome State Fault Refusal :=
  s.run (cachingOk a l key) (·.cacheRequest a l key .getS (·.isNone))
def execGetM (a l key : Nat) (s : State) : Host.Outcome State Fault Refusal :=
  s.run (cachingOk a l key) (·.cacheRequest a l key .getM (·.isNone))
def execUpgrade (a l key : Nat) (s : State) : Host.Outcome State Fault Refusal :=
  s.run (cachingOk a l key) (·.cacheRequest a l key .upgrade fun x => x == some .S || x == some .O)

/-- R320: an eviction by an agent that holds the line clean, or dirty. -/
def Dev.cacheEvict (d : Dev) (a l : Nat) (dirty : Bool) : Dev :=
  match (d.agent a).find l with
  | some x =>
    if (x.st == .M || x.st == .O) == dirty && d.homed l && !d.asking a l && d.homeTakes l then d.evictLine a l else d
  | none => d

def execNotify (a l : Nat) (s : State) : Host.Outcome State Fault Refusal :=
  s.run (cachingOk a l 0) (·.cacheEvict a l false)
def execWriteBack (a l : Nat) (s : State) : Host.Outcome State Fault Refusal :=
  s.run (cachingOk a l 0) (·.cacheEvict a l true)

/-- R320, R322, R328: the forward of a line's transaction answered, if it is of the kind named; one that would take the line
away from an agent that holds it for its atomics waits. -/
def Dev.answerForward (d : Dev) (l : Nat) (kind : HomeOp → Bool) : Dev :=
  match d.txn l with
  | some t =>
    match t.fwd with
    | some a =>
      if kind t.req.op && !(t.req.op == .getM && (d.agent a).hold.contains l) then
        let (d, ans) := d.agentForward a l t.req.op
        ((d.takeForward t a ans).homeSettle l).1
      else d
    | none => d
  | none => d

def lineOk (l : Nat) : Bool := l < 2 ^ 40

def execForwardedRead (l : Nat) (s : State) : Host.Outcome State Fault Refusal :=
  s.run (lineOk l) (·.answerForward l (· == .getS))
def execForwardedExclusiveRead (l : Nat) (s : State) : Host.Outcome State Fault Refusal :=
  s.run (lineOk l) (·.answerForward l (· == .getM))
def execForwardedSnoopRead (l : Nat) (s : State) : Host.Outcome State Fault Refusal :=
  s.run (lineOk l) (·.answerForward l (· == .snoop))

/-- R320, R322: an invalidation reaches an agent, which drops its copy; its acknowledgement is on its way. -/
def Dev.answerInvalidate (d : Dev) (l a : Nat) : Dev :=
  match d.txn l with
  | some t =>
    if t.toInv.contains a then
      let (d, ans) := d.agentInvalidate a l
      d.takeInvalidate t a ans
    else d
  | none => d

def execInvalidate (l a : Nat) (s : State) : Host.Outcome State Fault Refusal :=
  s.run (lineOk l && a < 224) (·.answerInvalidate l a)

/-- R321: an acknowledgement reaches the home; the request completes once every one has. -/
def Dev.takeAck (d : Dev) (l a : Nat) : Dev :=
  match d.txn l with
  | some t => if t.acks.contains a then ((d.openTxn { t with acks := t.acks.erase a }).homeSettle l).1 else d
  | none => d

def execAcknowledgement (l a : Nat) (s : State) : Host.Outcome State Fault Refusal :=
  s.run (lineOk l && a < 224) (·.takeAck l a)

/-- I/O agents: 300 + g system movers and the units beside them, 310 + port, 320 + k links. -/
def ioAgentOk (a : Nat) : Bool := (300 ≤ a && a < 308) || (310 ≤ a && a < 312) || (320 ≤ a && a < 352)

/-- R325: a snoop read, or an invalidating write of a full line, reaches the line's home. -/
def Dev.ioMessage (d : Dev) (a l key : Nat) (op : HomeOp) : Dev :=
  if d.homed l && d.homeTakes l then d.message ⟨l, a, op, key⟩ else d

def execSnoopRead (a l key : Nat) (s : State) : Host.Outcome State Fault Refusal :=
  s.run (ioAgentOk a && lineOk l && key < 64) (·.ioMessage a l key .snoop)
def execInvalidatingWrite (a l key : Nat) (v : BitVec 1024) (s : State) : Host.Outcome State Fault Refusal :=
  s.run (ioAgentOk a && lineOk l && key < 64) (·.ioMessage a l key (.invWrite v fullMask false))

/-- R412: the host answers a back-invalidate: it holds the line no more, and the home goes on. -/
def Dev.backInvDone (d : Dev) (l : Nat) : Dev :=
  match d.txn l with
  | some t =>
    if t.backInv then
      (({ d.openTxn { t with backInv := false } with hostHeld := d.hostHeld.filter (·.2 != l) } : Dev).homeSettle l).1
    else d
  | none => d

def execBackInvalidateResponse (l : Nat) (s : State) : Host.Outcome State Fault Refusal := s.run (lineOk l) (·.backInvDone l)

/-! ### The caches' own events -/

/-- R312: a tracker that no store has continued for 64 core cycles. -/
def Dev.trackTimeout (d : Dev) (k i : Nat) : Dev :=
  let x := d.l1 k
  match x.trackers[i]? with
  | some t => d.setL1 k { x with trackers := setAt x.trackers i { t with count := 0, noAlloc := false } }
  | none => d

def execStoreTrackerTimeout (k i : Nat) (s : State) : Host.Outcome State Fault Refusal :=
  s.run (coreOk k && i < 4) (·.trackTimeout k i)

/-- R313: an idle entry of the combining buffer drains. -/
def execCombiningIdleDrain (k l : Nat) (s : State) : Host.Outcome State Fault Refusal :=
  s.run (coreOk k) fun d => d.drainEntry k l

/-- R316: a line prefetched into a cluster L2's side buffer, whose oldest of 64 entries is evicted where it is full. -/
def Dev.l2Prefetch (d : Dev) (c l key : Nat) : Dev :=
  if !d.homed l || ((d.agent c).find l).isSome || d.asking c l || ((d.agent c).victim.find? l).isSome then d
  else
    let old := if (d.agent c).side.length ≥ 64 then (d.agent c).side.head?.map (·.1) else none
    let d := match old with | some x => d.evictLine c x | none => d
    let g := d.agent c
    let d := d.setAgent c { g with side := g.side ++ [(l, { way := 0, st := .S, data := 0, age := 0, key := key, poison := false })] }
    (d.request ⟨l, c, .getS, key⟩).1

def execL2Prefetch (c l key : Nat) (s : State) : Host.Outcome State Fault Refusal :=
  s.run (c < 200 && lineOk l && key < 64) (·.l2Prefetch c l key)

/-- R329: every line of an L2 and of its side buffer leaves, after its cores' releases at CLUSTER scope. -/
def Dev.l2Flush (d : Dev) (c : Nat) : Dev :=
  let d := d.each ((List.range 8).map (· + 8 * c)) fun d k => (d.drainCombining k).l1Release k
  let g := d.agent c
  d.each (g.lines.map (·.1) ++ g.side.map (·.1)) fun d l => d.evictLine c l

/-- R329: a go; one during a flush has no effect. -/
def Dev.flushGo (d : Dev) (c : Nat) : Dev :=
  if d.flag F.DIR_FLUSH_busy c then d else (d.l2Flush c).setFld F.DIR_FLUSH_busy c 1

def execL2Flush (c : Nat) (s : State) : Host.Outcome State Fault Refusal :=
  s.runBar (c < 200) fun d => (d.wakeCluster c).flushGo c

/-- R329: the last line has left: none waits in the victim buffer. -/
def Dev.flushEnd (d : Dev) (c : Nat) : Dev := if (d.agent c).victim.isEmpty then d.setFld F.DIR_FLUSH_busy c 0 else d

def execL2FlushComplete (c : Nat) (s : State) : Host.Outcome State Fault Refusal := s.run (c < 200) (·.flushEnd c)

/-- R328: an agent's hold of a line for its atomics ends. -/
def Dev.holdEnd (d : Dev) (a l : Nat) : Dev :=
  let g := d.agent a
  d.setAgent a { g with hold := g.hold.erase l }

def execOwnershipHoldExpiry (a l : Nat) (s : State) : Host.Outcome State Fault Refusal :=
  s.run (a < 224) (·.holdEnd a l)

end Sys2Proof.Machine
end

