-- ==== Sys2Proof/Machine/Partitions.lean ====
section
/-! DEFINITION. Time slices, preemption, saved state, stealing and slowdown reports (R446 to R463). -/

namespace Sys2Proof.Machine

def partOk (p : Nat) : Bool := p < 16

/-! ### Slices (R447, R448) -/

/-- The holder of a partition's slice. -/
def Dev.holder (d : Dev) (p : Nat) : Option Nat :=
  if d.flag F.PRT_STATUS_holder_valid p then some (d.fld F.PRT_STATUS_holder p) else none
def Dev.slicePhase (d : Dev) (p : Nat) : Nat := d.fld F.PRT_STATUS_phase p
def Dev.setPhase (d : Dev) (p ph : Nat) : Dev := d.setFld F.PRT_STATUS_phase p ph

/-- Has a context a running queue with a fetched, ungranted command. -/
def Dev.hasFetched (d : Dev) (a : Nat) : Bool :=
  (List.range 64).any fun q => d.fld F.HIF_Q_STATUS_state (queueKey a q) == 1 && !(d.queue a q).fetched.isEmpty
def Dev.hasSaved (d : Dev) (p a : Nat) : Bool := (d.pstate p).saved.any (·.asid == a)

/-- R447. -/
def Dev.eligible (d : Dev) (p a : Nat) : Bool :=
  d.ctxPart a == p && d.flag F.HIF_CTX_CFG_enable a && !d.flag F.XLT_CTX_STATUS_faulted a && (d.hasFetched a || d.hasSaved p a)

/-- Has a context a granted command. -/
def Dev.hasGranted (d : Dev) (a : Nat) : Bool := (List.range 64).any fun q => !(d.queue a q).granted.isEmpty

/-- The contexts in the order in which the next holder is sought. -/
def sliceOrder (prev : Option Nat) : List Nat :=
  match prev with
  | none => List.range 64
  | some a => (List.range 64).map fun i => (a + 1 + i) % 64

/-- The slice ends. -/
def Dev.endSlice (d : Dev) (p : Nat) : Dev :=
  let d := d.setPstate p { (d.pstate p) with switching := false }
  (d.setFld F.PRT_STATUS_holder_valid p 0).setPhase p 0

/-- R447: with no holder, the first eligible context after the previous one; what it has saved is restored first. -/
def Dev.handover (d : Dev) (p : Nat) : Dev :=
  let s := d.pstate p
  if !(d.part p).enabled || s.draining || (d.holder p).isSome then d
  else
    match (sliceOrder s.prev).find? (d.eligible p ·) with
    | none => d
    | some a =>
      let d := d.setPstate p { s with prev := some a, switching := false }
      ((d.setFld F.PRT_STATUS_holder p a).setFld F.PRT_STATUS_holder_valid p 1).setPhase p (if d.hasSaved p a then 4 else 1)

/-! ### The preemption request (R453, R456) -/

/-- The resident workgroups of a context. -/
def Dev.residents (d : Dev) (p a : Nat) : List (Nat × Nat) :=
  d.cores.flatMap fun (k, c) =>
    (c.wgs.filter fun (_, x) => x.launch.part == p && x.launch.asid == a).map fun (w, _) => (k, w)

/-- The save slots of a partition in use. -/
def Dev.slotsUsed (d : Dev) (p : Nat) : List Nat :=
  ((List.range 64).filter fun a => d.ctxPart a == p && d.flag F.PRT_CTX_SAVE_saved a).map fun a => d.fld F.PRT_CTX_SAVE_slot a

/-- Does a convoy stop at once when it is preempted. -/
def CvyState.stopsAtOnce : CvyState → Bool
  | .running => false
  | .aborting => false
  | _ => true

/-- A convoy of a core stopped by force: its stalled access and its sleeping wait are abandoned (R454). -/
def Dev.forceStop (d : Dev) (k n : Nat) (v : Convoy) : Dev :=
  let d := d.setConvoy k n { v with saveForm := 2, stall := none, wait := none, resv := [] }
  match v.wait with
  | some w => d.dropSub k w.handle.toNat
  | none => d

/-- The convoys of a context that the preemption has asked to stop, each given to `g`. -/
def Dev.eachPreempted (d : Dev) (p a : Nat) (sel : Convoy → Bool) (g : Dev → Nat → Nat → Convoy → Dev) : Dev :=
  d.each (d.residents p a) fun d x =>
    d.each (d.wgConvoys x.1 x.2) fun d y => if sel y.2 then g d x.1 y.1 y.2 else d

/-- Convoys that wait stop at once. -/
def Dev.stopWaiting (d : Dev) (p a : Nat) : Dev :=
  d.eachPreempted p a (fun v => v.preempt && v.saveForm == 0 && v.state.stopsAtOnce) Dev.forceStop

/-- A switch that has nothing left to save ends the slice; the slot of a context with nothing saved frees. -/
def Dev.finishSwitch (d : Dev) (p a : Nat) : Dev :=
  if (d.slicePhase p = 2 || d.slicePhase p = 3) && (d.residents p a).isEmpty then (d.endSlice p).freeSlot p a else d

/-- R453: the holder is asked to stop, where a save slot is free (R456). -/
def Dev.requestPreempt (d : Dev) (p a : Nat) : Dev :=
  let s := d.pstate p
  let d := d.setPstate p { s with switching := true }
  if (d.residents p a).isEmpty then (d.setPhase p 2).finishSwitch p a
  else
    match (List.range (d.fld F.PRT_SAVE_CFG_slots p)).find? fun i => !(d.slotsUsed p).contains i with
    | none => d.setFld F.PRT_STATUS_slot_starved p 1
    | some i =>
      let d := (d.setFld F.PRT_CTX_SAVE_slot a i).setFld F.PRT_CTX_SAVE_saved a 1
      let d := (d.setPstate p { s with switching := true, preempts := s.preempts + 1 }).setPhase p 2
      let d := d.eachPreempted p a (fun v => v.state != .aborting) fun d k n v => d.setConvoy k n { v with preempt := true, resv := [] }
      d.stopWaiting p a

/-- Does another context of the partition wait for the slice. -/
def Dev.otherEligible (d : Dev) (p a : Nat) : Bool := (List.range 64).any fun b => b != a && d.eligible p b

/-- The dispatcher looks at its slice again, after a command has completed or a slot has freed: an empty slice ends at once
(R448), a switch that is over ends, and one that found no slot is tried again (R456). -/
def Dev.sliceLook (d : Dev) (p : Nat) : Dev :=
  match d.holder p with
  | none => d
  | some a =>
    let s := d.pstate p
    if d.slicePhase p = 1 then
      if !d.hasGranted a && !d.eligible p a then d.endSlice p
      else if s.draining || (s.switching && d.otherEligible p a) then d.requestPreempt p a
      else d
    else d.finishSwitch p a

def execSliceHandover (p : Nat) (s : State) : Host.Outcome State Fault Refusal :=
  s.run (partOk p) fun d => (d.sliceLook p).handover p

/-- R448: the slice of the holder ends, by its quantum or by hand. -/
def Dev.sliceEnd (d : Dev) (p : Nat) : Dev :=
  match d.holder p with
  | none => d
  | some a =>
    if d.slicePhase p != 1 then d
    else if !d.hasGranted a && !d.eligible p a then d.endSlice p
    else if d.otherEligible p a then d.requestPreempt p a
    else d

def execQuantumExpiry (p : Nat) (s : State) : Host.Outcome State Fault Refusal := s.run (partOk p) (·.sliceEnd p)
def execEndNow (p : Nat) (s : State) : Host.Outcome State Fault Refusal := s.runBar (partOk p) (·.sliceEnd p)

/-- R453: the grace time ends; what has not stopped is stopped at its next instruction boundary. -/
def Dev.graceEnd (d : Dev) (p : Nat) : Dev :=
  match d.holder p with
  | some a =>
    if d.slicePhase p = 2 || d.slicePhase p = 3 then
      d.eachPreempted p a (fun v => v.preempt && v.saveForm == 0 && v.state != .aborting) Dev.forceStop
    else d
  | none => d

def execGraceExpiry (p : Nat) (s : State) : Host.Outcome State Fault Refusal := s.run (partOk p) (·.graceEnd p)

/-! ### The save region (R455, R457) -/

/-- CVY_STATE's code of a state (R104). -/
def CvyState.code : CvyState → Nat
  | .running => 1 | .sleeping => 2 | .arrived => 3 | .held => 4 | .halted => 5 | .haltedOnTrap => 6 | .aborting => 7

def CvyState.ofCode (n : Nat) : CvyState :=
  match n with
  | 3 => .arrived | 4 => .held | 5 => .halted | 6 => .haltedOnTrap | _ => .running

/-- The number of the line at which the region of a core begins, in its cluster's vault. -/
def Dev.saveLine (d : Dev) (p a k : Nat) : Nat :=
  coreCluster k * 2 ^ 23 + ((d.fld F.PRT_SAVE_CFG_band p + d.fld F.PRT_CTX_SAVE_slot a) * 2 ^ 22 + k % 8 * 2 ^ 19) / 128

/-- Bytes written at an offset of a region whose first line is `l`, past the L1 and the L2 (R455). -/
def Dev.regionWrite (d : Dev) (key l o : Nat) (bs : List Byte) : Dev :=
  ((pieces o bs.length).foldl (fun (acc : Dev × List Byte) pc =>
    (acc.1.ioWrite ringAgent (l + pc.1 / 128) key (lineOf (pc.1 % 128) (acc.2.take pc.2)) (byteMask (pc.1 % 128) pc.2) false,
     acc.2.drop pc.2)) (d, bs)).1

def Dev.regionRead (d : Dev) (key l o n : Nat) : Dev × List Byte :=
  (pieces o n).foldl (fun (acc : Dev × List Byte) pc =>
    let (d, v, _) := acc.1.ioRead ringAgent (l + pc.1 / 128) key
    (d, acc.2 ++ lineBytes v (pc.1 % 128) pc.2)) (d, [])

/-- A byte list with `bs` from position `o`. -/
def patchBytes (l : List Byte) (o : Nat) (bs : List Byte) : List Byte := l.take o ++ bs ++ l.drop (o + bs.length)
/-- A byte list made `n` long with zeros. -/
def padBytes (l : List Byte) (n : Nat) : List Byte := (l ++ List.replicate (n - l.length) 0).take n
/-- The field of `n` bytes at `o`. -/
def byteField (l : List Byte) (o n : Nat) : Nat := leNat ((l.drop o).take n)

/-- The eight predicates of a lane. -/
def Convoy.laneP (v : Convoy) (t : Nat) : Nat := listMask ((List.range 8).filter fun i => (v.pr i).getLsbD t)

/-- A convoy record. -/
def convoyRecord (v : Convoy) (entry first groups : Nat) : List Byte :=
  let t := v.trap.getD ⟨0, 0, 0⟩
  let flags := b2n v.detouring + 2 * b2n v.divert.isSome + 4 * b2n v.trap.isSome + 8 * b2n v.inHandler
  let x := match v.divert with | some y => (y.pc.toNat, y.tile) | none => (0, 0)
  let head := leBytes v.pc.toNat 8 ++ leBytes v.active.toNat 8 ++ leBytes v.live.toNat 8 ++ leBytes v.parked.toNat 8 ++
    leBytes v.state.code 1 ++ leBytes v.saveForm 1 ++ leBytes v.barIdx 1 ++ leBytes entry 1 ++ leBytes v.index 1 ++
    leBytes v.vRegs 1 ++ leBytes flags 1 ++ leBytes t.cause 1 ++ leBytes first 2 ++ leBytes groups 2 ++ leBytes 0 4 ++
    leBytes v.barAddr.toNat 8 ++ leBytes t.pc.toNat 8 ++ leBytes t.lanes.toNat 8 ++ leBytes x.1 8 ++ leBytes x.2 1
  padBytes (padBytes head 0x80 ++ (List.range 64).flatMap (fun i => leBytes (v.laneP i) 1) ++
    (List.range 64).flatMap (fun r => leBytes (v.ur r) 8) ++ stackBytes v.stack) 0x800

/-- A workgroup entry. -/
def wgEntry (x : WG) (slots off : Nat) (cvs : List (Nat × Convoy)) : List Byte :=
  let l := x.launch
  let arrived (b : Nat) : Nat := listMask ((cvs.filter fun y => y.2.arrivedAt b).map (·.1))
  padBytes (leBytes l.cookie.toNat 8 ++ leBytes l.seq 4 ++ leBytes l.queue 1 ++ leBytes x.count 1 ++ leBytes slots 2 ++
    leBytes x.coord.1 4 ++ leBytes x.coord.2.1 2 ++ leBytes x.coord.2.2 2 ++ leBytes off 4 ++ leBytes l.localBytes 4 ++
    leBytes x.tiles 1 ++ leBytes 0 7 ++ (List.range 8).flatMap fun b => leBytes (arrived b) 2) 0x40

/-- The attributes of a stationary buffer. -/
def StatBuf.attr (b : StatBuf) : Nat := b.fmt + 32 * b2n b.sparse + 64 * b2n b.scaled + 128 * b2n b.filled
/-- The image of a stationary buffer. -/
def StatBuf.image (b : StatBuf) : List Byte :=
  leBytes b.values.toNat (valueBytes b.fmt) ++ leBytes b.meta_.toNat (metaBytes b.fmt b.sparse) ++
    leBytes b.scales.toNat (scaleBytes b.fmt b.sparse b.scaled)
/-- A buffer from its attributes and what its image's place holds. -/
def Dev.bufOf (d : Dev) (attr : Nat) (bs : List Byte) : StatBuf :=
  let fmt := bits attr 4 0
  if bitAt attr 7 then StatBuf.ofImage fmt (bitAt attr 5) (bitAt attr 6) (d.fmtDesc fmt).codebook bs else {}

/-- The V groups written for a convoy: those its LAYBY named, or all of its own (R458). -/
def Convoy.savedGroups (v : Convoy) : Nat :=
  let own := 2 ^ ((v.vRegs + 7) / 8) - 1
  if v.saveForm = 1 then v.vGroups &&& own else own

/-- The tiles written for a workgroup, by its own numbering (R458). -/
def savedTiles (x : WG) (cvs : List (Nat × Convoy)) : List Nat :=
  (List.range (popCount x.tiles 8)).filter fun i => cvs.any fun y => y.2.saveForm == 2 || bitAt y.2.keepTiles i

/-- A tile's 8 KiB. -/
def ArrayState.tileBytes (a : ArrayState) (t : Nat) : List Byte :=
  (List.range 2048).flatMap fun i => leBytes (a.elem t (i / 32) (i % 32)) 4
def ArrayState.setTileBytes (a : ArrayState) (t : Nat) (bs : List Byte) : ArrayState :=
  (List.range 2048).foldl (fun a i => a.setElem t (i / 32) (i % 32) (byteField bs (4 * i) 4)) a

/-! ### Saving (R454, R458) -/

/-- R454: may a workgroup be saved: every convoy has stopped, and nothing that any of them issued is outstanding. -/
def Dev.saveReady (d : Dev) (k w : Nat) : Bool :=
  let cs := d.wgConvoys k w
  let mine (i : Issuer) : Bool := match i with | .convoy k' _ w' => k' == k && w' == w | .command _ _ _ => false
  !cs.isEmpty && cs.all (fun y => y.2.saveForm != 0 && y.2.state != .aborting && !d.inFlight k y.1) &&
    !(d.arr k).inflight.any (·.wg == w) && !((d.arr k).owner == some w && (d.arr k).stage.isSome) &&
    d.movers.all fun y => !y.2.offers.any (fun o => mine o.issuer) && !y.2.descs.any fun o => mine o.issuer

/-- What a saved workgroup keeps of a convoy beside its record. -/
def Convoy.hidden (v : Convoy) : Convoy := { v with v := [], u := [], p := [], spilled := v.stack ++ v.spilled, stack := [] }

/-- The core header with a further workgroup. -/
def Dev.headerWith (d : Dev) (k w a entry slots : Nat) (x : WG) (tiles : List Nat) (old : List Byte) : List Byte :=
  let arr := d.arr k
  let owns := arr.owner == some w
  let h := patchBytes old 0 (leBytes 0x56534E56 4 ++ leBytes a 1 ++ leBytes (entry + 1) 1 ++
    leBytes (byteField old 6 2 ||| slots) 2 ++ leBytes (byteField old 8 1 ||| listMask tiles) 1)
  let h := if owns then
      patchBytes (patchBytes h 9 (leBytes (1 + 2 * entry) 1)) 0xc (leBytes arr.front.attr 2 ++ leBytes arr.back.attr 2)
    else h
  (maskList x.tiles 8).foldl (fun h t => patchBytes h (0x10 + 8 * t) (leBytes (arr.stat t) 8)) h

/-- A workgroup written to its core's save region, and off the core. -/
def Dev.saveWg (d : Dev) (p a k w : Nat) (x : WG) : Dev :=
  let cvs := d.wgConvoys k w
  let d := d.each cvs fun d y => (d.release k y.1 3)
  let key := d.fld F.PRT_SAVE_CFG_key p
  let l := d.saveLine p a k
  let s := d.pstate p
  let mine := s.saved.filter fun y => y.asid == a && y.core == k
  let entry := (mine.foldl (fun n y => max n (y.entry + 1)) 0)
  let off := mine.foldl (fun n y => max n (y.localOff + y.wg.launch.localBytes)) 0
  let first := mine.foldl (fun n y => max n (y.firstUnit + y.units)) 0
  let slots := listMask (cvs.map (·.1))
  let tiles := (savedTiles x cvs).filterMap fun i => (maskList x.tiles 8)[i]?
  let arr := d.arr k
  let (d, old) := if mine.isEmpty then (d, List.replicate 0x50 0) else d.regionRead key l 0 0x50
  let d := d.regionWrite key l 0 (d.headerWith k w a entry slots x tiles old)
  let d := d.regionWrite key l (0x100 + 0x40 * entry) (wgEntry x slots off cvs)
  let d := if arr.owner == some w then
      (d.regionWrite key l 0x1000 arr.front.image).regionWrite key l 0x1800 arr.back.image
    else d
  let d := d.each tiles fun d t => d.regionWrite key l (0xa000 + 0x2000 * t) (arr.tileBytes t)
  let d := d.regionWrite key l (0x1a000 + off) (readBytes (d.core k).localMem x.localOff x.launch.localBytes)
  let (d, _) := cvs.foldl (fun (acc : Dev × Nat) y =>
    let v := y.2
    let g := v.savedGroups
    let d := acc.1.regionWrite key l (0x2000 + 0x800 * y.1) (convoyRecord v entry acc.2 g)
    let d := d.each ((List.range v.vRegs).filter fun r => bitAt g (r / 8)) fun d r =>
      d.regionWrite key l (0x3a000 + 256 * (acc.2 + r)) ((List.range 64).flatMap fun t => leBytes (v.vr r t) 4)
    let lt := x.launch
    let d := (d.count F.PRT_PREEMPT_COUNT_count p).when (v.saveForm == 2) (·.count F.PRT_FORCED_COUNT_count p)
    (d.trace p 12 (coreCluster k) (k % 8) y.1 lt.tag lt.seq v.saveForm, acc.2 + v.vRegs)) (d, first)
  let y : SavedWg :=
    { asid := a, core := k, entry := entry, queue := x.launch.queue, seq := x.launch.seq, chunkNo := x.chunkNo, localOff := off,
      firstUnit := first, units := cvs.foldl (fun n y => n + y.2.vRegs) 0, wg := x, cvs := cvs.map fun y => (y.1, y.2.hidden) }
  let d := (d.setPstate p { s with saved := s.saved ++ [y] }).setPhase p 3
  (d.releaseWg k w).finishSwitch p a

/-- The workgroup of a stopped convoy saved, once all of its convoys have stopped and what they issued is complete. -/
def execConvoySave (k n : Nat) (s : State) : Host.Outcome State Fault Refusal :=
  s.run (convoyOk k n) fun d =>
    match d.convoy? k n with
    | none => d
    | some v =>
      match d.wg? k v.wg with
      | none => d
      | some x =>
        let p := x.launch.part
        let a := x.launch.asid
        if !(d.holder p == some a && (d.slicePhase p = 2 || d.slicePhase p = 3)) then d
        else
          let d := d.stopWaiting p a
          if d.saveReady k v.wg then d.saveWg p a k v.wg x else d

/-! ### Restoring (R460) -/

/-- A convoy from its record, with what was kept beside it; `tile` takes an old physical tile to its new one. -/
def restoreConvoy (h : Convoy) (w : Nat) (tile : Nat → Nat) (r : List Byte) : Convoy :=
  let b (o n : Nat) : Word := BitVec.ofNat 64 (byteField r o n)
  let stack := ((stackEntriesOf ((r.drop 0x2e0).take 1024) (byteField r 0x2c0 8)).getD []).reverse
  let flags := byteField r 0x26 1
  let divert := match h.divert with
    | some x => if bitAt flags 1 then
        some { x with pc := b 0x48 8, tile := tile (byteField r 0x50 1), old := x.old.map fun y => (y.1 % 2048 + tile x.tile * 2048, y.2) }
      else none
    | none => none
  let v : Convoy :=
    { h with
      wg := w, pc := b 0 8, active := b 8 8, live := b 0x10 8, parked := b 0x18 8, state := CvyState.ofCode (byteField r 0x20 1),
      barIdx := byteField r 0x22 1, index := byteField r 0x24 1, vRegs := byteField r 0x25 1, detouring := bitAt flags 0,
      divert := divert, inHandler := bitAt flags 3, barAddr := b 0x30 8,
      trap := if bitAt flags 2 then some ⟨byteField r 0x27 1, b 0x38 8, b 0x40 8⟩ else none,
      stack := fillPaths h.spilled (b 8 8 ||| b 0x18 8) stack, wait := none, stall := none, preempt := false, saveForm := 0,
      vGroups := 0xffff, keepTiles := 0xff, resv := [] }
  let v := (List.range 8).foldl (fun (v : Convoy) i =>
    v.setPr i (maskOf ((List.range 64).filter fun t => bitAt (byteField r (0x80 + t) 1) i))) v
  (List.range 64).foldl (fun (v : Convoy) i => v.setUr i (byteField r (0xc0 + 8 * i) 8)) v

/-- The registers of the groups that were written; the others read as zero (R146). -/
def Dev.restoreRegs (d : Dev) (key l : Nat) (r : List Byte) (v : Convoy) : Dev × Convoy :=
  let first := byteField r 0x28 2
  let g := byteField r 0x2a 2
  ((List.range v.vRegs).filter fun i => bitAt g (i / 8)).foldl (fun (acc : Dev × Convoy) i =>
    let (d, bs) := acc.1.regionRead key l (0x3a000 + 256 * (first + i)) 256
    (d, (List.range 64).foldl (fun (v : Convoy) t => v.setVr i t (byteField bs (4 * t) 4)) acc.2)) (d, v)

/-- The trap registers of a convoy that had a trap recorded. -/
def Dev.restoreTrap (d : Dev) (k n : Nat) (v : Convoy) : Dev :=
  match v.trap with
  | none => d
  | some t =>
    let i := k * 16 + n
    (((d.setFld F.CVY_TRAP_INFO_valid i 1).setFld F.CVY_TRAP_INFO_cause i t.cause).setReg .CVY_TRAP_LANES i t.lanes.toNat).setReg
      .CVY_TRAP_PC i t.pc.toNat

/-- A saved workgroup put back on its core. -/
def Dev.restoreWg (d : Dev) (p a : Nat) (y : SavedWg) : Dev :=
  let k := y.core
  let key := d.fld F.PRT_SAVE_CFG_key p
  let l := d.saveLine p a k
  let (d, h) := d.regionRead key l 0 0x50
  let (d, e) := d.regionRead key l (0x100 + 0x40 * y.entry) 0x40
  let c := d.core k
  let w := lowestFree c.wgs.keys 16
  let bytes := byteField e 0x1c 4
  let off := c.localPlace bytes
  let old := maskList (byteField e 0x20 1) 8
  let tiles := c.freeTiles old.length
  let new := maskList tiles 8
  let tile (t : Nat) : Nat := (((old.zip new).find? fun z => z.1 == t).map (·.2)).getD 0
  let stat := byteField h 9 1
  let owns := bitAt stat 0 && bits stat 4 1 == y.entry
  let x : WG := { y.wg with localOff := off, tiles := tiles, arrivedAt := y.wg.arrivedAt.map fun z => (z.1, d.time), hungBars := [] }
  let (d, store) := d.regionRead key l (0x1a000 + byteField e 0x18 4) bytes
  let (d, arr) := (old.zip new).foldl (fun (acc : Dev × ArrayState) t =>
    let arr := (acc.2.restoreRows t.2 [] (BitVec.ofNat 64 (2 ^ 64 - 1))).setStat t.2 (byteField h (0x10 + 8 * t.1) 8)
    if bitAt (byteField h 8 1) t.1 then
      let (d, bs) := acc.1.regionRead key l (0xa000 + 0x2000 * t.1) 0x2000
      (d, arr.setTileBytes t.2 bs)
    else (acc.1, arr)) (d, c.arr)
  let (d, arr) := if owns then
      let (d, f) := d.regionRead key l 0x1000 0x800
      let (d, g) := d.regionRead key l 0x1800 0x800
      let arr : ArrayState :=
        { arr with owner := some w, front := d.bufOf (byteField h 0xc 2) f, back := d.bufOf (byteField h 0xe 2) g,
                   stagedSinceSwap := bitAt (byteField h 0xe 2) 7 }
      (d, arr)
    else (d, arr)
  let (d, cvs) := y.cvs.foldl (fun (acc : Dev × NMap Convoy) z =>
    let (d, r) := acc.1.regionRead key l (0x2000 + 0x800 * z.1) 0x800
    let (d, v) := d.restoreRegs key l r (restoreConvoy z.2 w tile r)
    let lt := x.launch
    ((d.restoreTrap k z.1 v).trace p 13 (coreCluster k) (k % 8) z.1 lt.tag lt.seq 0, NMap.insert acc.2 z.1 v)) (d, c.convoys)
  let mem := writeBytes (c.localMem.filter fun z => z.1 < off || off + bytes ≤ z.1) off store
  let d := d.setCore k { (d.core k) with wgs := NMap.insert c.wgs w x, convoys := cvs, arr := arr, localMem := mem }
  (d.ungate k).acquire k 3

/-- The `i`-th saved workgroup of the holder restored; with the last one the slot frees and the quantum starts. -/
def execRestore (p i : Nat) (s : State) : Host.Outcome State Fault Refusal :=
  s.run (partOk p) fun d =>
    match d.holder p with
    | none => d
    | some a =>
      if d.slicePhase p != 4 then d
      else
        let d := match ((d.pstate p).saved.filter (·.asid == a))[i]? with
          | some y =>
            let d := d.restoreWg p a y
            d.setPstate p { (d.pstate p) with saved := (d.pstate p).saved.erase y }
          | none => d
        if d.hasSaved p a then d
        else
          let d := (d.freeSlot p a).setPhase p 1
          if (d.pstate p).draining then d.requestPreempt p a else d

/-! ### Stealing (R452) -/

/-- The chunks of a queue that have not begun. -/
def unbegun (l : List Chunk) : List Chunk := l.filter (·.begun == 0)

/-- R452: is a cluster idle for a launch. -/
def Dev.idleFor (d : Dev) (p c : Nat) (y : Launch) : Bool :=
  y.stopped.isNone && d.sliceRuns p y.info.asid && (y.queueOf c).isEmpty && (List.range 8).any fun i => d.coreFits (c * 8 + i) y.info

/-- Launch `i` of the partition's grant order: the idle cluster takes half of the nearest cluster's unstarted chunks from the
back of its queue. -/
def Dev.steal (d : Dev) (c i : Nat) : Dev :=
  match d.clusterPart c with
  | none => d
  | some p =>
    match (d.pstate p).launches[i]? with
    | none => d
    | some y =>
      if !d.idleFor p c y then d
      else
        match minBy (fun v => hops (clusterPos c) (clusterPos v))
            ((d.partClusters p).filter fun v => v != c && !(unbegun (y.queueOf v)).isEmpty) with
        | none => d
        | some v =>
          let q := y.queueOf v
          let n := ((unbegun q).length + 1) / 2
          let taken := q.drop (q.length - n)
          let d := d.onLaunch p y.info fun z => (z.setQueue v (q.take (q.length - n))).setQueue c taken
          let d := d.setPstate p { (d.pstate p) with steals := (d.pstate p).steals + 1 }
          (d.count F.PRT_STEAL_COUNT_count p).clusterEvent c 0x4e

def execSteal (c i : Nat) (s : State) : Host.Outcome State Fault Refusal := s.run (c < 200) (·.steal c i)

/-! ### Slowdown (R462, R463) -/

/-- R462. -/
def slowdown (active held : Nat) : Nat :=
  if active = 0 then 256 else if active ≤ held then 0xffff else min 0xffff (256 * active / (active - held))

/-- A period's measurements recorded. -/
def Dev.slowPeriod (d : Dev) (p active held floors : Nat) : Dev :=
  if !(d.part p).enabled then d
  else
    let s := d.pstate p
    let n := s.period + 1
    let x := slowdown active held
    let rec_ := leBytes d.time 8 ++ leBytes p 1 ++ leBytes ((d.holder p).getD 0xff) 1 ++ leBytes x 2 ++ leBytes n 4 ++
      leBytes (min active (2 ^ 32 - 1)) 4 ++ leBytes (min held (2 ^ 32 - 1)) 4 ++ leBytes floors 1 ++ leBytes 0 1 ++
      leBytes s.preempts 2 ++ leBytes s.steals 4
    let d := d.setPstate p { s with period := n, preempts := 0, steals := 0 }
    let d := d.setReg .PRT_SLOW_LAST p (x * 2 ^ 16 + n % 2 ^ 16)
    match d.ring .PRT_SLOW_RING p with
    | none => d
    | some (_, size) =>
      let head := d.fld F.PRT_SLOW_HEAD_index p
      let tail := d.fld F.PRT_SLOW_TAIL_index p
      if ringFree head tail size = 0 then d.setFld F.PRT_STATUS_slow_dropped p 1
      else
        (d.ringPush .PRT_SLOW_RING F.PRT_SLOW_HEAD_index p rec_).when (head % size == tail % size) (·.sendCtrl .PRT_SLOW_CTRL p)

/-- `active` and `held` are the sums A and I of R462, `floors` the mask of floors served. -/
def execSlowdownPeriod (p active held floors : Nat) (s : State) : Host.Outcome State Fault Refusal :=
  s.run (partOk p && held ≤ active && floors < 8) (·.slowPeriod p active held floors)

end Sys2Proof.Machine
end

