-- ==== Sys2Proof/Machine/Host.lean ====
section
/-! DEFINITION. Queues, commands and events (R417 to R438), BAR4 (R411, R415), and the Qorriop cores' start (R440). -/

namespace Sys2Proof.Machine

def mod32 (n : Nat) : Nat := n % 2 ^ 32
/-- The distance from `b` up to `a`, modulo 2^32. -/
def seqDist (a b : Nat) : Nat := (a + 2 ^ 32 - b % 2 ^ 32) % 2 ^ 32

def queueOk (a q : Nat) : Bool := a < 64 && q < 64

/-! ### The fields of a command (R423) -/

def cB (r o n : Nat) : Nat := bits r (8 * (o + n) - 1) (8 * o)
def cOp (r : Nat) : Nat := cB r 0 1
def cFlags (r : Nat) : Nat := cB r 1 1
def cWaitEn (r i : Nat) : Bool := bitAt (cFlags r) i
def cEvent (r : Nat) : Bool := bitAt (cFlags r) 2
def cSerial (r : Nat) : Bool := bitAt (cFlags r) 3
def cPolicy (r : Nat) : Nat := bits (cFlags r) 5 4
def cSignalEn (r : Nat) : Bool := bitAt (cFlags r) 6
def cTag (r : Nat) : Nat := cB r 2 2
def cLayer (r : Nat) : Nat := cB r 4 2
def cOperator (r : Nat) : Nat := cB r 6 2
def cCookie (r : Nat) : Nat := cB r 8 8
def cTarget (r i : Nat) : Nat := cB r (0x10 + 8 * i) 8
def cWait (r i : Nat) : Nat := cB r (0x20 + 4 * i) 4
def cPay (r i : Nat) : Nat := cB r (0x28 + 8 * i) 8
def cSignal (r : Nat) : Nat := cB r 0x38 4
def cSigOp (r : Nat) : Nat := cB r 0x3c 4

/-! ### Queues -/

def Dev.qState (d : Dev) (a q : Nat) : Nat := d.fld F.HIF_Q_STATUS_state (queueKey a q)
def Dev.setQState (d : Dev) (a q st : Nat) : Dev := d.setFld F.HIF_Q_STATUS_state (queueKey a q) st
/-- Entries of the command ring and of the event ring, 0 where not configured. -/
def Dev.qSize (d : Dev) (a q : Nat) : Nat :=
  let n := d.fld F.HIF_Q_RING_log2_entries (queueKey a q)
  if n = 0 then 0 else 2 ^ n
def Dev.evSize (d : Dev) (a q : Nat) : Nat :=
  let n := d.fld F.HIF_Q_EVRING_log2_entries (queueKey a q)
  if n = 0 then 0 else 2 ^ n
def Dev.qTail (d : Dev) (a q : Nat) : Nat := d.reg .HIF_Q_TAIL (queueKey a q)
def Dev.qHead (d : Dev) (a q : Nat) : Nat := d.reg .HIF_Q_HEAD (queueKey a q)
def Dev.qGranted (d : Dev) (a q : Nat) : Nat := d.reg .HIF_Q_GRANTED (queueKey a q)
def Dev.evHead (d : Dev) (a q : Nat) : Nat := d.reg .HIF_Q_EVHEAD (queueKey a q)
def Dev.ctxFaulted (d : Dev) (a : Nat) : Bool := d.flag F.XLT_CTX_STATUS_faulted a
def Dev.ctxEnabled (d : Dev) (a : Nat) : Bool := d.flag F.HIF_CTX_CFG_enable a

/-- R419: HIF_Q_GRANTED follows the oldest command fetched and not granted. -/
def Dev.syncGranted (d : Dev) (a q : Nat) : Dev :=
  let g := match (d.queue a q).fetched.head? with | some c => c.seq | none => d.qHead a q
  d.setReg .HIF_Q_GRANTED (queueKey a q) g

/-- A queue's dispatcher as a translation requester. -/
def Dev.queueReq (d : Dev) (a : Nat) (w : Waiter) (tag : Nat × Nat × Nat := (0, 0, 0)) : Requester :=
  let p := d.ctxPart a
  { engine := (Config.dispatcherEngine p).toNat, unit := (Config.dispatcherUnit p).toNat, part := p, asid := a,
    ctxTag := tag.1, layer := tag.2.1, op := tag.2.2, waiter := w }

/-- `n` bytes within one line at a virtual address, read for a queue. -/
def Dev.queueRead (d : Dev) (w : Requester) (va n : Nat) : Dev × Option (List Byte) :=
  match d.lookup w [] va {} with
  | (d, .error k) => (d.requestPage w k (pageOf va) {}, none)
  | (d, .ok (p, _)) =>
    let (d, v, _) := d.ioRead ringAgent p.line p.key
    (d, some (lineBytes v (va % 128) n))

/-- Bytes within one line at a virtual address, written for a queue; false when the page does not translate. -/
def Dev.queueWrite (d : Dev) (w : Requester) (va : Nat) (bs : List Byte) : Dev × Bool :=
  match d.lookup w [] va { write := true } with
  | (d, .error k) => (d.requestPage w k (pageOf va) { write := true }, false)
  | (d, .ok (p, _)) => (d.ioWrite ringAgent p.line p.key (lineOf (va % 128) bs) (byteMask (va % 128) bs.length) false, true)

/-- R420: a doorbell. -/
def Dev.doorbell (d : Dev) (a q tail : Nat) : Dev :=
  let d := d.wakePkg
  let i := queueKey a q
  let h := d.qHead a q
  if seqDist tail h ≤ d.qSize a q && seqDist (d.qTail a q) h ≤ seqDist tail h then d.setReg .HIF_Q_TAIL i tail
  else d.setFld F.HIF_Q_STATUS_bad_tail i 1

def execDoorbell (a q : Nat) (tail : BitVec 32) (s : State) : Host.Outcome State Fault Refusal :=
  s.run (queueOk a q) (·.doorbell a q tail.toNat)

/-! ### Completion (R431 to R434) -/

/-- The interrupt of a queue (R416, R441); one that cannot be sent is recorded. -/
def Dev.queueIrq (d : Dev) (a q : Nat) : Dev :=
  let i := queueKey a q
  let v := d.fld F.HIF_Q_CTRL_vector i
  let bad := d.setFld F.HIF_Q_STATUS_bad_vector i 1
  if !d.flag F.HIF_Q_CTRL_irq_en i then d
  else if d.flag F.HIF_Q_CTRL_self i then
    let k := d.fld F.HIF_Q_CTRL_hart i
    if v = 0 || k ≥ 24 || heldHart k then bad else { d.barWake with irqs := d.irqs ++ [.imsic k v] }
  else
    let port := d.fld F.HIF_CTX_CFG_port a
    let fn := d.fld F.HIF_CTX_CFG_function a
    if v < d.msixSize port fn then { d with irqs := d.irqs ++ [.msix port fn v] } else bad

/-- The 32 bytes of an event entry (R432). -/
def eventBytes (g : GCmd) (phase : Bool) (time : Nat) : List Byte :=
  let r := g.cmd.raw.toNat
  leBytes (cCookie r) 8 ++ leBytes g.cmd.seq 4 ++ leBytes g.status 1 ++ leBytes (cOp r) 1 ++
    leBytes (b2n (cEvent r) + 128 * b2n phase) 1 ++ leBytes g.detail 1 ++ leBytes (cTag r % 2 ^ 12) 2 ++ leBytes (cLayer r) 2 ++
    leBytes (cOperator r) 2 ++ leBytes 0 2 ++ leBytes time 8

/-- The event entry written; false when the ring is full or its page does not translate (R434). -/
def Dev.writeEvent (d : Dev) (a q : Nat) (g : GCmd) : Dev × Bool :=
  let i := queueKey a q
  let n := d.evSize a q
  let h := d.evHead a q
  if seqDist h (d.reg .HIF_Q_EVTAIL i) < n then
    let r := g.cmd.raw.toNat
    let w := d.queueReq a (.command a q g.cmd.seq) (cTag r % 2 ^ 12, cLayer r, cOperator r)
    let base := d.fld F.HIF_Q_EVRING_base i * 4096
    match d.queueWrite w (base + 32 * (h % n)) (eventBytes g (h / n % 2 == 0) d.time) with
    | (d, true) => (d.setReg .HIF_Q_EVHEAD i (mod32 (h + 1)), true)
    | (d, false) => (d, false)
  else (d, false)

/-- A command of a queue replaced, or removed where none is given. -/
def QueueState.putCmd (x : QueueState) (seq : Nat) (g : Option GCmd) : QueueState :=
  let one (l : List GCmd) : List GCmd := l.filterMap fun c => if c.cmd.seq == seq then g else some c
  { x with granted := one x.granted, cancelled := one x.cancelled }

/-- R421: a resetting queue with no granted command left. -/
def Dev.queueSettle (d : Dev) (a q : Nat) : Dev :=
  if d.qState a q = 4 && (d.queue a q).granted.isEmpty then
    d.setQState a q (if !d.flag F.HIF_Q_CTRL_enable (queueKey a q) then 0 else if d.ctxFaulted a then 3 else 1)
  else d

/-- The end of a command: it leaves its queue, which its status may stop (R433), and the dispatcher looks at its slice
(R448, R456). -/
def Dev.endCmd (d : Dev) (a q : Nat) (g : GCmd) : Dev :=
  let r := g.cmd.raw.toNat
  let d := d.setQueue a q ((d.queue a q).putCmd g.cmd.seq none)
  let d := d.trace (d.ctxPart a) 2 0xffff 0xff 0xff (cTag r % 2 ^ 12, cLayer r, cOperator r) g.cmd.seq g.status
  let d := d.when ([2, 3, 5, 6].contains g.status && d.qState a q == 1) (·.setQState a q 2)
  (d.queueSettle a q).sliceLook (d.ctxPart a)

/-- R431: a command's completion, as far as its event ring lets it. -/
def Dev.completeCmd (d : Dev) (a q : Nat) (g : GCmd) : Dev :=
  let r := g.cmd.raw.toNat
  let i := queueKey a q
  let d := if g.evWaits then d
    else
      let d := d.when g.aborting fun d =>
        (d.setFld F.HIF_Q_CANCEL_STATUS_busy i 0).setFld F.HIF_Q_CANCEL_STATUS_result i 3
      d.when (g.status = 0 && cSignalEn r) fun d =>
        d.signal (dispatchAgent (d.ctxPart a)) (shortHandle (cSignal r)) false (cSigOp r)
  if cEvent r || cOp r = 3 || g.status != 0 then
    match d.writeEvent a q g with
    | (d, true) => (d.queueIrq a q).endCmd a q g
    | (d, false) => d.setQueue a q ((d.queue a q).putCmd g.cmd.seq (some { g with evWaits := true, aborting := false }))
  else d.endCmd a q g

/-- A completed command that nothing more is owed of: its descriptors are done (R431). -/
def Dev.cmdReady (d : Dev) (a q : Nat) (g : GCmd) : Bool := g.done && d.cmdDescs a q g.cmd.seq == 0

def execCommandCompletion (a q : Nat) (seq : BitVec 32) (s : State) : Host.Outcome State Fault Refusal :=
  s.run (queueOk a q) fun d =>
    let x := d.queue a q
    match (x.granted ++ x.cancelled).find? (·.cmd.seq == seq.toNat) with
    | some g => if d.cmdReady a q g then d.completeCmd a q g else d
    | none => d

/-- R434: room made in the event ring; a completion that waits takes it in COMMAND_COMPLETION. -/
def execEventTailWrite (a q : Nat) (tail : BitVec 32) (s : State) : Host.Outcome State Fault Refusal :=
  s.runBar (queueOk a q) fun d => d.setReg .HIF_Q_EVTAIL (queueKey a q) tail.toNat

/-! ### Fetch (R420, R428) -/

/-- A wait as it is registered at fetch; one on a handle that R364 refuses counts as satisfied, and its command is refused
at grant (log entry 33). -/
def Dev.fetchWait (d : Dev) (a r i : Nat) : Option WaitRec :=
  if cWaitEn r i && d.shortUsable (d.ctxPart a) (cWait r i) then
    some { handle := BitVec.ofNat 64 (shortHandle (cWait r i)), target := BitVec.ofNat 64 (cTarget r i),
           eq := bitAt (cWait r i) 30, since := d.time }
  else none

/-- May a queue fetch: it runs, its context and partition are there, and fewer than four commands are ahead of grant. -/
def Dev.mayFetch (d : Dev) (a q : Nat) : Bool :=
  let p := d.ctxPart a
  d.qState a q == 1 && d.ctxEnabled a && !d.ctxFaulted a && (d.part p).enabled && !(d.pstate p).draining &&
    d.qHead a q != d.qTail a q && seqDist (d.qHead a q) (d.qGranted a q) < 4

/-- R420: the next command of the ring read, and its waits set up; one cancelled before it was fetched completes. -/
def Dev.fetch (d : Dev) (a q : Nat) : Dev :=
  if !d.mayFetch a q then d
  else
    let i := queueKey a q
    let h := d.qHead a q
    let va := d.fld F.HIF_Q_RING_base i * 4096 + 64 * (h % d.qSize a q)
    match d.queueRead (d.queueReq a (.fetchq a q)) va 64 with
    | (d, none) => d
    | (d, some bs) =>
      let r := leNat bs
      let c : Cmd :=
        { asid := a, queue := q, seq := h, raw := BitVec.ofNat 512 r, wait0 := d.fetchWait a r 0, wait1 := d.fetchWait a r 1 }
      let d := d.setReg .HIF_Q_HEAD i (mod32 (h + 1))
      let x := d.queue a q
      if x.preCancel.contains h then
        let g : GCmd := { cmd := { c with wait0 := none, wait1 := none }, status := 1, done := true }
        ((d.setQueue a q { x with preCancel := x.preCancel.erase h, cancelled := x.cancelled ++ [g] }).syncGranted a
          q).completeCmd a q g
      else (d.setQueue a q { x with fetched := x.fetched ++ [c] }).syncGranted a q

def execCommandFetch (a q : Nat) (s : State) : Host.Outcome State Fault Refusal := s.run (queueOk a q) (·.fetch a q)

/-! ### Grant (R428, R429) -/

/-- R428, R434: is a queue's oldest ungranted command ready. -/
def Dev.ready (d : Dev) (a q : Nat) (c : Cmd) : Bool :=
  let x := d.queue a q
  let r := c.raw.toNat
  d.qState a q == 1 && d.ctxEnabled a && !d.ctxFaulted a && d.sliceRuns (d.ctxPart a) a && c.wait0.isNone && c.wait1.isNone &&
    !(x.granted ++ x.cancelled).any (·.evWaits) &&
    (!(cSerial r || cOp r == 3) || (x.granted.isEmpty && !x.cancelled.any fun g => seqDist c.seq g.cmd.seq < 2 ^ 31))

/-- R429, check 1, but for the launch block: reserved values and bits, the tag window and alignment. -/
def Dev.cmdInvalid (d : Dev) (a r : Nat) : Bool :=
  let off (i : Nat) : Bool := !cWaitEn r i && (cTarget r i != 0 || cWait r i != 0)
  let resv (s : Nat) : Bool := bits s 21 14 != 0
  let base := d.fld F.HIF_CTX_TAGS_tag_base a
  let n := d.fld F.HIF_CTX_TAGS_tag_count a
  let t := cTag r % 2 ^ 12
  cOp r > 3 || bitAt (cFlags r) 7 || (cPolicy r != 0 && cOp r != 1) || cPolicy r = 3 || cTag r / 2 ^ 12 != 0 ||
    off 0 || off 1 || (!cSignalEn r && (cSignal r != 0 || cSigOp r != 0)) || resv (cWait r 0) || resv (cWait r 1) ||
    resv (cSignal r) || bitAt (cSignal r) 30 || t < base || t ≥ base + n ||
    ((cOp r = 0 || cOp r = 3) && (cPay r 0 != 0 || cPay r 1 != 0)) || ((cOp r = 1 || cOp r = 2) && cPay r 0 % 128 != 0) ||
    (cOp r = 2 && bitAt (cPay r 1) 3)

/-- R429, check 2: a wait or signal handle that R364 refuses. -/
def Dev.cmdNoResource (d : Dev) (a r : Nat) : Bool :=
  let p := d.ctxPart a
  let bad (i : Nat) : Bool := cWaitEn r i && !d.shortUsable p (cWait r i)
  bad 0 || bad 1 || (cSignalEn r && !d.shortUsable p (cSignal r))

/-- The oldest command granted: out of the ungranted, counted, traced. -/
def Dev.grantCmd (d : Dev) (a q : Nat) (g : GCmd) : Dev :=
  let x := d.queue a q
  let r := g.cmd.raw.toNat
  let d := (d.setQueue a q { x with fetched := x.fetched.drop 1, granted := x.granted ++ [g] }).syncGranted a q
  d.trace (d.ctxPart a) 1 0xffff 0xff 0xff (cTag r % 2 ^ 12, cLayer r, cOperator r) g.cmd.seq q

/-- A command that completes at grant with a status. -/
def Dev.grantDone (d : Dev) (a q : Nat) (c : Cmd) (status : Nat) : Dev :=
  let g : GCmd := { cmd := c, status := status, done := true }
  (d.grantCmd a q g).completeCmd a q g

/-- The grant of a queue's oldest command, of an opcode a test names; `f` carries out one that passes its first checks. -/
def Dev.grantBy (d : Dev) (a q : Nat) (op : Nat → Bool) (f : Dev → Cmd → Dev) : Dev :=
  match (d.queue a q).fetched.head? with
  | none => d
  | some c =>
    if !op (cOp c.raw.toNat) || !d.ready a q c then d
    else if d.cmdInvalid a c.raw.toNat then d.grantDone a q c 6
    else f d c

/-- R429, check 2, and then `f`. -/
def Dev.withResources (d : Dev) (a q : Nat) (c : Cmd) (f : Dev → Dev) : Dev :=
  if d.cmdNoResource a c.raw.toNat then d.grantDone a q c 5 else f d

/-- NOP, and with it every reserved opcode, which completes INVALID_COMMAND (R429). -/
def execNopCommand (a q : Nat) (s : State) : Host.Outcome State Fault Refusal :=
  s.run (queueOk a q) fun d => d.grantBy a q (fun op => op = 0 || op > 3) fun d c =>
    d.withResources a q c fun d => d.grantDone a q c 0

def execFenceCommand (a q : Nat) (s : State) : Host.Outcome State Fault Refusal :=
  s.run (queueOk a q) fun d => d.grantBy a q (· = 3) fun d c => d.withResources a q c fun d => d.grantDone a q c 0

/-! ### Hints (R404, R427) -/

/-- A hint's page size as a power of two. -/
def hintSize (code : Nat) : Nat := pageSizes.getD code 12

def hintOk (h : Nat) : Bool :=
  let va := bits h 63 0
  1 ≤ bits h 71 64 && bits h 71 64 ≤ 64 && bits h 79 72 ≤ 3 && va % 2 ^ hintSize (bits h 79 72) == 0 && bits h 87 80 ≤ 1 &&
    bits h 127 88 == 0

/-- R404: one kind-4 request for each page that the partition cache lacks and no request is out for. -/
def Dev.prefill (d : Dev) (w : Requester) (h : Nat) : Dev :=
  if !hintOk h then d
  else
    let z := hintSize (bits h 79 72)
    d.each (List.range (bits h 71 64)) fun d i =>
      let page := (bits h 63 0 + i * 2 ^ z) % 2 ^ 64 / 4096
      let x := d.xltPart w.part
      let same (r : XltReq) : Bool := r.asid == w.asid && r.page == page && !r.dead
      if (tlbFind x.cache w.asid page).isSome || x.out.any same || x.waiting.any same then d
      else d.post w.part { tag := 0, kind := 4, flags := bits h 87 80, asid := w.asid, engine := w.engine, unit := w.unit,
                           page := page, ctxTag := w.ctxTag, layer := w.layer, op := w.op, prefillSize := z }

/-- The hints of a list read in order; none when a page does not translate. -/
def Dev.readHints (d : Dev) (w : Requester) (a : Nat) : Nat → List Nat → Dev × Option (List Nat)
  | 0, acc => (d, some acc.reverse)
  | n + 1, acc =>
    match d.queueRead w a 16 with
    | (d, none) => (d, none)
    | (d, some bs) => Dev.readHints d w (a + 16) n (leNat bs :: acc)

/-! ### LAUNCH (R426, R450, R451) -/

def lB (r o n : Nat) : Nat := bits r (8 * (o + n) - 1) (8 * o)

/-- The partition's local-store size in bytes (R49). -/
def Dev.partLocal (d : Dev) (p : Nat) : Nat := (d.part p).localCode * 32768

/-- R426: does a launch block keep its rules. -/
def Dev.launchOk (d : Dev) (p b : Nat) : Bool :=
  let wg (o : Nat) : Nat := lB b o 2
  let inWg (n : Nat) : Bool := 1 ≤ n && n ≤ 1024
  lB b 0 8 % 8 == 0 && lB b 8 8 % 8 == 0 && lB b 0x10 8 % 8 == 0 && lB b 0x20 4 != 0 && lB b 0x24 2 != 0 && lB b 0x26 2 != 0 &&
    inWg (wg 0x28) && inWg (wg 0x2a) && inWg (wg 0x2c) && wg 0x28 * wg 0x2a * wg 0x2c ≤ 1024 &&
    8 ≤ lB b 0x2e 1 && lB b 0x2e 1 ≤ 128 && lB b 0x2e 1 % 8 == 0 && lB b 0x2f 1 ≤ 8 && lB b 0x30 4 % 1024 == 0 &&
    lB b 0x30 4 ≤ d.partLocal p && lB b 0x38 8 % 16 == 0 && lB b 0x40 2 ≤ 32 && bits b 1023 528 == 0

/-- What a launch gives its workgroups. -/
def launchInfo (p : Nat) (c : Cmd) (b chunk : Nat) : LaunchInfo :=
  let r := c.raw.toNat
  { part := p, asid := c.asid, queue := c.queue, seq := c.seq, cookie := BitVec.ofNat 64 (cCookie r), ctxTag := cTag r,
    layer := cLayer r, op := cOperator r, policy := cPolicy r, entry := BitVec.ofNat 64 (lB b 0 8),
    trapHandler := BitVec.ofNat 64 (lB b 8 8), detourEntry := BitVec.ofNat 64 (lB b 0x10 8),
    args := BitVec.ofNat 64 (lB b 0x18 8), grid := (lB b 0x20 4, lB b 0x24 2, lB b 0x26 2),
    wg := (lB b 0x28 2, lB b 0x2a 2, lB b 0x2c 2), vRegs := lB b 0x2e 1, tiles := lB b 0x2f 1, localBytes := lB b 0x30 4,
    chunk := chunk, seed := BitVec.ofNat 64 (cPay r 1) }

/-- R450: the chunks of each cluster. -/
def chunkQueues (cs : List Nat) (n : Nat) : NMap (List Chunk) :=
  let p := cs.length
  cs.zipIdx.foldl (fun m x =>
    let lo := x.2 * n / p
    NMap.put m x.1 ((List.range ((x.2 + 1) * n / p - lo)).map fun i => { no := lo + i }) []) []

/-- A LAUNCH with its block and hints read. -/
def Dev.launch (d : Dev) (a q : Nat) (c : Cmd) (b : Nat) (w : Requester) (hs : List Nat) : Dev :=
  let p := d.ctxPart a
  let cs := d.partClusters p
  let total := lB b 0x20 4 * lB b 0x24 2 * lB b 0x26 2
  let chunk := if lB b 0x34 4 = 0 then max 1 (ceilDiv total (8 * max 1 cs.length)) else lB b 0x34 4
  let y : Launch :=
    { info := launchInfo p c b chunk, total := total, chunkSize := chunk, queues := chunkQueues cs (ceilDiv total chunk) }
  let d := d.grantCmd a q { cmd := c }
  let d := d.setPstate p { (d.pstate p) with launches := (d.pstate p).launches ++ [y] }
  d.each hs fun d h => d.prefill w h

def execLaunch (a q : Nat) (s : State) : Host.Outcome State Fault Refusal :=
  s.run (queueOk a q) fun d => d.grantBy a q (· = 1) fun d c =>
    let p := d.ctxPart a
    let r := c.raw.toNat
    if (d.pstate p).launches.length ≥ 16 then d
    else
      let w := d.queueReq a (.command a q c.seq) (cTag r, cLayer r, cOperator r)
      match d.queueRead w (cPay r 0) 128 with
      | (d, none) => d
      | (d, some bs) =>
        let b := leNat bs
        if !d.launchOk p b then d.grantDone a q c 6
        else d.withResources a q c fun d =>
          let n := if lB b 0x38 8 = 0 then 0 else lB b 0x40 2
          match d.readHints w (lB b 0x38 8) n [] with
          | (d, none) => d
          | (d, some hs) => d.launch a q c b w hs

/-! ### MOVE (R425) -/

def execMove (a q : Nat) (s : State) : Host.Outcome State Fault Refusal :=
  s.run (queueOk a q) fun d => d.grantBy a q (· = 2) fun d c => d.withResources a q c fun d =>
    let r := c.raw.toNat
    let w := d.queueReq a (.command a q c.seq) (cTag r, cLayer r, cOperator r)
    let ha := cPay r 1 / 16 * 16
    match d.readHints w ha (if ha = 0 then 0 else 1) [] with
    | (d, none) => d
    | (d, some hs) =>
      let d := d.grantCmd a q { cmd := c }
      let m := 200 + cPay r 1 % 8
      let x := d.mover m
      let o : Offer :=
        { id := x.nextId, issuer := .command a q c.seq, addr := BitVec.ofNat 64 (cPay r 0), space := 0,
          ctx := { part := d.ctxPart a, asid := a, queue := q, seq := c.seq, ctxTag := cTag r, layer := cLayer r,
                   op := cOperator r } }
      let d := d.setMover m { x with offers := x.offers ++ [o], nextId := x.nextId + 1 }
      d.each hs fun d h => d.prefill w h

/-! ### Queue control (R421, R422) -/

/-- A queue enabled: its counters start from 0. -/
def Dev.enableQueue (d : Dev) (a q : Nat) : Dev :=
  let i := queueKey a q
  let d := d.setFld F.HIF_Q_CTRL_enable i 1
  if d.qState a q = 0 && d.qSize a q != 0 && d.evSize a q != 0 && d.ctxEnabled a then
    let d := d.each [.HIF_Q_TAIL, .HIF_Q_HEAD, .HIF_Q_GRANTED, .HIF_Q_EVHEAD, .HIF_Q_EVTAIL] fun d r => d.setReg r i 0
    d.setQState a q (if d.ctxFaulted a then 3 else 1)
  else d

def execQueueEnable (a q : Nat) (s : State) : Host.Outcome State Fault Refusal := s.runBar (queueOk a q) (·.enableQueue a q)

/-- The subscriptions of commands that have left dropped (R376). -/
def Dev.dropWaits (d : Dev) (a : Nat) (cs : List Cmd) : Dev :=
  let sub := dispatcherSub (d.ctxPart a)
  d.each cs fun d c => d.each ([c.wait0, c.wait1].filterMap id) fun d w => d.dropSub sub w.handle.toNat

/-- R422: every ungranted command discarded, without event or signal. -/
def Dev.resetQueue (d : Dev) (a q : Nat) : Dev :=
  let i := queueKey a q
  if d.qState a q = 0 || d.qState a q = 4 then d
  else
    let x := d.queue a q
    let d := d.setQueue a q { x with fetched := [], preCancel := [] }
    let d := (d.dropWaits a x.fetched).setReg .HIF_Q_HEAD i (d.qTail a q)
    ((d.syncGranted a q).setQState a q 4).queueSettle a q

def execQueueReset (a q : Nat) (s : State) : Host.Outcome State Fault Refusal := s.runBar (queueOk a q) (·.resetQueue a q)

def Dev.disableQueue (d : Dev) (a q : Nat) : Dev :=
  (d.setFld F.HIF_Q_CTRL_enable (queueKey a q) 0).resetQueue a q

def execQueueDisable (a q : Nat) (s : State) : Host.Outcome State Fault Refusal := s.runBar (queueOk a q) (·.disableQueue a q)

def Dev.resumeQueue (d : Dev) (a q : Nat) : Dev :=
  if d.ctxFaulted a then d.setFld F.HIF_Q_STATUS_resume_refused (queueKey a q) 1
  else if d.qState a q = 2 || d.qState a q = 3 then d.setQState a q 1 else d

def execQueueResume (a q : Nat) (s : State) : Host.Outcome State Fault Refusal := s.runBar (queueOk a q) (·.resumeQueue a q)

/-! ### Cancel and abort (R435 to R437) -/

/-- A granted command that has not ended stopped with a status and detail: a LAUNCH as case 3 of R98, a MOVE's descriptor
where it has not started. -/
def Dev.stopCmd (d : Dev) (a q seq status detail : Nat) : Dev :=
  match (d.queue a q).granted.find? (·.cmd.seq == seq) with
  | none => d
  | some g =>
    if g.done then d
    else
      let d := d.onGranted a q seq fun c => { c with stop := some (status, detail) }
      if cOp g.cmd.raw.toNat = 1 then d.stopLaunch (d.ctxPart a) a q seq status detail
      else
        let d : Dev := { d with movers := d.movers.map fun y => (y.1, Mover.dropUnstarted y.2 a q seq) }
        if d.cmdDescs a q seq = 0 then d.markDone a q seq status detail else d

def Dev.cancelResult (d : Dev) (a q r : Nat) : Dev := d.setFld F.HIF_Q_CANCEL_STATUS_result (queueKey a q) r

/-- R435: a sequence number from HIF_Q_GRANTED − 2^n to TAIL − 1. -/
def Dev.seqInRange (d : Dev) (a q seq : Nat) : Bool :=
  let low := mod32 (d.qGranted a q + 2 ^ 32 - d.qSize a q)
  seqDist seq low < seqDist (d.qTail a q) low

/-- A fetched command removed; it completes CANCELLED. -/
def Dev.removeCmd (d : Dev) (a q : Nat) (c : Cmd) : Dev :=
  let x := d.queue a q
  let g : GCmd := { cmd := { c with wait0 := none, wait1 := none }, status := 1, done := true }
  let d := d.setQueue a q { x with fetched := x.fetched.filter (·.seq != c.seq), cancelled := x.cancelled ++ [g] }
  (((d.dropWaits a [c]).syncGranted a q).completeCmd a q g).cancelResult a q 1

/-- A cancel or abort of a sequence number. -/
def Dev.cancelGo (d : Dev) (a q seq : Nat) (abort : Bool) : Dev :=
  let i := queueKey a q
  let x := d.queue a q
  if d.flag F.HIF_Q_CANCEL_STATUS_busy i then d.setFld F.HIF_Q_CANCEL_STATUS_busy_reject i 1
  else if !d.seqInRange a q seq || x.preCancel.contains seq then d.cancelResult a q 4
  else
    match x.fetched.find? (·.seq == seq) with
    | some c => d.removeCmd a q c
    | none =>
      if seqDist seq (d.qHead a q) < seqDist (d.qTail a q) (d.qHead a q) then
        (d.setQueue a q { x with preCancel := x.preCancel ++ [seq] }).cancelResult a q 1
      else
        match x.granted.find? (·.cmd.seq == seq) with
        | some g =>
          if !abort then d.cancelResult a q 2
          else if g.done then d.cancelResult a q 4
          else
            let d := (d.setFld F.HIF_Q_CANCEL_STATUS_busy i 1).cancelResult a q 0
            (d.onGranted a q seq fun c => { c with aborting := true }).stopCmd a q seq 7 0
        | none => d.cancelResult a q (if abort then 4 else 2)

/-- HIF_Q_CANCEL as a go leaves it. -/
def Dev.cancelWrite (d : Dev) (a q seq : Nat) (abort : Bool) : Dev :=
  (d.setReg .HIF_Q_CANCEL (queueKey a q) (b2n abort * 2 ^ 62 + seq)).cancelGo a q seq abort

def execCancel (a q : Nat) (seq : BitVec 32) (s : State) : Host.Outcome State Fault Refusal :=
  s.runBar (queueOk a q) (·.cancelWrite a q seq.toNat false)
def execAbort (a q : Nat) (seq : BitVec 32) (s : State) : Host.Outcome State Fault Refusal :=
  s.runBar (queueOk a q) (·.cancelWrite a q seq.toNat true)

/-! ### Contexts and Qorriop cores -/

/-- R417: a write of HIF_CTX_CFG. -/
def Dev.ctxWrite (d : Dev) (a v : Nat) : Dev :=
  let old := d.reg .HIF_CTX_CFG a
  let en := bitAt v 31
  let new := b2n en * 2 ^ 31 + bits v 19 8 * 2 ^ 8
  if bitAt old 31 && en && bits new 30 0 != bits old 30 0 then d
  else if bitAt old 31 && !en && (List.range 64).any fun q => d.qState a q != 0 then d.setFld F.HIF_STATUS_ctx_busy 0 1
  else d.setReg .HIF_CTX_CFG a new

def execContextConfigWrite (a : Nat) (v : BitVec 32) (s : State) : Host.Outcome State Fault Refusal :=
  s.runBar (a < 64) (·.ctxWrite a v.toNat)

/-- R440: the bits written start their Qorriop cores, where H0 runs. Held cores have no bit that acts. -/
def Dev.startHarts (d : Dev) (m : Nat) : Dev :=
  let d := d.setFld F.HIF_SELF_START_value 0 (d.fld F.HIF_SELF_START_value 0 ||| m)
  if bitAt d.sys.harts 0 then
    let ks := (maskList m 24).filter fun k => !heldHart k && d.hartLives k
    { d with sys := { d.sys with harts := d.sys.harts ||| listMask ks } }
  else d

def execSelfStart (m : BitVec 24) (s : State) : Host.Outcome State Fault Refusal := s.runBar true (·.startHarts m.toNat)

/-! ### BAR4 (R411, R412, R415) -/

/-- The lines of a window access, none when some byte reaches no memory. -/
def Dev.windowLine (d : Dev) (off : Nat) : Option Nat :=
  match d.target (d.fld F.HIF_W4_BASE_base 0 * 2 ^ 30 + off) with
  | .line l => some l
  | _ => none

/-- A port whose BAR4 serves the host: an endpoint that is trained. -/
def Dev.bar4Open (d : Dev) (port : Nat) : Bool := d.portEndpoint port && !d.sys.perst.contains port

def bar4Ok (port off n : Nat) : Bool := port < 2 && off + n ≤ 2 ^ 38 && 1 ≤ n && n ≤ 4096

/-- R412: the host may hold a line it has read through CXL.mem, its oldest of 262,144 going where the filter is full. -/
def Dev.hostTakes (d : Dev) (port l : Nat) : Dev :=
  if d.flag F.HIF_PORT_STATUS_cxl port && !d.hostHeld.contains (port, l) then
    let mine := d.hostHeld.filter (·.1 == port)
    let h := if mine.length ≥ 262144 then (match mine.head? with | some x => d.hostHeld.erase x | none => d.hostHeld) else d.hostHeld
    { d with hostHeld := h ++ [(port, l)] }
  else d

/-- R415: a read, answered with its bytes and whether they are poisoned, or as an unsupported request. -/
def Dev.bar4Read (d : Dev) (port off n : Nat) : Dev :=
  let key := d.fld F.HIF_W4_KEY_slot 0 % 64
  let ps := pieces off n
  if !d.bar4Open port || ps.any fun p => (d.windowLine p.1).isNone then { d with hostReply := none }
  else
    let (d, bs, p) := ps.foldl (fun (acc : Dev × List Byte × Bool) pc =>
      match acc.1.windowLine pc.1 with
      | some l =>
        let (d, v, q) := acc.1.ioRead (310 + port) l key
        (d.hostTakes port l, acc.2.1 ++ lineBytes v (pc.1 % 128) pc.2, acc.2.2 || q)
      | none => acc) (d, [], false)
    { d with hostReply := some (bs, p) }

def execBar4Read (port off n : Nat) (s : State) : Host.Outcome State Fault Refusal :=
  s.run (bar4Ok port off n) (·.bar4Read port off n)

/-- R415: a write; bytes that reach no memory are not taken. -/
def Dev.bar4Write (d : Dev) (port off : Nat) (bs : List Byte) : Dev :=
  let key := d.fld F.HIF_W4_KEY_slot 0 % 64
  let ps := pieces off bs.length
  if !d.bar4Open port || ps.any fun p => (d.windowLine p.1).isNone then d
  else (ps.foldl (fun (acc : Dev × List Byte) pc =>
    match acc.1.windowLine pc.1 with
    | some l => (acc.1.ioWrite (310 + port) l key (lineOf (pc.1 % 128) (acc.2.take pc.2)) (byteMask (pc.1 % 128) pc.2) false,
        acc.2.drop pc.2)
    | none => acc) (d, bs)).1

def execBar4Write (port off : Nat) (bs : List (BitVec 8)) (s : State) : Host.Outcome State Fault Refusal :=
  s.runBar (bar4Ok port off bs.length) (·.bar4Write port off bs)

/-- The L2 that executes a host's atomics on a line: the one above the line's vault, or for a capacity line the first of the
partition that owns its channel (log entry 34). -/
def Dev.atomicL2 (d : Dev) (l : Nat) : Nat :=
  if isStacked l then lineVault l
  else match d.channelPart (lineChannel l) with
    | some p => (d.partClusters p).headD 0
    | none => 0

/-- R411: FetchAdd, Swap and CAS on 4 or 8 bytes: the new value from the old one. -/
def atomicOp (op n old x y : Nat) : Nat :=
  match op with
  | 0 => (old + x) % 2 ^ (8 * n)
  | 1 => x % 2 ^ (8 * n)
  | _ => if old = x % 2 ^ (8 * n) then y % 2 ^ (8 * n) else old

def Dev.hostAtomic (d : Dev) (port off op n x y : Nat) : Dev :=
  let key := d.fld F.HIF_W4_KEY_slot 0 % 64
  match (if d.bar4Open port then d.windowLine off else none) with
  | none => { d with hostReply := none }
  | some l =>
    let c := d.atomicL2 l
    let (d, v, p) := d.l2Own c l key
    let bs := lineBytes v (off % 128) n
    let d := if p then d
      else d.l2Write c l key (lineOf (off % 128) (leBytes (atomicOp op n (leNat bs) x y) n)) (byteMask (off % 128) n) false
    { d with hostReply := some (bs, p) }

/-- `op` is 0 FetchAdd, 1 Swap, 2 CAS, on `n` bytes at an offset they align with. -/
def execAtomicop (port off op n : Nat) (x y : BitVec 64) (s : State) : Host.Outcome State Fault Refusal :=
  s.runBar (bar4Ok port off n && op < 3 && (n = 4 || n = 8) && off % n = 0) (·.hostAtomic port off op n x.toNat y.toNat)

/-- R596: the next read of a line of host memory will be failed by the host. -/
def Dev.hostFails (d : Dev) (port bus : Nat) : Dev :=
  { d with hostFail := insSorted (hostLineBase port + bus / 128) d.hostFail }

def execHostAccessFailure (port bus : Nat) (s : State) : Host.Outcome State Fault Refusal :=
  s.run (port < 2 && bus < 2 ^ 48) (·.hostFails port bus)

/-- R388: the data that the host returns for bytes of its memory, which the device's read of them takes. -/
def Dev.hostReturns (d : Dev) (port bus : Nat) (bs : List Byte) : Dev :=
  if !d.bar4Open port then d
  else
    let l := hostLineBase port + bus / 128
    let d := d.setRawLine l (mergeLine (d.rawLine l) (lineOf (bus % 128) bs) (byteMask (bus % 128) bs.length))
    { d with poison := d.poison.erase l, hostFail := d.hostFail.erase l }

def execHostReadCompletion (port bus : Nat) (bs : List Byte) (s : State) : Host.Outcome State Fault Refusal :=
  s.run (port < 2 && bus < 2 ^ 48 && 1 ≤ bs.length && bus % 128 + bs.length ≤ 128) (·.hostReturns port bus bs)

end Sys2Proof.Machine
end

