-- ==== Sys2Proof/Machine/Links.lean ====
section
/-! DEFINITION. The links' sending side: roles, flits, frames, replay, put queues, and the capture ring (R468 to R499). -/

namespace Sys2Proof.Machine

def linkOk (k : Nat) : Bool := k < 32
def putOk (k q : Nat) : Bool := k < 32 && q < 4

def Dev.link (d : Dev) (k : Nat) : Link := NMap.getD d.links k {}
def Dev.setLink (d : Dev) (k : Nat) (x : Link) : Dev := { d with links := NMap.put d.links k x {} }
def Dev.onLink (d : Dev) (k : Nat) (g : Link → Link) : Dev := d.setLink k (g (d.link k))

/-! ### The link-roles section (R468) -/

def Dev.fabricId (d : Dev) : Nat := d.secField 5 0 8
def Dev.udpPort (d : Dev) : Nat := d.secField 5 8 2
def Dev.peerCount (d : Dev) : Nat := d.secField 5 0xe 2
def Dev.peerNode (d : Dev) (i : Nat) : Nat := d.secField 5 (0x110 + 32 * i) 8
def Dev.secBytes (d : Dev) (ty o n : Nat) : List Byte := (List.range n).map fun i => BitVec.ofNat 8 (d.secByte ty (o + i))
def Dev.peerMac (d : Dev) (i : Nat) : List Byte := d.secBytes 5 (0x110 + 32 * i + 8) 6
def Dev.peerIp (d : Dev) (i : Nat) : List Byte := d.secBytes 5 (0x110 + 32 * i + 16) 16
/-- The table entry of a node. -/
def Dev.peerOf (d : Dev) (node : Nat) : Option Nat := (List.range d.peerCount).find? fun i => d.peerNode i == node
/-- The chip's own node and table entry. -/
def Dev.ownNode (d : Dev) : Nat := d.reg .LNK_NODE_ID 0
def Dev.ownPeer (d : Dev) : Option Nat := d.peerOf d.ownNode

def Dev.linkRole (d : Dev) (k : Nat) : Nat := d.fld F.LNK_STATUS_role k
def Dev.linkState (d : Dev) (k : Nat) : Nat := d.fld F.LNK_STATUS_state k
def Dev.setLinkState (d : Dev) (k st : Nat) : Dev := d.setFld F.LNK_STATUS_state k st
def Dev.isEth (d : Dev) (k : Nat) : Bool := d.linkRole k == 2
def Dev.isTest (d : Dev) (k : Nat) : Bool := d.linkRole k == 3
/-- Up, or in near-end loopback, where the link is up against itself (R495). -/
def Dev.linkUp (d : Dev) (k : Nat) : Bool := d.linkState k == 4 || d.linkState k == 7
/-- The enabled partition that a link serves. -/
def Dev.linkPart (d : Dev) (k : Nat) : Option Nat :=
  (List.range 16).find? fun p => (d.part p).enabled && bitAt (d.part p).links k
/-- The published digest, byte 0 lowest (R59). -/
def Dev.digest (d : Dev) : BitVec 384 :=
  BitVec.ofNat 384 ((List.range 6).foldl (fun n i => n + d.reg .RLB_DIGEST i * 2 ^ (64 * i)) 0)

def Dev.linkCount (d : Dev) (k i : Nat) (n : Nat := 1) : Dev := d.count F.LNK_CNT_count (k * 16 + i) n

/-! ### The capture ring (R497) -/

/-- A flit or a frame's first bytes recorded, where the capture runs and takes it. `type` is 16 for a frame. `event` is the
trigger that it is, 0 for none. -/
def Dev.capture (d : Dev) (k : Nat) (tx : Bool) (type : Nat) (f : BitVec 2048) (bad unc : Bool) (event : Nat) : Dev :=
  if !d.flag F.LNK_CAP_STATUS_running k then d
  else
    let dir := d.fld F.LNK_CAP_CTRL_dir k
    let trig := event != 0 && d.fld F.LNK_CAP_CTRL_trigger k == event && !d.flag F.LNK_CAP_STATUS_triggered k
    let takes := (dir == 2 || dir == b2n tx) && (type == 16 || bitAt (d.fld F.LNK_CAP_CTRL_types k) type)
    let d := d.when trig fun d =>
      (d.setFld F.LNK_CAP_STATUS_triggered k 1).onLink k fun x => { x with capPost := some (d.fld F.LNK_CAP_CTRL_post k) }
    let x := d.link k
    let after := !trig && d.flag F.LNK_CAP_STATUS_triggered k
    let x := match x.capPost with
      | some n => if after && takes then { x with capPost := some (n - 1) } else x
      | none => x
    let n := d.fld F.LNK_CAP_STATUS_next k
    let r := bits d.time 47 0 * 2 ^ 16 + b2n tx * 2 ^ 15 + b2n bad * 2 ^ 14 + b2n unc * 2 ^ 13 + b2n trig * 2 ^ 12
    let d := if takes then
        let d := d.setLink k { x with cap := NMap.insert x.cap n (f, BitVec.ofNat 64 r) }
        (d.setFld F.LNK_CAP_STATUS_next k ((n + 1) % 256)).when (n == 255) (·.setFld F.LNK_CAP_STATUS_wrapped k 1)
      else d.setLink k x
    d.when (x.capPost == some 0) (·.setFld F.LNK_CAP_STATUS_running k 0)

/-! ### Flits (R473) -/

/-- A flit's 48-bit header. -/
def flitHead (type vc seq ack cvc credits : Nat) : Nat :=
  type * 2 ^ 44 + vc * 2 ^ 43 + seq * 2 ^ 31 + ack * 2 ^ 19 + cvc * 2 ^ 18 + credits * 2 ^ 10

/-- A flit: header, payload and CRC-64, whose bit 0 an injection inverts. -/
def flitOf (head : Nat) (payload : BitVec 1936) (badCrc : Bool) : BitVec 2048 :=
  let body := leBytes head 6 ++ leBytes payload.toNat 242
  let crc := crcOf 2 body
  BitVec.ofNat 2048 (leNat (body ++ leBytes (if badCrc then crc ^^^ 1 else crc) 8))

/-- The fields of a received flit. -/
def flType (f : Nat) : Nat := bits f 47 44
def flVc (f : Nat) : Nat := bits f 43 43
def flSeq (f : Nat) : Nat := bits f 42 31
def flAck (f : Nat) : Nat := bits f 30 19
def flCreditVc (f : Nat) : Nat := bits f 18 18
def flCredits (f : Nat) : Nat := bits f 17 10
def flPayload (f : Nat) : BitVec 1936 := BitVec.ofNat 1936 (bits f 1983 48)
def flCrcOk (f : Nat) : Bool := crcOf 2 (leBytes f 248) == bits f 2047 1984

/-- A flit of a type put on the lanes, with the acknowledgement and the credits current; it reports the credits of its own VC
(log entry 35). -/
def Dev.sendFlit (d : Dev) (k type vc seq : Nat) (payload : BitVec 1936) (badCrc : Bool := false) (event : Nat := 0) : Dev :=
  let x := d.link k
  let f := flitOf (flitHead type vc seq ((x.rxSeq + 4095) % 4096) vc ((if vc = 0 then x.freed0 else x.freed1) % 256)) payload badCrc
  (d.setLink k { x with out := x.out ++ [.flit f] }).capture k true type f badCrc false event

/-- R498: the next data-flit slot at rate `r`, from slot `n`. -/
def nextSlot (r n : Nat) : Nat → Nat
  | 0 => n
  | fuel + 1 => if (n + 1) * r / 256 > n * r / 256 then n else nextSlot r (n + 1) fuel

/-- Deterministic generation is on (R498). -/
def Dev.isDet (d : Dev) (k : Nat) : Bool := d.isTest k && d.flag F.LNK_TEST_CTRL_det k

/-- The armed injection that touches data flits: its kind (R496). -/
def Dev.injKind (d : Dev) (k : Nat) : Nat :=
  if d.isTest k && d.flag F.LNK_INJECT_arm k && (d.link k).injLeft > 0 then d.fld F.LNK_INJECT_kind k else 0

/-- The first transmission of a data flit: into the replay buffer and onto the lanes, as an injection lets it. -/
def Dev.firstSend (d : Dev) (k vc : Nat) (payload : BitVec 1936) : Dev :=
  let x := d.link k
  let seq := x.txSeq
  let inj := if vc = 0 then d.injKind k else 0
  let x : Link := { x with txSeq := (seq + 1) % 4096, replay := x.replay ++ [⟨seq, vc, payload⟩],
                           slot := if vc = 0 then nextSlot (d.fld F.LNK_TEST_CTRL_rate k) x.slot 256 + 1 else x.slot }
  let left := if inj = 1 || inj = 2 then x.injLeft - 1 else x.injLeft
  let d := d.setLink k { x with injLeft := left }
  let d := d.when ((inj = 1 || inj = 2) && left = 0) (·.setFld F.LNK_INJECT_arm k 0)
  if inj = 2 then d else d.sendFlit k 1 vc seq payload (inj = 1)

/-- One data flit sent, where the link is up, the replay buffer has room and a credit is held: management first, then a
whole flit of the payload stream. False when none may go. -/
def Dev.sendOne (d : Dev) (k : Nat) : Dev × Bool :=
  let x := d.link k
  if !d.linkUp k || d.isEth k || x.replay.length ≥ 256 then (d, false)
  else match x.mgmt with
    | m :: rest =>
      if x.credit1 = 0 then (d, false)
      else ((d.setLink k { x with mgmt := rest, credit1 := x.credit1 - 1 }).firstSend k 1 m, true)
    | [] =>
      if x.credit0 = 0 || x.stream.length < 242 || x.held then (d, false)
      else if d.injKind k = 3 then (d.setLink k { x with held := true }, false)
      else
        let m := BitVec.ofNat 1936 (leNat (x.stream.take 242))
        ((d.setLink k { x with stream := x.stream.drop 242, credit0 := x.credit0 - 1 }).firstSend k 0 m, true)

/-- Everything sent that may go. -/
def Dev.pump (d : Dev) (k : Nat) : Nat → Dev
  | 0 => d
  | n + 1 => match d.sendOne k with
    | (d, true) => Dev.pump d k n
    | (d, false) => d
def pumpFuel : Nat := 600

/-- Every flit not acknowledged sent again, in order (R474). -/
def Dev.replayAll (d : Dev) (k : Nat) : Dev :=
  let fs := (d.link k).replay
  ((d.each fs fun d f => d.sendFlit k 1 f.vc f.seq f.payload).linkCount k 5 fs.length).errEvent (d.linkPart k) 11 fs.length

/-- The flits up to a sequence number acknowledged. -/
def Dev.takeAckTo (d : Dev) (k a : Nat) : Dev :=
  let x := d.link k
  match findWithIdx (fun f => f.seq == a % 4096) x.replay with
  | some (i, _) =>
    let gone := x.replay.take (i + 1)
    d.setLink k { x with replay := x.replay.drop (i + 1), acked0 := x.acked0 + (gone.filter (·.vc == 0)).length }
  | none => d

/-- The acknowledgement and the credits of a received flit (R473, R476). -/
def Dev.takeHead (d : Dev) (k f : Nat) : Dev :=
  let d := d.takeAckTo k (flAck f)
  let x := d.link k
  let c := flCredits f
  let x := if flCreditVc f = 0 then { x with credit0 := x.credit0 + (c + 256 - x.seen0 % 256) % 256, seen0 := c }
    else { x with credit1 := x.credit1 + (c + 256 - x.seen1 % 256) % 256, seen1 := c }
  (d.setLink k x).pump k pumpFuel

/-! ### Messages (R484) -/

/-- Field of `n` bytes at offset `o` of a put entry. -/
def pB (r o n : Nat) : Nat := bits r (8 * (o + n) - 1) (8 * o)
def pOp (r : Nat) : Nat := pB r 0 1
def pFlag (r i : Nat) : Bool := bitAt (pB r 1 1) i
def pTag (r : Nat) : Nat := pB r 2 2
def pPeer (r : Nat) : Nat := pB r 4 1
def pLen (r : Nat) : Nat := pB r 5 3
def pSrc (r : Nat) : Nat := pB r 8 8
def pDst (r : Nat) : Nat := pB r 0x10 8
def pWait (r : Nat) : Nat := pB r 0x20 4
def pRemote (r : Nat) : Nat := pB r 0x24 4
def pTarget (r : Nat) : Nat := pB r 0x28 8
def pOperand (r : Nat) : Nat := pB r 0x30 8
def pLocal (r : Nat) : Nat := pB r 0x38 4
def pLayer (r : Nat) : Nat := pB r 0x3c 2
def pOperator (r : Nat) : Nat := pB r 0x3e 2

/-- The header of the message of an entry that starts at byte `o`, `n` bytes long. -/
def msgHead (r o n : Nat) (last : Bool) : List Byte :=
  leBytes (pOp r) 1 ++ leBytes (b2n (pFlag r 1) + 2 * b2n last) 1 ++ leBytes (pTag r) 2 ++ leBytes n 4 ++
    leBytes (if pOp r = 1 then (pDst r + o) % 2 ^ 64 else pDst r) 8 ++ leBytes (pRemote r) 4 ++ leBytes (pLayer r) 2 ++
    leBytes (pOperator r) 2 ++ leBytes (pOperand r) 8

/-! ### Ethernet frames (R490) -/

/-- The ones' complement sum of 16-bit big-endian words. -/
def onesSum : List Byte → Nat → Nat
  | [], a => a
  | [x], a => let s := a + x.toNat * 256; s % 65536 + s / 65536
  | x :: y :: l, a => let s := a + x.toNat * 256 + y.toNat; onesSum l (s % 65536 + s / 65536)

/-- The UDP checksum over the pseudo-header and the datagram. -/
def udpSum (src dst udp : List Byte) : Nat := onesSum (src ++ dst ++ beBytes udp.length 4 ++ beBytes 17 4 ++ udp) 0

/-- A transport frame from peer entry `own` to entry `i`. -/
def Dev.ethBytes (d : Dev) (k own i kind : Nat) (echo : Bool) (seq ack : Nat) (msg : List Byte) : List Byte :=
  let th := leBytes kind 1 ++ leBytes (b2n echo) 1 ++ leBytes 0 2 ++ leBytes seq 4 ++ leBytes ack 4 ++ leBytes 0 4 ++ msg
  let data := th ++ leBytes (crcOf 1 th) 4
  let len := data.length + 8
  let head (sum : Nat) : List Byte := beBytes ((d.udpPort + k) % 65536) 2 ++ beBytes d.udpPort 2 ++ beBytes len 2 ++ beBytes sum 2
  let src := d.peerIp own
  let dst := d.peerIp i
  let sum := 65535 - udpSum src dst (head 0 ++ data)
  let udp := head (if sum = 0 then 65535 else sum) ++ data
  let tc := d.secByte 5 0xb * 4 + 2
  let ip := beBytes (6 * 2 ^ 28 + tc * 2 ^ 20) 4 ++ beBytes len 2 ++ beBytes 17 1 ++ beBytes 64 1 ++ src ++ dst ++ udp
  let f := d.peerMac i ++ d.peerMac own ++ beBytes 0x8100 2 ++ beBytes (d.secByte 5 0xa * 2 ^ 13 + d.secField 5 0xc 2) 2 ++
    beBytes 0x86DD 2 ++ ip
  f ++ leBytes (crcOf 0 f) 4

def Dev.ethPeer (d : Dev) (k i : Nat) : EthPeer := NMap.getD (d.link k).peers i {}
def Dev.setEthPeer (d : Dev) (k i : Nat) (x : EthPeer) : Dev := d.onLink k fun y => { y with peers := NMap.put y.peers i x {} }

/-- A frame put on the wire; none goes while priority pcp is paused (R489). -/
def Dev.sendFrame (d : Dev) (k i kind : Nat) (echo : Bool) (seq : Nat) (msg : List Byte) : Dev :=
  match d.ownPeer with
  | none => d
  | some own =>
    if (d.link k).paused || !d.linkUp k then d
    else
      let bs := d.ethBytes k own i kind echo seq (((d.ethPeer k i).rcvNext + 2 ^ 32 - 1) % 2 ^ 32) msg
      (d.onLink k fun x => { x with out := x.out ++ [.frame bs] }).capture k true 16 (BitVec.ofNat 2048 (leNat (bs.take 256))) false
        false (if kind = 3 then 2 else 0)

/-- A cumulative acknowledgement (R491). -/
def Dev.sendEthAck (d : Dev) (k i : Nat) : Dev :=
  let x := d.ethPeer k i
  if (d.link k).paused then d
  else (d.sendFrame k i 2 x.ecnEcho x.sndNext []).setEthPeer k i { x with sinceAck := 0, ecnEcho := false }

/-! ### Reading a put's source (R483) -/

/-- A put queue as a translation requester. -/
def Dev.putReq (d : Dev) (k q r : Nat) : Requester :=
  { engine := 4, unit := k, part := (d.linkPart k).getD 0, asid := d.fld F.LNK_PQ_CFG_asid (k * 4 + q), ctxTag := pTag r % 2 ^ 12,
    layer := pLayer r, op := pOperator r, waiter := .link k q }

/-- Bytes read through translation by a link, with their poison; none while a page misses. -/
def Dev.linkRead (d : Dev) (k : Nat) (w : Requester) (va n : Nat) : Dev × Option (List Byte × Bool) :=
  let ps := (pieces va n).map fun x => (x.1 % 2 ^ 64, x.2)
  match d.translateAll w [] (ps.map (·.1)) {} with
  | (d, .error _) => (d, none)
  | (d, .ok at_) =>
    let (d, bs, p) := (ps.zip at_).foldl (fun (acc : Dev × List Byte × Bool) x =>
      let (d, v, q) := acc.1.ioRead (320 + k) x.2.line x.2.key
      (d, acc.2.1 ++ lineBytes v (x.1.1 % 128) x.1.2, acc.2.2 || q)) (d, [], false)
    (d, some (bs, p))

/-! ### Put queues (R481, R482, R487) -/

def Dev.pqState (d : Dev) (i : Nat) : Nat := d.fld F.LNK_PQ_STATUS_state i
def Dev.setPqState (d : Dev) (i st : Nat) : Dev := d.setFld F.LNK_PQ_STATUS_state i st
def Dev.pqSize (d : Dev) (i : Nat) : Nat :=
  let n := d.fld F.LNK_PQ_RING_log2_entries i
  if n = 0 then 0 else 2 ^ n
def Link.queue (x : Link) (q : Nat) : List PutEntry := NMap.getD x.entries q []
def Dev.setPq (d : Dev) (k q : Nat) (es : List PutEntry) : Dev := d.onLink k fun x => { x with entries := NMap.put x.entries q es [] }
def Dev.setEntry' (d : Dev) (k q : Nat) (e : PutEntry) : Dev :=
  d.setPq k q (((d.link k).queue q).map fun y => if y.seq == e.seq then e else y)
def Dev.dropEntry (d : Dev) (k q seq : Nat) : Dev := d.setPq k q (((d.link k).queue q).filter (·.seq != seq))

/-- The asid of a put queue belongs to the link's partition. -/
def Dev.pqOwned (d : Dev) (k a : Nat) : Bool := d.linkPart k == some (d.ctxPart a)

/-- A resetting queue with no granted entry left (R421). -/
def Dev.pqSettle (d : Dev) (k q : Nat) : Dev :=
  let i := k * 4 + q
  if d.pqState i = 4 && ((d.link k).queue q).all (!·.granted) then
    d.setPqState i (if !d.flag F.LNK_PQ_CFG_enable i then 0 else if d.ctxFaulted (d.fld F.LNK_PQ_CFG_asid i) then 3 else 1)
  else d

/-- An entry's wait as it is set up at fetch: the link sees every value of the milestone from then on (log entry 36). -/
def Dev.putWait' (d : Dev) (k r : Nat) : Option WaitRec :=
  if pFlag r 0 && d.shortUsable ((d.linkPart k).getD 0) (pWait r) then
    let w : WaitRec := { handle := BitVec.ofNat 64 (shortHandle (pWait r)), target := BitVec.ofNat 64 (pTarget r),
                         eq := bitAt (pWait r) 30, since := d.time, registered := true }
    some { w with satisfied := w.met (d.msVal (shortHandle (pWait r))) }
  else none

/-- Entries fetched, at most four ahead of grant (R420). -/
def Dev.pqFetch (d : Dev) (k q : Nat) : Nat → Dev
  | 0 => d
  | n + 1 =>
    let i := k * 4 + q
    let a := d.fld F.LNK_PQ_CFG_asid i
    let h := d.reg .LNK_PQ_HEAD i
    let es := (d.link k).queue q
    if d.pqState i != 1 || d.ctxFaulted a || !d.ctxEnabled a || h == d.reg .LNK_PQ_TAIL i || (es.filter (!·.granted)).length ≥ 4 then d
    else
      match d.linkRead k (d.putReq k q 0) (d.fld F.LNK_PQ_RING_base i * 4096 + 64 * (h % d.pqSize i)) 64 with
      | (d, none) => d
      | (d, some (bs, _)) =>
        let r := leNat bs
        let e : PutEntry := { seq := h, raw := BitVec.ofNat 512 r, wait := d.putWait' k r }
        Dev.pqFetch ((d.setReg .LNK_PQ_HEAD i (mod32 (h + 1))).setPq k q (es ++ [e])) k q n

/-- A doorbell of a put queue. -/
def Dev.pqDoorbell (d : Dev) (k q tail : Nat) : Dev :=
  let d := d.wakePkg
  let i := k * 4 + q
  let h := d.reg .LNK_PQ_HEAD i
  if seqDist tail h ≤ d.pqSize i && seqDist (d.reg .LNK_PQ_TAIL i) h ≤ seqDist tail h then
    (d.setReg .LNK_PQ_TAIL i tail).pqFetch k q 4
  else d.setFld F.LNK_PQ_STATUS_bad_tail i 1

/-- A put queue enabled (R421, R481). -/
def Dev.pqEnable (d : Dev) (k q : Nat) : Dev :=
  let i := k * 4 + q
  let a := d.fld F.LNK_PQ_CFG_asid i
  if !d.pqOwned k a then d
  else
    let d := d.setFld F.LNK_PQ_CFG_enable i 1
    if d.pqState i = 0 && d.pqSize i != 0 && d.ctxEnabled a then
      let d := d.each [.LNK_PQ_TAIL, .LNK_PQ_HEAD, .LNK_PQ_DONE, .LNK_PQ_ERR] fun d r => d.setReg r i 0
      (d.setFld F.LNK_PQ_STATUS_error i 0).setPqState i (if d.ctxFaulted a then 3 else 1)
    else d

/-- Every ungranted entry discarded (R422). -/
def Dev.pqReset (d : Dev) (k q : Nat) : Dev :=
  let i := k * 4 + q
  if d.pqState i = 0 || d.pqState i = 4 then d
  else
    let d := d.setPq k q (((d.link k).queue q).filter (·.granted))
    (((d.setReg .LNK_PQ_HEAD i (d.reg .LNK_PQ_TAIL i)).setFld F.LNK_PQ_STATUS_error i 0).setPqState i 4).pqSettle k q

def Dev.pqDisable (d : Dev) (k q : Nat) : Dev := (d.setFld F.LNK_PQ_CFG_enable (k * 4 + q) 0).pqReset k q

def Dev.pqResume (d : Dev) (k q : Nat) : Dev :=
  let i := k * 4 + q
  if (d.pqState i = 2 || d.pqState i = 3) && !d.ctxFaulted (d.fld F.LNK_PQ_CFG_asid i) then
    ((d.setFld F.LNK_PQ_STATUS_error i 0).setPqState i 1).pqFetch k q 4
  else d

/-- R487: an entry fails; its queue stops. -/
def Dev.pqFail (d : Dev) (k q seq code : Nat) : Dev :=
  let i := k * 4 + q
  let d := (d.setFld F.LNK_PQ_STATUS_error i code).setReg .LNK_PQ_ERR i seq
  ((d.dropEntry k q seq).when (d.pqState i == 1) (·.setPqState i (if code = 3 then 3 else 2))).pqSettle k q

/-- R487, code 1. -/
def Dev.putInvalid (d : Dev) (a r : Nat) : Bool :=
  let base := d.fld F.HIF_CTX_TAGS_tag_base a
  let n := d.fld F.HIF_CTX_TAGS_tag_count a
  let op := pOp r
  (op != 1 && op != 2) || pB r 1 1 ≥ 16 || pTag r < base || pTag r ≥ base + n || pTag r ≥ 2 ^ 12 ||
    (!pFlag r 0 && (pWait r != 0 || pTarget r != 0)) || (!pFlag r 1 && pRemote r != 0) || (!pFlag r 2 && pLocal r != 0) ||
    (op = 1 && (pLen r = 0 || pOperand r != 0)) || (op = 2 && pLen r != 0)

/-- R487, code 2. -/
def Dev.putNoResource (d : Dev) (k r : Nat) : Bool :=
  let p := (d.linkPart k).getD 0
  (pFlag r 0 && !d.shortUsable p (pWait r)) || (pFlag r 2 && !d.shortUsable p (pLocal r))

/-- R487, code 6. -/
def Dev.putBadPeer (d : Dev) (k r : Nat) : Bool := if d.isEth k then pPeer r ≥ d.peerCount else pPeer r != 0

/-- The grant of an entry whose wait is over: it fails, or its messages may go. -/
def Dev.pqGrant (d : Dev) (k q : Nat) (e : PutEntry) : Dev :=
  let i := k * 4 + q
  let a := d.fld F.LNK_PQ_CFG_asid i
  let r := e.raw.toNat
  if d.pqState i != 1 || d.ctxFaulted a || !d.ctxEnabled a || (match e.wait with | some w => !w.satisfied | none => false) then d
  else if d.putInvalid a r then d.pqFail k q e.seq 1
  else if d.putNoResource k r then d.pqFail k q e.seq 2
  else if d.putBadPeer k r then d.pqFail k q e.seq 6
  else (d.setEntry' k q { e with granted := true, wait := none }).pqFetch k q 4

/-- The next message of an entry: its first byte, length, and whether it is the last. -/
def msgNext (e : PutEntry) : Nat × Nat × Bool :=
  let r := e.raw.toNat
  if pOp r = 1 then
    let n := min (pLen r - e.sent) (4096 - (pDst r + e.sent) % 4096)
    (e.sent, n, e.sent + n ≥ pLen r)
  else (0, 0, true)

/-- A message's bytes put into the payload stream of a native link; a deterministic flush closes the flit (R498). -/
def Dev.streamPut (d : Dev) (k q : Nat) (e : PutEntry) (bs : List Byte) (n : Nat) (last : Bool) : Dev :=
  let x := d.link k
  let end_ := x.streamEnd + bs.length
  let pad := if last && d.isDet k && pFlag e.raw.toNat 3 then (242 - end_ % 242) % 242 else 0
  let d := d.setLink k { x with stream := x.stream ++ bs ++ List.replicate pad 0, streamEnd := end_ + pad }
  (d.setEntry' k q { e with sent := e.sent + n, allSent := last, endOff := end_ }).pump k pumpFuel

/-- A message sent to a peer as a frame of its own (log entry 37), where the window has room and the peer is known. -/
def Dev.framePut (d : Dev) (k q : Nat) (e : PutEntry) (head data : List Byte) (o n : Nat) (last : Bool) : Dev :=
  let r := e.raw.toNat
  let i := pPeer r
  let x := d.ethPeer k i
  let f : EthFrame :=
    { seq := x.sndNext, queue := q, entry := e.seq, head := BitVec.ofNat 256 (leNat head), src := BitVec.ofNat 64 (pSrc r + o), len := n }
  let d := d.sendFrame k i 1 x.ecnEcho x.sndNext (head ++ data)
  let d := d.setEthPeer k i { x with sndNext := mod32 (x.sndNext + 1), unacked := x.unacked ++ [f], ecnEcho := false, sinceAck := 0 }
  d.setEntry' k q { e with sent := e.sent + n, allSent := last }

/-- May a message of a queue go now: the link is up, deterministic generation serves queue 0 alone, and a peer's window has
room and its IDENT has been accepted. -/
def Dev.mayPut (d : Dev) (k q r : Nat) : Bool :=
  d.linkUp k && (!d.isDet k || q == 0) &&
    (!d.isEth k || (let x := d.ethPeer k (pPeer r); x.identOk && x.unacked.length < x.window && !(d.link k).paused))

/-- The next message of a queue's oldest entry with messages to send, the entry granted first. -/
def Dev.putStep (d : Dev) (k q : Nat) (op : Nat → Bool) : Dev :=
  match ((d.link k).queue q).find? (!·.allSent) with
  | none => d
  | some e =>
    let r := e.raw.toNat
    if !op (pOp r) then d
    else
      let d := if e.granted then d else d.pqGrant k q e
      match ((d.link k).queue q).find? (·.seq == e.seq) with
      | none => d
      | some e =>
        if !e.granted || !d.mayPut k q r then d
        else
          let (o, n, last) := msgNext e
          match d.linkRead k (d.putReq k q r) ((pSrc r + o) % 2 ^ 64) n with
          | (d, none) => d
          | (d, some (bs, p)) =>
            if p then d.pqFail k q e.seq 5
            else
              let head := msgHead r o n last
              if d.isEth k then d.framePut k q e head bs o n last else d.streamPut k q e (head ++ bs) n last

/-- Has a peer acknowledged every message of an entry. -/
def Dev.entryAcked (d : Dev) (k q : Nat) (e : PutEntry) : Bool :=
  let x := d.link k
  e.allSent &&
    (if d.isEth k then x.peers.all fun y => !y.2.unacked.any fun f => f.queue == q && f.entry == e.seq
     else e.endOff ≤ x.acked0 * 242)

/-- R487: an entry whose messages have all been acknowledged completes. -/
def Dev.entryDone (d : Dev) (k q seq : Nat) : Dev :=
  match ((d.link k).queue q).find? (·.seq == seq) with
  | none => d
  | some e =>
    if !d.entryAcked k q e then d
    else
      let i := k * 4 + q
      let r := e.raw.toNat
      let d := d.when (pFlag r 2) fun d => d.signal (linkAgent k) (shortHandle (pLocal r)) false 1
      ((d.setReg .LNK_PQ_DONE i (mod32 (d.reg .LNK_PQ_DONE i + 1))).dropEntry k q seq).pqSettle k q

/-! ### Bring-up and loss (R477 to R479) -/

/-- The link's IDENT sent: on a native or test link a flit with its fields, on an Ethernet link a frame to a peer (R493). -/
def Dev.sendIdent (d : Dev) (k : Nat) : Dev :=
  d.onLink k fun x => { x with out := x.out ++
    [.ident (BitVec.ofNat 64 d.ownNode) (BitVec.ofNat 64 d.fabricId) k (d.linkRole k) d.digest 384 32] }

def Dev.sendEthIdent (d : Dev) (k i : Nat) : Dev :=
  let m := leBytes d.ownNode 8 ++ leBytes d.fabricId 8 ++ leBytes k 1 ++ leBytes (d.linkRole k) 1 ++ leBytes 0 6 ++
    leBytes d.digest.toNat 48
  d.sendFrame k i 4 false 0 m

/-- The peers of the table other than the chip itself that a test selects. -/
def Dev.identTo (d : Dev) (k : Nat) (sel : Nat → Bool) : Dev :=
  d.each ((List.range d.peerCount).filter fun i => d.ownPeer != some i && sel i) fun d i => d.sendEthIdent k i

/-- After a route amendment every link that is up sends a fresh IDENT (R476, R493). -/
def Dev.freshIdents (d : Dev) : Dev :=
  d.each (List.range 32) fun d k =>
    if !d.linkUp k then d else if d.isEth k then d.identTo k fun _ => true else d.sendIdent k

/-- What a link holds before it comes up with a peer it has not kept. -/
def Link.fresh (x : Link) : Link :=
  { entries := x.entries, cap := x.cap, capPost := x.capPost, out := x.out, badLanes := x.badLanes, slot := x.slot,
    injLeft := x.injLeft }

/-- Training begins, where the link may come up at all; a test link in PRBS mode sends its pattern instead (R495). -/
def Dev.linkTrain (d : Dev) (k : Nat) : Dev :=
  if d.linkRole k != 0 && (d.linkPart k).isSome && d.flag F.LNK_CTRL_enable k then
    d.setLinkState k (if d.isTest k && d.fld F.LNK_TEST_CTRL_mode k = 1 then 6 else 2)
  else d

/-- R479, R487: the link is down: what was to be replayed is discarded, and entries in flight fail. -/
def Dev.linkLost (d : Dev) (k st : Nat) : Dev :=
  let x := d.link k
  let d := d.setLink k { x.fresh with badLanes := [] }
  let d := d.each (List.range 4) fun d q =>
    d.each (((d.link k).queue q).filter (·.granted)).reverse fun d e => d.pqFail k q e.seq 4
  (d.setLinkState k st).setFld F.LNK_STATUS_peer_valid k 0

/-- R479: the link declared down, an uncorrectable error. -/
def Dev.linkDown (d : Dev) (k : Nat) : Dev :=
  (d.linkLost k 1).err { class_ := 2, source := some 4, unit := k, part := (d.linkPart k).getD 0xff }

/-- A write of LNK_CTRL.enable. -/
def Dev.linkEnable (d : Dev) (k : Nat) (on : Bool) : Dev :=
  let d := d.setFld F.LNK_CTRL_enable k (b2n on)
  if on then (if d.linkState k ≤ 1 then d.linkTrain k else d)
  else if d.linkState k = 0 then d else d.linkLost k 0

/-- R479: a full retrain begins, what is to be replayed kept. -/
def Dev.fullRetrain (d : Dev) (k : Nat) : Dev :=
  if d.linkState k = 4 || d.linkState k = 5 then
    (((d.onLink k fun x => { x with full := true, fastFails := 0 }).setLinkState k 2).linkCount k 7).errEvent (d.linkPart k) 12
  else d

end Sys2Proof.Machine
end

