-- ==== Sys2Proof/Machine/Freeze.lean ====
section
/-! DEFINITION. The always-on counters' accumulation and the freeze (R547, R554 to R559). -/

namespace Sys2Proof.Machine

/-- The error events not yet added go into the partitions' counters (R547). -/
def Dev.addErrors (d : Dev) (sel : Nat → Bool) : Dev :=
  let now := d.accum.filter fun x => sel (x.1 / 16)
  let d := { d with accum := d.accum.filter fun x => !sel (x.1 / 16) }
  d.each now fun d x => d.setFld F.DBG_ERR_count x.1 (d.fld F.DBG_ERR_count x.1 + x.2)

/-- `active`, `array`, `valu` and `mem` are the cycles that the partition's cores measured since the last accumulation. -/
def Dev.accumulate (d : Dev) (p active array valu mem : Nat) : Dev :=
  if !(d.part p).enabled then d
  else ((((d.addErrors (· == p)).count F.DBG_ACTIVE_count p active).count F.DBG_ARRAY_BUSY_count p array).count
    F.DBG_VALU_BUSY_count p valu).count F.DBG_MEM_BUSY_count p mem

def execCounterAccumulate (p active array valu mem : Nat) (s : State) : Host.Outcome State Fault Refusal :=
  s.run (partOk p) (·.accumulate p active array valu mem)

/-- The convoys of the partitions of a mask, each given to `g`. -/
def Dev.eachConvoyOf (d : Dev) (mask : Nat) (g : Dev → Nat → Nat → Dev) : Dev :=
  d.each d.cores fun d kc => d.each kc.2.convoys fun d nv =>
    if bitAt mask (d.launchOf kc.1 nv.2).part then g d kc.1 nv.1 else d

/-- R557: the payload of a freeze flit. -/
def freezePayload (hops origin otime : Nat) : BitVec 1936 :=
  BitVec.ofNat 1936 (1 + hops * 2 ^ 8 + origin * 2 ^ 64 + otime * 2 ^ 128)

/-- R557: a freeze goes out on the links named. -/
def Dev.forwardFreeze (d : Dev) (hops origin otime : Nat) : Dev :=
  if !d.flag F.DBG_FREEZE_CTRL_forward 0 then d
  else d.each (maskList (d.fld F.DBG_FREEZE_LINKS_links 0) 32) fun d k =>
    if d.linkUp k && !d.isEth k then
      (d.onLink k fun x => { x with mgmt := x.mgmt ++ [freezePayload hops origin otime] }).pump k pumpFuel
    else d

/-- R554, R556, R557, R559: a trigger. `src` is 0 for a register write, 1 for FREEZE_IN, 2 for a link. -/
def Dev.freezeBy (d : Dev) (src link hops origin otime : Nat) : Dev :=
  if d.frozen then d.tally F.DBG_FREEZE_STATUS_ignored 0
  else
    let d := d.addErrors fun _ => true
    let d := (((d.setFld F.DBG_FREEZE_STATUS_frozen 0 1).setFld F.DBG_FREEZE_STATUS_source 0 src).setFld
      F.DBG_FREEZE_STATUS_link 0 link).setFld F.DBG_FREEZE_STATUS_hops 0 hops
    let d := ((d.setReg .DBG_FREEZE_TIME 0 d.time).setReg .DBG_FREEZE_ORIGIN 0 origin).setReg .DBG_FREEZE_OTIME 0 otime
    let d := d.eachConvoyOf (d.fld F.DBG_FREEZE_CTRL_halt_mask 0) Dev.haltConvoy
    if src = 2 then
      if hops ≥ d.fld F.DBG_FREEZE_CTRL_max_hops 0 then d else d.forwardFreeze (hops + 1) origin otime
    else d.forwardFreeze 0 origin otime

/-- A freeze of the chip's own. -/
def Dev.freezeOwn (d : Dev) (src : Nat) : Dev := d.freezeBy src 0 0 d.ownNode d.time

def execFreeze (s : State) : Host.Outcome State Fault Refusal := s.runBar true (·.freezeOwn 0)
def execFreezeIn (s : State) : Host.Outcome State Fault Refusal :=
  s.run true fun d => if d.flag F.DBG_FREEZE_CTRL_in_en 0 then d.freezeOwn 1 else d

/-- R556, R559. -/
def Dev.thaw (d : Dev) (resume : Bool) : Dev :=
  let d := d.setFld F.DBG_FREEZE_STATUS_frozen 0 0
  if resume then d.eachConvoyOf (d.fld F.DBG_FREEZE_CTRL_halt_mask 0) Dev.resumeConvoy else d

def execThaw (resume : Bool) (s : State) : Host.Outcome State Fault Refusal := s.runBar true (·.thaw resume)

/-- The payload of a received VC1 flit: a freeze flit triggers where it may (R554). -/
def Dev.takeMgmt (d : Dev) (k : Nat) (payload : Nat) : Dev :=
  if bits payload 7 0 = 1 && d.flag F.DBG_FREEZE_CTRL_accept_link 0 then
    d.freezeBy 2 k (bits payload 15 8) (bits payload 127 64) (bits payload 191 128)
  else d

end Sys2Proof.Machine
end

