-- ==== Sys2Proof/Machine/LinkRows.lean ====
section
/-! DEFINITION. The commands of the links: bring-up, flits and frames received, retrains, puts, messages and the test
instruments (R468 to R498). -/

namespace Sys2Proof.Machine

/-! ### Bring-up (R477, R479) -/

def execLinkEnable (k : Nat) (s : State) : Host.Outcome State Fault Refusal := s.runBar (linkOk k) (·.linkEnable k true)

/-- R470: the lanes that carry the link when some are bad: all four data lanes, or the spare in place of one. -/
def lanesServe (bad : List Nat) : Bool :=
  let data := bad.filter (· < 4)
  data.isEmpty || (data.length == 1 && !bad.contains 4)

/-- The spare-lane fields for the bad lanes. -/
def Dev.setSpare (d : Dev) (k : Nat) (bad : List Nat) : Dev :=
  match bad.filter (· < 4) with
  | l :: _ => (d.setFld F.LNK_STATUS_spare_in k 1).setFld F.LNK_STATUS_spare_for k l
  | [] => (d.setFld F.LNK_STATUS_spare_in k 0).setFld F.LNK_STATUS_spare_for k 0

/-- Training ends with the lanes that failed. -/
def Dev.trainingDone (d : Dev) (k : Nat) (bad : List Nat) : Dev :=
  if d.linkState k != 2 then d
  else
    let x := d.link k
    let eth := d.isEth k
    let ok := if eth then bad.all (· ≥ 4) else lanesServe bad
    let d := d.setFld F.LNK_STATUS_eth_lane_bad k (b2n (eth && !ok))
    if !ok then
      if x.full then d.setLink k { x with downDue := true } else d.setLinkState k 1
    else
      let d := (d.setLink k { (if x.full then x else x.fresh) with badLanes := bad }).when (!eth) (·.setSpare k bad)
      let d := d.setFld F.LNK_STATUS_node_invalid k (b2n d.ownPeer.isNone)
      if eth then
        if d.ownPeer.isNone then d.setLinkState k 3
        else ((d.onLink k fun x => { x with full := false }).setLinkState k 4).identTo k fun _ => true
      else (d.setLinkState k 3).sendIdent k

def lanesOk (l : List Nat) : Bool := l.all (· < 5)

def execLinkTrainingDone (k : Nat) (bad : List Nat) (s : State) : Host.Outcome State Fault Refusal :=
  s.run (linkOk k && lanesOk bad) (·.trainingDone k bad)

/-- The peer's digest recorded (R478). -/
def Dev.peerDigest (d : Dev) (k : Nat) (digest : BitVec 384) : Dev :=
  let d := d.each (List.range 6) fun d i => d.setReg .LNK_PEER_DIGEST (k * 6 + i) (bits digest.toNat (64 * i + 63) (64 * i))
  d.setFld F.LNK_STATUS_digest_mismatch k (b2n (digest != d.digest))

/-- R477: is the peer one that a native link refuses. -/
def Dev.isStranger (d : Dev) (k node fabric : Nat) : Bool :=
  !d.isTest k && (fabric != d.fabricId || (d.peerOf node).isNone || node == d.ownNode)

/-- A received IDENT: its node, fabric, link number and digest, and the credits it starts with. -/
def Dev.takeIdent (d : Dev) (k node fabric link : Nat) (digest : BitVec 384) (credit0 credit1 : Nat) : Dev :=
  if d.isEth k then d
  else if d.linkUp k then d.peerDigest k digest
  else if d.linkState k != 3 then d
  else if d.isStranger k node fabric then (d.linkCount k 8).setFld F.LNK_STATUS_stranger k 1
  else if d.flag F.LNK_STATUS_node_invalid k then d
  else
    let x := d.link k
    let same := d.flag F.LNK_STATUS_peer_valid k && d.reg .LNK_PEER_NODE k == node && d.fld F.LNK_STATUS_peer_link k == link
    if x.full && !same then d.setLink k { x with downDue := true }
    else
      let d := d.setLink k (if x.full then { x with full := false } else { x with credit0 := credit0, credit1 := credit1 })
      let d := (d.setReg .LNK_PEER_NODE k node).setFld F.LNK_STATUS_peer_link k link
      let d := (d.setFld F.LNK_STATUS_peer_index k ((d.peerOf node).getD 0)).setFld F.LNK_STATUS_peer_valid k 1
      let d := (d.peerDigest k digest).setLinkState k (if d.isTest k && d.fld F.LNK_TEST_CTRL_mode k == 2 then 7 else 4)
      (d.replayAll k).pump k pumpFuel

def execIdent (k : Nat) (node fabric : Word) (link role : Nat) (digest : BitVec 384) (credit0 credit1 : Nat) (s : State) :
    Host.Outcome State Fault Refusal :=
  s.run (linkOk k && link < 32 && role < 4 && credit0 ≤ 384 && credit1 ≤ 32)
    (·.takeIdent k node.toNat fabric.toNat link digest credit0 credit1)

def execIdentRepeat (k : Nat) (s : State) : Host.Outcome State Fault Refusal :=
  s.run (linkOk k) fun d => if d.linkState k = 3 && !d.isEth k then d.sendIdent k else d

/-! ### Flits received (R472 to R476) -/

/-- A NAK sent, with the sequence number expected. -/
def Dev.nakOut (d : Dev) (k : Nat) : Dev :=
  (((d.onLink k fun x => { x with nakOut := true }).sendFlit k 2 0 (d.link k).rxSeq 0 false 2)).linkCount k 3

/-- A flit at the receiver. `fec` is 0 where its codewords were clean, 1 where one was corrected, 2 where one failed to
decode. A bad flit is discarded with a NAK; `g` takes a good one. -/
def Dev.flitIn (d : Dev) (k : Nat) (f : BitVec 2048) (fec : Nat) (g : Dev → Nat → Dev) : Dev :=
  let st := d.linkState k
  if d.isEth k || !(3 ≤ st && st ≤ 7 && st != 6) then d
  else
    let n := f.toNat
    let crc := flCrcOk n
    let bad := fec = 2 || !crc
    let d := if fec = 1 then d.linkCount k 0 else if fec = 2 then d.linkCount k 1 else d
    let d := d.when (!crc) (·.linkCount k 2)
    let d := d.capture k false (flType n) f (!crc) (fec = 2) (if bad then 1 else if flType n = 2 then 2 else if flType n = 4 then 3 else 0)
    if bad then (if d.linkUp k && !(d.link k).nakOut then d.nakOut k else d) else g d n

/-- A good data flit: taken when it is the next in order, else answered with a NAK. -/
def Dev.takeData (d : Dev) (k f : Nat) : Dev :=
  if !d.linkUp k then d
  else
    let d := d.takeHead k f
    let x := d.link k
    if flSeq f != x.rxSeq then (if x.nakOut then d else d.nakOut k)
    else
      let x := { x with rxSeq := (x.rxSeq + 1) % 4096, nakOut := false }
      if flVc f = 0 then d.setLink k { x with rxBuf := x.rxBuf ++ leBytes (flPayload f).toNat 242 }
      else (d.setLink k { x with freed1 := x.freed1 + 1 }).takeMgmt k (flPayload f).toNat

/-- A received flit is of a type, unless it is bad. -/
def flitIs (type : Nat) (f : BitVec 2048) (fec : Nat) : Bool := fec ≤ 2 && (fec == 2 || !flCrcOk f.toNat || flType f.toNat == type)

def execData (k : Nat) (f : BitVec 2048) (fec : Nat) (s : State) : Host.Outcome State Fault Refusal :=
  s.run (linkOk k && flitIs 1 f fec) fun d => d.flitIn k f fec fun d n => d.takeData k n
def execFreezeFlit (k : Nat) (f : BitVec 2048) (fec : Nat) (s : State) : Host.Outcome State Fault Refusal :=
  s.run (linkOk k && flitIs 1 f fec) fun d => d.flitIn k f fec fun d n => d.takeData k n
def execIdleFlit (k : Nat) (f : BitVec 2048) (fec : Nat) (s : State) : Host.Outcome State Fault Refusal :=
  s.run (linkOk k && flitIs 0 f fec) fun d => d.flitIn k f fec fun d n => if d.linkUp k then d.takeHead k n else d

/-- A NAK for `s`: `s` − 1 is acknowledged and the rest goes again; one that arrives during a retrain is ignored (R480). -/
def Dev.takeNak (d : Dev) (k f : Nat) : Dev :=
  if !d.linkUp k then d
  else (((d.linkCount k 4).takeAckTo k (flSeq f + 4095)).replayAll k).pump k pumpFuel

def execNak (k : Nat) (f : BitVec 2048) (fec : Nat) (s : State) : Host.Outcome State Fault Refusal :=
  s.run (linkOk k && flitIs 2 f fec) fun d => d.flitIn k f fec fun d n => d.takeNak k n

def execNakResend (k : Nat) (s : State) : Host.Outcome State Fault Refusal :=
  s.run (linkOk k) fun d => if (d.link k).nakOut && d.linkUp k then d.nakOut k else d

/-! ### Retrains and loss (R479, R480) -/

/-- A fast retrain begins: data stops and everything is kept. -/
def Dev.fastRetrain (d : Dev) (k : Nat) : Dev := ((d.setLinkState k 5).linkCount k 6).errEvent (d.linkPart k) 12

def execRetrain (k : Nat) (f : BitVec 2048) (fec : Nat) (s : State) : Host.Outcome State Fault Refusal :=
  s.run (linkOk k && flitIs 4 f fec) fun d => d.flitIn k f fec fun d _ => if d.linkUp k then d.fastRetrain k else d

/-- The receiver starts one, and sends RETRAIN. -/
def execFastRetrain (k : Nat) (s : State) : Host.Outcome State Fault Refusal :=
  s.run (linkOk k) fun d =>
    if d.linkUp k && !d.isEth k then (d.fastRetrain k).sendFlit k 4 0 0 0 false 3 else d

/-- `lost` are the lanes that failed to lock. -/
def Dev.fastDone (d : Dev) (k : Nat) (lost : List Nat) : Dev :=
  if d.linkState k != 5 then d
  else
    let x := d.link k
    let bad := lost.foldl (fun l i => insSorted i l) x.badLanes
    if lanesServe bad then
      let d := ((d.setLink k { x with badLanes := bad, fastFails := 0 }).setSpare k bad).setLinkState k
        (if d.isTest k && d.fld F.LNK_TEST_CTRL_mode k == 2 then 7 else 4)
      (d.replayAll k).pump k pumpFuel
    else d.setLink k { x with fastFails := x.fastFails + 1 }

def execFastRetrainComplete (k : Nat) (lost : List Nat) (s : State) : Host.Outcome State Fault Refusal :=
  s.run (linkOk k && lanesOk lost) (·.fastDone k lost)

/-- After three failed fast retrains in a row, or by LNK_CTRL.retrain. -/
def execFullRetrain (k : Nat) (s : State) : Host.Outcome State Fault Refusal := s.run (linkOk k) (·.fullRetrain k)

def execLinkDown (k : Nat) (s : State) : Host.Outcome State Fault Refusal :=
  s.run (linkOk k) fun d => if (d.link k).downDue then d.linkDown k else d

def execLinkRetry (k : Nat) (s : State) : Host.Outcome State Fault Refusal :=
  s.run (linkOk k) fun d => if d.linkState k = 1 then d.linkTrain k else d

/-! ### Puts (R481 to R487) -/

def execPutDoorbell (k q : Nat) (tail : BitVec 32) (s : State) : Host.Outcome State Fault Refusal :=
  s.run (putOk k q) (·.pqDoorbell k q tail.toNat)
/-- The next message of a queue's PUT entry; an entry of a reserved op fails here. -/
def execPut (k q : Nat) (s : State) : Host.Outcome State Fault Refusal := s.run (putOk k q) (·.putStep k q (· != 2))
def execSignal (k q : Nat) (s : State) : Host.Outcome State Fault Refusal := s.run (putOk k q) (·.putStep k q (· == 2))

/-- R484: the partly filled flit closed. Deterministic generation has no time-out (R498). -/
def Dev.padFlit (d : Dev) (k : Nat) : Dev :=
  let x := d.link k
  let n := x.stream.length
  if d.isDet k || d.isEth k || !d.linkUp k || n = 0 || n ≥ 242 then d
  else (d.setLink k { x with stream := x.stream ++ List.replicate (242 - n) 0, streamEnd := x.streamEnd + (242 - n) }).pump k pumpFuel

def execPadTimeout (k : Nat) (s : State) : Host.Outcome State Fault Refusal := s.run (linkOk k) (·.padFlit k)

def execEntryComplete (k q : Nat) (seq : BitVec 32) (s : State) : Host.Outcome State Fault Refusal :=
  s.run (putOk k q) (·.entryDone k q seq.toNat)

/-! ### Messages received (R485, R486) -/

/-- Bytes of the receive stream consumed; on a native link a flit whose last byte is passed is freed (R476). -/
def Dev.rxEat (d : Dev) (k n : Nat) : Dev :=
  let eth := d.isEth k
  d.onLink k fun x =>
    if eth then { x with rxBuf := x.rxBuf.drop n }
    else { x with rxBuf := x.rxBuf.drop n, rxOff := (x.rxOff + n) % 242, freed0 := x.freed0 + (x.rxOff + n) / 242 }

/-- Pads skipped: the rest of a flit that begins with a zero op. -/
def Dev.rxSkip (d : Dev) (k : Nat) : Nat → Dev
  | 0 => d
  | fuel + 1 =>
    let x := d.link k
    match x.rxBuf with
    | b :: _ => if b = 0 then Dev.rxSkip (d.rxEat k (if d.isEth k then x.rxBuf.length else 242 - x.rxOff)) k fuel else d
    | [] => d

/-- The first whole message of the stream: its header and its data. -/
def Link.message (x : Link) : Option (List Byte × List Byte) :=
  let h := x.rxBuf.take 32
  let n := if byteField h 0 1 = 2 then 0 else byteField h 4 4
  if h.length < 32 || x.rxBuf.length < 32 + n then none else some (h, (x.rxBuf.drop 32).take n)

/-- R486: is a message discarded. -/
def Dev.msgBad (d : Dev) (k : Nat) (h : List Byte) : Bool :=
  let op := byteField h 0 1
  let fl := byteField h 1 1
  let n := byteField h 4 4
  (op != 1 && op != 2) || fl ≥ 4 || (op = 1 && (n = 0 || n > 4096 || byteField h 8 8 % 4096 + n > 4096)) ||
    (bitAt fl 0 && !d.shortUsable ((d.linkPart k).getD 0) (byteField h 0x10 4)) || !d.flag F.LNK_RX_CFG_enable k ||
    d.ctxFaulted (d.fld F.LNK_RX_CFG_asid k)

/-- The receiver as a translation requester. -/
def Dev.rxReq (d : Dev) (k : Nat) (h : List Byte) : Requester :=
  { engine := 4, unit := k, part := (d.linkPart k).getD 0, asid := d.fld F.LNK_RX_CFG_asid k, ctxTag := byteField h 2 2 % 2 ^ 12,
    layer := byteField h 0x14 2, op := byteField h 0x16 2, waiter := .linkRx k }

/-- Bytes written through translation by a link; false while a page misses. -/
def Dev.linkWrite (d : Dev) (k : Nat) (w : Requester) (va : Nat) (bs : List Byte) : Dev × Bool :=
  let ps := pieces va bs.length
  match d.translateAll w [] (ps.map (·.1)) { write := true } with
  | (d, .error _) => (d, false)
  | (d, .ok at_) =>
    (((ps.zip at_).foldl (fun (acc : Dev × List Byte) x =>
      (acc.1.ioWrite (320 + k) x.2.line x.2.key (lineOf (x.1.1 % 128) (acc.2.take x.1.2)) (byteMask (x.1.1 % 128) x.1.2) false,
       acc.2.drop x.1.2)) (d, bs)).1, true)

/-- The oldest message taken, where it is one of the ops a command names: discarded, or delivered and counted. -/
def Dev.takeMessage (d : Dev) (k : Nat) (op : Nat → Bool) : Dev :=
  let d := d.rxSkip k ((d.link k).rxBuf.length + 1)
  match (d.link k).message with
  | none => d
  | some (h, data) =>
    let o := byteField h 0 1
    let n := 32 + data.length
    let ms := shortHandle (byteField h 0x10 4)
    let has := bitAt (byteField h 1 1) 0
    if !op o then d
    else if d.msgBad k h then ((d.linkCount k 15).rxEat k n).pump k pumpFuel
    else if o = 2 then
      ((d.when has (·.signal (linkAgent k) ms false (byteField h 0x18 8))).rxEat k n).pump k pumpFuel
    else
      match d.linkWrite k (d.rxReq k h) (byteField h 8 8) data with
      | (d, false) => d
      | (d, true) => ((d.when has (·.signal (linkAgent k) ms false data.length)).rxEat k n).pump k pumpFuel

/-- The oldest message, a PUT or one with a reserved op. -/
def execPutMessage (k : Nat) (s : State) : Host.Outcome State Fault Refusal := s.run (linkOk k) (·.takeMessage k (· != 2))
def execSignalMessage (k : Nat) (s : State) : Host.Outcome State Fault Refusal := s.run (linkOk k) (·.takeMessage k (· == 2))

/-! ### Ethernet (R489 to R493) -/

/-- What a frame that passes R492 holds: the peer, whether it is ECN-marked, the transport header and the message part. -/
structure EthIn where
  peer : Nat
  ce : Bool
  head : List Byte
  msg : List Byte
deriving DecidableEq, Repr

/-- R492: the frame's contents, or the counter of the first check that fails. -/
def Dev.ethFilter (d : Dev) (f : List Byte) : Except Nat EthIn :=
  let n := f.length
  let be (o k : Nat) : Nat := beNat ((f.drop o).take k)
  let own := d.ownPeer.getD 0
  let src := (f.drop 26).take 16
  let dst := (f.drop 42).take 16
  let udp := (f.drop 58).take (be 62 2)
  let peer := (List.range d.peerCount).find? fun i => d.peerIp i == src && d.peerMac i == (f.drop 6).take 6
  if n < 90 || crcOf 0 (f.take (n - 4)) != byteField f (n - 4) 4 then .error 11
  else if f.take 6 != d.peerMac own || be 12 2 != 0x8100 || be 14 2 % 4096 != d.secField 5 0xc 2 || be 16 2 != 0x86DD then .error 10
  else if dst != d.peerIp own then .error 9
  else match peer with
    | none => .error 9
    | some i =>
      let body := (udp.drop 8).take (udp.length - 12)
      if be 24 1 != 17 || be 60 2 != d.udpPort || udp.length < 28 || udpSum src dst udp != 65535 ||
          crcOf 1 body != byteField udp (udp.length - 4) 4 then .error 11
      else .ok { peer := i, ce := be 18 2 / 16 % 4 == 3, head := body.take 16, msg := body.drop 16 }

/-- A frame at an Ethernet link: captured, filtered, and handed to `g` where it is of a kind. -/
def Dev.frameIn (d : Dev) (k : Nat) (f : List Byte) (kind : Nat) (g : Dev → EthIn → Dev) : Dev :=
  if !d.isEth k || !d.linkUp k || d.ownPeer.isNone then d
  else
    let d := d.capture k false 16 (BitVec.ofNat 2048 (leNat (f.take 256))) false false 0
    match d.ethFilter f with
    | .error c => d.linkCount k c
    | .ok x => if byteField x.head 0 1 = kind then g d x else d

/-- Frames up to a sequence number acknowledged; the window grows by one for each window acknowledged. -/
def EthPeer.ackTo (x : EthPeer) (a : Nat) : EthPeer :=
  match findWithIdx (fun f => f.seq == a) x.unacked with
  | some (i, _) =>
    let n := x.ackedRun + i + 1
    { x with unacked := x.unacked.drop (i + 1), window := if n ≥ x.window then x.window + 1 else x.window,
             ackedRun := if n ≥ x.window then n - x.window else n }
  | none => x

/-- R491: an ECN echo halves the window, down to 4. -/
def EthPeer.echo (x : EthPeer) : EthPeer := { x with window := max 4 (x.window / 2), ackedRun := 0 }

/-- What the header of a data, ack or NAK frame acknowledges. -/
def Dev.ethAckIn (d : Dev) (k : Nat) (f : EthIn) : Dev :=
  let x := (d.ethPeer k f.peer).ackTo (byteField f.head 8 4)
  d.setEthPeer k f.peer (if bitAt (byteField f.head 1 1) 0 then x.echo else x)

/-- Every unacknowledged frame sent again, its source read again (R491). A page that misses, or a frame that the pause holds,
leaves the rest to the next time-out. -/
def Dev.ethResend (d : Dev) (k i : Nat) : Dev :=
  if (d.link k).paused then d
  else d.each (d.ethPeer k i).unacked fun d f =>
    match ((d.link k).queue f.queue).find? (·.seq == f.entry) with
    | none => d
    | some e =>
      match d.linkRead k (d.putReq k f.queue e.raw.toNat) f.src.toNat f.len with
      | (d, none) => d
      | (d, some (bs, p)) =>
        if p then d.pqFail k f.queue f.entry 5
        else (d.sendFrame k i 1 false f.seq (leBytes f.head.toNat 32 ++ bs)).linkCount k 12

/-- The whole messages of a frame, up to a pad. -/
def wholeMsgs : Nat → List Byte → List Byte
  | 0, _ => []
  | fuel + 1, l =>
    let op := byteField l 0 1
    let n := 32 + (if op = 2 then 0 else byteField l 4 4)
    if l.length < 32 || op = 0 || l.length < n then [] else l.take n ++ wholeMsgs fuel (l.drop n)

/-- R491: a data frame, in order, again, or after a gap. -/
def Dev.ethData (d : Dev) (k : Nat) (f : EthIn) : Dev :=
  if !(d.ethPeer k f.peer).identOk then d.linkCount k 9
  else
    let d := (d.ethAckIn k f).when f.ce (·.linkCount k 14)
    let x := d.ethPeer k f.peer
    let x := if f.ce then { x with ecnEcho := true } else x
    let s := byteField f.head 4 4
    if s = x.rcvNext then
      let d := d.setEthPeer k f.peer { x with rcvNext := mod32 (x.rcvNext + 1), sinceAck := x.sinceAck + 1, nakOut := false }
      let d := d.onLink k fun y => { y with rxBuf := y.rxBuf ++ wholeMsgs 132 f.msg }
      if x.sinceAck + 1 ≥ 8 then d.sendEthAck k f.peer else d
    else if seqDist x.rcvNext s < 2 ^ 31 then ((d.setEthPeer k f.peer x).linkCount k 13).sendEthAck k f.peer
    else if x.nakOut then d.setEthPeer k f.peer x
    else ((d.setEthPeer k f.peer { x with nakOut := true }).sendFrame k f.peer 3 false x.rcvNext []).linkCount k 3

def frameOk (k : Nat) (f : List Byte) : Bool := linkOk k && f.length ≤ 16384

def execEthDataFrame (k : Nat) (f : List (BitVec 8)) (s : State) : Host.Outcome State Fault Refusal :=
  s.run (frameOk k f) fun d => d.frameIn k f 1 fun d x => d.ethData k x
def execEthAck (k : Nat) (f : List (BitVec 8)) (s : State) : Host.Outcome State Fault Refusal :=
  s.run (frameOk k f) fun d => d.frameIn k f 2 fun d x => d.ethAckIn k x
/-- A NAK for `s` acknowledges up to `s` − 1. -/
def execEthNak (k : Nat) (f : List (BitVec 8)) (s : State) : Host.Outcome State Fault Refusal :=
  s.run (frameOk k f) fun d => d.frameIn k f 3 fun d x =>
    let d := (d.linkCount k 4).ethAckIn k x
    let p := d.ethPeer k x.peer
    (d.setEthPeer k x.peer (p.ackTo (mod32 (byteField x.head 4 4 + 2 ^ 32 - 1)))).ethResend k x.peer

/-- R493: an identity that matches one peer entry is recorded, any other counted and dropped. -/
def Dev.ethIdent (d : Dev) (k : Nat) (f : EthIn) : Dev :=
  if byteField f.msg 8 8 != d.fabricId || byteField f.msg 0 8 != d.peerNode f.peer || f.msg.length < 72 then d.linkCount k 8
  else
    let g := BitVec.ofNat 384 (byteField f.msg 24 48)
    d.setEthPeer k f.peer { (d.ethPeer k f.peer) with identOk := true, digest := g, mismatch := g != d.digest }

def execEthIdent (k : Nat) (f : List (BitVec 8)) (s : State) : Host.Outcome State Fault Refusal :=
  s.run (frameOk k f) fun d => d.frameIn k f 4 fun d x => d.ethIdent k x

/-- 2 µs after a frame that has not been acknowledged. -/
def execAckTimer (k i : Nat) (s : State) : Host.Outcome State Fault Refusal :=
  s.run (linkOk k && i < 256) fun d =>
    if d.isEth k && d.linkUp k && (d.ethPeer k i).sinceAck > 0 then d.sendEthAck k i else d

def execRetransmitTimeout (k i : Nat) (s : State) : Host.Outcome State Fault Refusal :=
  s.run (linkOk k && i < 256) fun d => if d.isEth k && d.linkUp k then d.ethResend k i else d

def execEthIdentRepeat (k : Nat) (s : State) : Host.Outcome State Fault Refusal :=
  s.run (linkOk k) fun d => if d.isEth k && d.linkUp k then d.identTo k fun i => !(d.ethPeer k i).identOk else d

/-- A PFC frame for priority pcp pauses it for a time, or with a time of 0 ends the pause. -/
def execPfcFrame (k : Nat) (time : BitVec 16) (s : State) : Host.Outcome State Fault Refusal :=
  s.run (linkOk k) fun d => if d.isEth k then d.onLink k fun x => { x with paused := time != 0 } else d
def execPfcPauseExpiry (k : Nat) (s : State) : Host.Outcome State Fault Refusal :=
  s.run (linkOk k) fun d => if d.isEth k then d.onLink k fun x => { x with paused := false } else d

/-! ### Test instruments (R494 to R498) -/

/-- A write of LNK_TEST_CTRL.go. -/
def Dev.testGo (d : Dev) (k : Nat) : Dev :=
  if d.isTest k then (d.onLink k fun x => { x with slot := 0 }).pump k pumpFuel else d.setFld F.LNK_INJECT_error k 1

def execTestGo (k : Nat) (s : State) : Host.Outcome State Fault Refusal := s.runBar (linkOk k) (·.testGo k)

/-- A write of LNK_INJECT with arm set (R496). A burst is complete at once. -/
def Dev.armInject (d : Dev) (k kind lane count delay : Nat) : Dev :=
  if !d.isTest k then d.setFld F.LNK_INJECT_error k 1
  else
    let now := kind = 0
    let d := d.setReg .LNK_INJECT k (b2n (!now) * 2 ^ 31 + kind * 2 ^ 28 + lane * 2 ^ 25 + count * 2 ^ 15 + delay)
    if now then d.onLink k fun x => { x with injLeft := 0, held := false, out := x.out ++ [.burst lane count] }
    else d.onLink k fun x => { x with injLeft := if kind = 3 then 1 else count, held := false }

def countOk (n : Nat) : Bool := 1 ≤ n && n < 1024

def execBitFlips (k lane count : Nat) (s : State) : Host.Outcome State Fault Refusal :=
  s.runBar (linkOk k && lane < 5 && countOk count) (·.armInject k 0 lane count 0)
def execCrcInjection (k count : Nat) (s : State) : Host.Outcome State Fault Refusal :=
  s.runBar (linkOk k && countOk count) (·.armInject k 1 0 count 0)
def execWithhold (k count : Nat) (s : State) : Host.Outcome State Fault Refusal :=
  s.runBar (linkOk k && countOk count) (·.armInject k 2 0 count 0)
def execDelay (k delay : Nat) (s : State) : Host.Outcome State Fault Refusal :=
  s.runBar (linkOk k && 1 ≤ delay && delay < 32768) (·.armInject k 3 0 0 delay)

/-- The delay of a kind-3 injection that holds a flit runs out. -/
def execInjectionDelayEnd (k : Nat) (s : State) : Host.Outcome State Fault Refusal :=
  s.run (linkOk k) fun d =>
    if (d.link k).held then
      ((d.setFld F.LNK_INJECT_arm k 0).onLink k fun x => { x with held := false, injLeft := 0 }).pump k pumpFuel
    else d

/-- R497: a capture starts; trigger 0 has occurred at once. -/
def Dev.captureGo (d : Dev) (k : Nat) : Dev :=
  let post := d.fld F.LNK_CAP_CTRL_post k
  let now := d.fld F.LNK_CAP_CTRL_trigger k = 0
  let d := d.setReg .LNK_CAP_STATUS k (b2n (!(now && post = 0)) * 2 ^ 31 + b2n now * 2 ^ 30)
  d.onLink k fun x => { x with cap := [], capPost := if now then some post else none }
def Dev.captureStop (d : Dev) (k : Nat) : Dev := d.setFld F.LNK_CAP_STATUS_running k 0

def execCaptureGo (k : Nat) (s : State) : Host.Outcome State Fault Refusal := s.runBar (linkOk k) (·.captureGo k)
def execCaptureStop (k : Nat) (s : State) : Host.Outcome State Fault Refusal := s.runBar (linkOk k) (·.captureStop k)

/-- R495: a lane's checker locks in PRBS mode. -/
def execPrbsLock (k l : Nat) (s : State) : Host.Outcome State Fault Refusal :=
  s.run (linkOk k && l < 5) fun d => if d.linkState k = 6 then d.setFld F.LNK_PRBS_locked (k * 5 + l) 1 else d
/-- It loses lock, having counted `errors` since it locked. -/
def execPrbsLockLoss (k l errors : Nat) (s : State) : Host.Outcome State Fault Refusal :=
  s.run (linkOk k && l < 5) fun d =>
    if d.flag F.LNK_PRBS_locked (k * 5 + l) then
      (d.tally F.LNK_PRBS_errors (k * 5 + l) errors).setFld F.LNK_PRBS_locked (k * 5 + l) 0
    else d

end Sys2Proof.Machine
end

