-- ==== Sys2Proof/Machine/XltRows.lean ====
section
/-! DEFINITION. Responses to translation requests, faults of contexts, invalidation, and the key slots (R396 to R409). -/

namespace Sys2Proof.Machine

/-! ### Response records (R397) -/

def rEntry (r : List Byte) : Nat := byteField r 0 8
def rTag (r : List Byte) : Nat := byteField r 8 2
def rStatus (r : List Byte) : Nat := byteField r 0xa 1
def rLevel (r : List Byte) : Nat := byteField r 0xb 1
def rAsid (r : List Byte) : Nat := byteField r 0xc 1
/-- No reserved field or status is used. -/
def rFormOk (r : List Byte) : Bool := byteField r 0xd 3 == 0 && rStatus r ≤ 4

/-- The `i`-th record handed over and not yet read. -/
def Dev.response (d : Dev) (p i : Nat) : Dev × Option (List Byte) :=
  match d.ring .XLT_RSP_RING p with
  | none => (d, none)
  | some (base, size) =>
    let h := d.fld F.XLT_RSP_HEAD_index p % size
    let t := d.fld F.XLT_RSP_TAIL_index p % size
    if i < (t + size - h) % size then
      let (d, bs, _) := d.physRead ringAgent 0 (base + (h + i) % size * 16) 16
      (d, some bs)
    else (d, none)

/-- `n` records read. -/
def Dev.responded (d : Dev) (p n : Nat) : Dev :=
  match d.ring .XLT_RSP_RING p with
  | none => d
  | some (_, size) => d.setFld F.XLT_RSP_HEAD_index p ((d.fld F.XLT_RSP_HEAD_index p + n) % size)

/-- A record discarded and counted. -/
def Dev.badResponse (d : Dev) (p : Nat) : Dev := (d.responded p 1).count F.XLT_BAD_RSP_count p

/-- Leading records with a reserved field or status discarded. -/
def Dev.skipBad (d : Dev) (p : Nat) : Nat → Dev
  | 0 => d
  | n + 1 => match d.response p 0 with
    | (d, some r) => if rFormOk r then d else Dev.skipBad (d.badResponse p) p n
    | (d, none) => d

/-- The outstanding request that a tag names, and it removed. -/
def Dev.outstanding (d : Dev) (p tag : Nat) : Option XltReq := (d.xltPart p).out.find? (·.tag == tag)
def Dev.retireReq (d : Dev) (p tag : Nat) : Dev :=
  let x := d.xltPart p
  (d.setXlt p { x with out := x.out.filter (·.tag != tag) }).postWaiting p 1024

/-- R398: does an entry keep its context's key policy. -/
def Dev.keyPolicy (d : Dev) (a e : Nat) : Bool :=
  let k := pteKey e
  bitAt (d.fld F.XLT_CTX_KEYMASK_slots a) k && d.keyLoaded k && (ptePlacement e < 4 || k == 0)

/-! ### Replay (R393, R398) -/

/-- The requester that a waiter is. -/
def Dev.waiterReq (d : Dev) (p a : Nat) (w : Waiter) : Requester :=
  match w with
  | .convoy k n => match d.convoy? k n with
    | some v => d.convoyReq k n v
    | none => { engine := 0, unit := 0, part := p, asid := a, waiter := w }
  | .mover m i =>
    let x := d.mover m
    match x.descs.find? (·.id == i), x.offers.find? (·.id == i) with
    | some y, _ => y.ctx.req m i
    | none, some o => o.ctx.req m i
    | none, none => { engine := 0, unit := 0, part := p, asid := a, waiter := w }
  | .cvu u => d.cvuReq u
  | _ => { engine := 0, unit := 0, part := p, asid := a, waiter := w }

/-- A convoy that stalls on a page of a context. -/
def Dev.stalledOn (d : Dev) (k n a page : Nat) : Option (Convoy × Stall) :=
  match d.convoy? k n with
  | some v => match v.stall with
    | some s => if s.pages.contains page && (d.launchOf k v).asid == a then some (v, s) else none
    | none => none
  | none => none

/-- The stalled instruction runs again with the translations gathered. -/
def Dev.replayConvoy (d : Dev) (k n : Nat) : Dev :=
  match d.convoy? k n with
  | none => d
  | some v =>
    match v.stall with
    | none => d
    | some s =>
      let w := s.word.toNat
      let f := if bits w 63 56 = 0xd0 then memStage k n w else memByOpcode k n w
      let d := { d with tag := some (d.launchOf k v).tag }
      let d := Dev.conclude k n v.pc (f d v)
      { d with tag := none }

/-- A waiter has its answer, the entry where the host mapped the page: a convoy, descriptor or scan goes on; a queue or a link
looks again in its own commands. -/
def Dev.wakeWaiter (d : Dev) (a page : Nat) (e : Option TlbEntry) (w : Waiter) : Dev :=
  match w with
  | .convoy k n => match d.stalledOn k n a page with
    | some (v, s) =>
      let s' := { s with pages := s.pages.filter (· != page), got := s.got ++ e.toList }
      let d := d.setConvoy k n { v with stall := some s' }
      if s'.pages.isEmpty then d.replayConvoy k n else d
    | none => d
  | .mover m i =>
    let x := d.mover m
    d.setMover m
      { x with offers := x.offers.map fun o => if o.id == i then { o with stalled := false, got := o.got ++ e.toList } else o
               descs := x.descs.map fun y => if y.id == i then { y with stalled := false, got := y.got ++ e.toList } else y }
  | .cvu u => { d with cvuStalled := d.cvuStalled.erase u }
  | _ => d

/-! ### Faults of a context (R402, R403) -/

/-- The lanes of a stalled instruction whose access lies on a page: those of its addresses, or every lane for an access of the
whole convoy. -/
def Convoy.lanesOn (v : Convoy) (w page : Nat) : Word :=
  let op := bits w 63 56
  if op = 0xd0 || op = 0x8b || op = 0x8c then v.allLanes w
  else
    let imm := if op = 0xa0 || op = 0xa1 then toSigned 20 (fImm20 w) else 0
    v.lanesWhere w fun t => pageOf (v.laneAddr w imm t) == page

/-- A waiter's access fails. -/
def Dev.failWaiter (d : Dev) (a kind page : Nat) (w : Waiter) : Dev :=
  match w with
  | .convoy k n => match d.stalledOn k n a page with
    | some (v, s) => d.deliverTrap k n 0x14 v.pc (v.lanesOn s.word.toNat page)
    | none => d
  | .mover m i => d.abandonDesc m i
  | .cvu u => d.cvuFault u 1
  | .link k q => match ((d.link k).queue q).find? (!·.allSent) with
    | some e => d.pqFail k q e.seq 3
    | none => d.setFld F.LNK_PQ_STATUS_error (k * 4 + q) 3
  | .linkRx _ => d
  | .command b q n => match (d.queue b q).fetched.head? with
    | some c => if c.seq = n then
        let g : GCmd := { cmd := c, status := 4, detail := kind, done := true }
        (d.grantCmd b q g).completeCmd b q g
      else d
    | none => d
  | .fetchq _ _ => d

/-- Is a launch one that a convoy halted on cause 0x14 belongs to: its command is not aborted (R148). -/
def Dev.haltedOnFault (d : Dev) (a q seq : Nat) : Bool :=
  d.cores.any fun y => y.2.convoys.any fun z => z.2.state == .haltedOnTrap &&
    (match z.2.trap with | some t => t.cause == 0x14 | none => false) &&
    (match NMap.find? y.2.wgs z.2.wg with | some x => x.launch.isCmd a q seq | none => false)

/-- The context's queues halt, and its commands in flight are aborted with status FAULTED. -/
def Dev.abortContext (d : Dev) (a kind : Nat) : Dev :=
  let d := d.each (List.range 64) fun d q =>
    let d := d.when (d.qState a q == 1 || d.qState a q == 2) (·.setQState a q 3)
    d.each (d.queue a q).granted fun d g =>
      if g.done || d.haltedOnFault a q g.cmd.seq then d else d.stopCmd a q g.cmd.seq 4 kind
  d.each (List.range 128) fun d i =>
    if d.fld F.LNK_PQ_CFG_asid i = a && (d.pqState i = 1 || d.pqState i = 2) then d.setPqState i 3 else d

/-- R402: a request fails. What else the context has outstanding is answered in vain. -/
def Dev.ctxFault (d : Dev) (p : Nat) (r : XltReq) (cause : Nat) : Dev :=
  let a := r.asid
  if d.ctxFaulted a then d
  else
    let d := (((d.setFld F.XLT_CTX_STATUS_faulted a 1).setFld F.XLT_CTX_STATUS_kind a r.kind).setFld
      F.XLT_CTX_STATUS_cause a cause).setReg .XLT_CTX_FAULT_VA a (r.page * 4096)
    let d := (d.errEvent (some p) 14).err
      { class_ := 2, source := some 8, unit := r.unit, part := p, detail := some (r.page * 4096), ctxTag := r.ctxTag,
        layer := r.layer, op := r.op }
    let d := d.each r.waiters fun d w => d.failWaiter a r.kind r.page w
    let d := d.abortContext a r.kind
    let x := d.xltPart p
    let others := (x.out ++ x.waiting).filter (·.asid == a)
    let d := d.setXlt p
      { x with out := x.out.map fun y => if y.asid == a then { y with dead := true, waiters := [] } else y
               waiting := x.waiting.filter (·.asid != a) }
    d.each others fun d y => d.each y.waiters fun d w => match w with
      | .cvu _ => d.wakeWaiter a y.page none w
      | _ => d

def Dev.clearFault (d : Dev) (a : Nat) : Dev := d.setFld F.XLT_CTX_STATUS_faulted a 0

def execClearFault (a : Nat) (s : State) : Host.Outcome State Fault Refusal := s.runBar (a < 64) (·.clearFault a)

/-! ### Responses (R396 to R398, R404) -/

/-- A request sent again under a new tag. -/
def Dev.resend (d : Dev) (p : Nat) (r : XltReq) : Dev := (d.retireReq p r.tag).post p { r with overlapped := false }

/-- What a response to an outstanding request does before its status counts: it is discarded where its context has been faulted
or an invalidation overlapped it; `g` goes on with the request. -/
def Dev.answered (d : Dev) (p : Nat) (rec : List Byte) (g : Dev → XltReq → Dev) : Dev :=
  match d.outstanding p (rTag rec) with
  | none => d.badResponse p
  | some r =>
    if rAsid rec != r.asid then d.badResponse p
    else if r.dead then (d.responded p 1).retireReq p r.tag
    else if r.overlapped then
      let d := d.responded p 1
      if r.kind = 4 && r.waiters.isEmpty then d.retireReq p r.tag
      else d.resend p { r with kind := if r.kind = 4 then 1 else r.kind }
    else g d r

/-- The entries of a page that a new one takes the place of leave the caches on a path. -/
def Dev.dropCovering (d : Dev) (w : Requester) (page : Nat) : Dev :=
  let keep (t : NMap TlbEntry) : NMap TlbEntry := t.filter fun x => !x.2.covers w.asid page
  let x := d.xltPart w.part
  let d := d.setXlt w.part { x with cache := keep x.cache }
  let d := match w.cluster with | some c => { d with clusterTlb := NMap.insert d.clusterTlb c (keep (NMap.getD d.clusterTlb c [])) } | none => d
  let d := match w.core with | some k => d.setCore k { (d.core k) with tlb := keep (d.core k).tlb } | none => d
  match w.mover with | some m => { d with moverTlb := NMap.insert d.moverTlb m (keep (NMap.getD d.moverTlb m [])) } | none => d

/-- R398, R401: a MAP of a valid leaf. -/
def Dev.mapAnswer (d : Dev) (p : Nat) (r : XltReq) (e level : Nat) : Dev :=
  let t : TlbEntry := { asid := r.asid, page := r.page, size := leafSize e level, entry := BitVec.ofNat 64 e, age := 1 }
  let d := d.responded p 1
  let demand := r.kind != 4 || !r.waiters.isEmpty
  let fail (cause : Nat) : Dev := if demand then (d.retireReq p r.tag).ctxFault p r cause else d.retireReq p r.tag
  if !d.keyPolicy r.asid e then fail 2
  else if r.kind = 5 && (d.placeLine p (ptePlacement e) (t.offset (r.page * 4096))).isNone then fail 3
  else
    let base : Requester := { engine := 0, unit := 0, part := p, asid := r.asid, waiter := .fetchq 0 0 }
    let d := ((d.retireReq p r.tag).dropCovering base r.page).fillPartCache p t
    let d := d.each r.waiters fun d w =>
      let q := d.waiterReq p r.asid w
      (d.dropCovering { q with part := 16 } r.page).fillPath q t
    d.each r.waiters fun d w => d.wakeWaiter r.asid r.page (some t) w

/-- The head record, where it has a status a command names; records that are not well formed before it are discarded. -/
def State.respond (s : State) (p status : Nat) (g : Dev → List Byte → Dev) : Host.Outcome State Fault Refusal :=
  s.run (partOk p) fun d =>
    match (d.skipBad p 20000).response p 0 with
    | (d, some r) => if rStatus r = status then g d r else d
    | (d, none) => d

def execResponseTailWrite (p : Nat) (tail : BitVec 14) (s : State) : Host.Outcome State Fault Refusal :=
  s.runBar (partOk p) fun d => d.setFld F.XLT_RSP_TAIL_index p tail.toNat

def execMap (p : Nat) (s : State) : Host.Outcome State Fault Refusal :=
  s.respond p 0 fun d rec => d.answered p rec fun d r =>
    if rLevel rec ≤ 2 && leafOk (rEntry rec) (rLevel rec) (r.page * 4096) then d.mapAnswer p r (rEntry rec) (rLevel rec)
    else d.badResponse p

def execRetry (p : Nat) (s : State) : Host.Outcome State Fault Refusal :=
  s.respond p 1 fun d rec => d.answered p rec fun d r => (d.responded p 1).resend p r

/-- A prefill's is ignored; a demand miss that has merged with the prefill is sent for itself. -/
def Dev.prefillRefused (d : Dev) (p : Nat) (r : XltReq) : Dev :=
  let d := d.responded p 1
  if r.waiters.isEmpty then d.retireReq p r.tag else d.resend p { r with kind := 1 }

def execUnresolvable (p : Nat) (s : State) : Host.Outcome State Fault Refusal :=
  s.respond p 2 fun d rec => d.answered p rec fun d r =>
    if r.kind = 4 then d.prefillRefused p r else ((d.responded p 1).retireReq p r.tag).ctxFault p r 1

def execDecline (p : Nat) (s : State) : Host.Outcome State Fault Refusal :=
  s.respond p 3 fun d rec => d.answered p rec fun d r => if r.kind = 4 then d.prefillRefused p r else d.badResponse p

/-- R404: is a pushed entry's address canonical and aligned. -/
def pushOk (va level : Nat) : Bool := canonical va && level ≤ 2 && va % 2 ^ (12 + 9 * level) == 0

def execPushVa (p : Nat) (s : State) : Host.Outcome State Fault Refusal :=
  s.respond p 4 fun d r =>
    if rTag r != 0xffff then d.badResponse p
    else match d.response p 1 with
      | (d, none) => d
      | (d, some m) =>
        if !(rFormOk m && rStatus m == 0 && rTag m == 0xffff && rLevel m == rLevel r && rAsid m == rAsid r) then d.badResponse p
        else
          let va := rEntry r
          let e := rEntry m
          if pushOk va (rLevel r) && rAsid r < 64 && leafOk e (rLevel r) va && d.keyPolicy (rAsid r) e then
            (d.responded p 2).fillPartCache p
              { asid := rAsid r, page := va / 4096, size := leafSize e (rLevel r), entry := BitVec.ofNat 64 e, age := 1 }
          else (d.responded p 2).count F.XLT_BAD_RSP_count p

/-- R399: the request of a tag has been out for the partition's timeout. -/
def Dev.requestTimeout (d : Dev) (p tag : Nat) : Dev :=
  if d.fld F.XLT_REQ_CTRL_timeout p = 0 then d
  else match d.outstanding p tag with
    | none => d
    | some r =>
      let d := (d.setFld F.XLT_PSTATUS_stuck p 1).retireReq p tag
      if r.dead then d else d.post p { r with flags := setBits r.flags 3 3 1 }

def execRequestTimeout (p tag : Nat) (s : State) : Host.Outcome State Fault Refusal :=
  s.run (partOk p && tag < 2 ^ 16) (·.requestTimeout p tag)

/-! ### Invalidation (R405) -/

/-- Is a page of a context, `z` its size as a power of two, in an invalidation's scope. -/
def Inval.covers (i : Inval) (asid page z : Nat) : Bool :=
  let n := 2 ^ (z - 12)
  let first := page / n * n
  match i.form with
  | 0 => asid == i.asid && first < i.page + i.count && i.page < first + n
  | 1 => asid == i.asid
  | _ => true

/-- What an invalidation removes at once: translations in the caches and gathered ones, and it marks the requests that it
overlaps. -/
def Dev.invalidate (d : Dev) (i : Inval) : Dev :=
  let keep (t : NMap TlbEntry) : NMap TlbEntry := t.filter fun x => !i.covers x.2.asid x.2.page x.2.size
  let keepL (l : List TlbEntry) : List TlbEntry := l.filter fun e => !i.covers e.asid e.page e.size
  let req (r : XltReq) : XltReq := if i.covers r.asid r.page (if r.kind = 4 then r.prefillSize else 12) then { r with overlapped := true } else r
  let cvy (v : Convoy) : Convoy := { v with stall := v.stall.map fun s => { s with got := keepL s.got } }
  let core (c : Core) : Core := { c with tlb := keep c.tlb, convoys := c.convoys.map fun y => (y.1, cvy y.2) }
  let mover (x : Mover) : Mover :=
    { x with offers := x.offers.map fun o => { o with got := keepL o.got }, descs := x.descs.map fun y => { y with got := keepL y.got } }
  { d with
    cores := d.cores.map fun y => (y.1, core y.2)
    clusterTlb := d.clusterTlb.map fun y => (y.1, keep y.2)
    moverTlb := d.moverTlb.map fun y => (y.1, keep y.2)
    movers := d.movers.map fun y => (y.1, mover y.2)
    xlt := d.xlt.map fun y => (y.1, { y.2 with cache := keep y.2.cache, out := y.2.out.map req })
    inval := [i] }

/-- A write of XLT_INV_CTRL with go. -/
def Dev.invGo (d : Dev) (form asid count : Nat) : Dev :=
  let d := d.setReg .XLT_INV_CTRL 0 (form * 2 ^ 24 + asid * 2 ^ 16 + (count - 1))
  if d.flag F.XLT_INV_STATUS_busy 0 || form > 2 then d
  else (d.invalidate ⟨form, asid, d.fld F.XLT_INV_VA_addr 0, count⟩).setFld F.XLT_INV_STATUS_busy 0 1

def execInvalidationRange (asid count : Nat) (s : State) : Host.Outcome State Fault Refusal :=
  s.runBar (asid < 64 && 1 ≤ count && count ≤ 65536) (·.invGo 0 asid count)
def execInvalidationContext (asid : Nat) (s : State) : Host.Outcome State Fault Refusal := s.runBar (asid < 64) (·.invGo 1 asid 1)
def execInvalidationDevice (s : State) : Host.Outcome State Fault Refusal := s.runBar true (·.invGo 2 0 1)

/-- The stores of the cores that work in an invalidation's scope performed at DEVICE scope (R340). -/
def Dev.performScope (d : Dev) (i : Inval) : Dev :=
  d.each d.cores fun d kc =>
    if i.form = 2 || kc.2.wgs.any (·.2.launch.asid == i.asid) then (d.drainCombining kc.1).l1Release kc.1 else d

/-- Nothing in its scope is awaited any longer. -/
def Dev.invComplete (d : Dev) : Dev :=
  match d.inval with
  | i :: _ =>
    if d.xlt.any fun y => y.2.out.any (·.overlapped) then d
    else
      let d := { d with inval := [] }.performScope i
      let d := (d.setFld F.XLT_INV_STATUS_busy 0 0).setFld F.XLT_INV_STATUS_done 0 1
      d.setFld F.XLT_INV_STATUS_completed 0 (d.fld F.XLT_INV_STATUS_completed 0 + 1)
  | [] => d

def execInvalidationComplete (s : State) : Host.Outcome State Fault Refusal := s.run true Dev.invComplete

/-! ### Keys (R407 to R409) -/

/-- The bytes of `n` 64-bit registers. -/
def Dev.regBytes (d : Dev) (r : Reg) (n : Nat) : List Byte := (List.range n).flatMap fun i => leBytes (d.reg r i) 8

/-- A write of XLT_KEK_CTRL.load. -/
def Dev.kekLoad (d : Dev) : Dev :=
  if d.flag F.XLT_KEK_CTRL_locked 0 then d
  else { d with kek := some (BitVec.ofNat 256 (leNat (d.regBytes .XLT_KEK 4))) }.setFld F.XLT_KEK_CTRL_locked 0 1

def execKekLoad (s : State) : Host.Outcome State Fault Refusal := s.runBar true Dev.kekLoad

/-- R408: the result of a load, and the key it gives. -/
def Dev.unwrapKey (d : Dev) (slot : Nat) : Nat × Option XtsKey :=
  match d.kek with
  | none => (1, none)
  | some kek =>
    match kwUnwrap kek ((d.regBytes .XLT_KEY_DATA 9).map BitVec.toNat) with
    | none => (2, none)
    | some k =>
      if bits k.toNat 511 256 = bits k.toNat 255 0 then (3, none) else if slot = 0 then (4, none) else (0, some k)

/-- A write of XLT_KEY_CTRL with go: a load (op 0) or an erase (op 1). -/
def Dev.keyGo (d : Dev) (op slot : Nat) : Dev :=
  let d := (d.setFld F.XLT_KEY_CTRL_op 0 op).setFld F.XLT_KEY_CTRL_slot 0 slot
  if d.flag F.XLT_KEY_STATUS_busy 0 then d
  else
    let x : Nat × Option XtsKey := if op = 0 then d.unwrapKey slot else if op = 1 && slot != 0 then (0, none) else (4, none)
    let d := d.setFld F.XLT_KEY_STATUS_result 0 x.1
    if x.1 = 0 then { d with keyOp := some (slot, x.2) }.setFld F.XLT_KEY_STATUS_busy 0 1 else d

def execKeyLoad (slot : Nat) (s : State) : Host.Outcome State Fault Refusal := s.runBar (slot < 64) (·.keyGo 0 slot)
def execKeyErase (slot : Nat) (s : State) : Host.Outcome State Fault Refusal := s.runBar (slot < 64) (·.keyGo 1 slot)

/-- The key, or its absence, has reached every controller. -/
def Dev.keyDone (d : Dev) : Dev :=
  match d.keyOp with
  | none => d
  | some (slot, k) =>
    let d := { d with keyOp := none }.setFld F.XLT_KEY_STATUS_busy 0 0
    let loaded := d.fld F.XLT_KEY_LOADED_slots 0
    match k with
    | some x => { d with keys := NMap.insert d.keys slot x }.setFld F.XLT_KEY_LOADED_slots 0 (setBits loaded slot slot 1)
    | none => { d with keys := NMap.erase d.keys slot }.setFld F.XLT_KEY_LOADED_slots 0 (setBits loaded slot slot 0)

def execKeyOpComplete (s : State) : Host.Outcome State Fault Refusal := s.run true Dev.keyDone

end Sys2Proof.Machine
end

