-- ==== Sys2Proof/Machine/Book.lean ====
section
/-! DEFINITION. Route-book images: header, directory and signature (R40 to R42, R51), the content rules of every section (R43
to R50 and R595), and what sealing loads from them (R52). -/

namespace Sys2Proof.Machine

/-- A little-endian field of a byte list. -/
def fieldAt (b : List Byte) (o n : Nat) : Nat := leNat ((b.drop o).take n)
/-- Are the bytes from `o` to `o + n` zero. -/
def zeroAt (b : List Byte) (o n : Nat) : Bool := ((b.drop o).take n).all (· == 0)

/-! ### Images (R40 to R42, R54) -/

/-- An entry of the section directory (R41). -/
structure SecEntry where
  ty : Nat
  critical : Bool
  off : Nat
  len : Nat
  crc : Nat
deriving DecidableEq, Repr

def secEntries (img : List Byte) (count : Nat) : List SecEntry :=
  (List.range count).map fun i =>
    let o := 0x40 + 16 * i
    ⟨fieldAt img o 2, fieldAt img (o + 2) 2 % 2 == 1, fieldAt img (o + 4) 4, fieldAt img (o + 8) 4, fieldAt img (o + 12) 4⟩

def SecEntry.bytes (e : SecEntry) (img : List Byte) : List Byte := (img.drop e.off).take e.len

/-- R41: every section lies in the image, aligned, clear of the header, directory, signature block and the sections before it,
and has the CRC its entry states. -/
def dirOk (img : List Byte) (count len : Nat) : Bool :=
  let es := secEntries img count
  let apart (a b : SecEntry) : Bool := a.len = 0 || b.len = 0 || a.off + a.len ≤ b.off || b.off + b.len ≤ a.off
  (es.all fun e => e.off % 64 == 0 && e.off + e.len ≤ len && crcOf 1 (e.bytes img) == e.crc &&
    (e.len == 0 || (0x40 + 16 * count ≤ e.off && e.off + e.len ≤ len - 192))) &&
    (List.range count).all fun i => (List.range i).all fun j =>
      match es[i]?, es[j]? with
      | some a, some b => apart a b
      | _, _ => true

/-- R42: the signature block of an image, checked with a key slot's fuses. -/
def Fuses.signed (f : Fuses) (img : List Byte) (slot len : Nat) : Bool :=
  let blk := (img.drop (len - 192)).take 192
  let be (o : Nat) : Nat := beNat ((blk.drop o).take 48)
  match NMap.find? f.keyHash slot with
  | none => false
  | some h =>
    !f.revoked.getLsbD slot && beNat (sha384 (blk.take 96)) == h.toNat &&
      ecdsaVerify (sha384 (img.take (len - 96))) (be 0) (be 48) (be 96) (be 144)

/-- R40: the header of a route book. -/
def bookHeaderOk (img : List Byte) (room : Nat) : Bool :=
  let count := fieldAt img 6 2
  let len := fieldAt img 8 4
  img.length ≥ 64 && fieldAt img 0 4 == 0x42524e56 && fieldAt img 4 2 == 1 && 1 ≤ count && count ≤ 32 &&
    16384 ≤ len && len ≤ 2097152 && len % 64 == 0 && len ≤ room && fieldAt img 0x18 1 ≤ 3 && fieldAt img 0x19 1 ≤ 1 &&
    zeroAt img 0x1a 38

/-- The rollback floor (R52). -/
def Fuses.floorValue (f : Fuses) : Nat := (f.floor.headD 0).toNat

/-! ### Content rules -/

/-- The `n` entries of `size` bytes of a section. -/
def secRows (size n : Nat) (b : List Byte) : List (List Byte) := (List.range n).map fun i => (b.drop (size * i)).take size

def noRepeats {α : Type} [DecidableEq α] : List α → Bool
  | [] => true
  | a :: l => !l.contains a && noRepeats l

/-- R44: a partition-map entry, its fields. -/
structure MapEntry where
  quads : Nat
  channels : Nat
  links : Nat
  msBase : Nat
  msCount : Nat
  power : Nat
  quantum : Nat
  flags : Nat
  meshW : Nat
  causewayW : Nat
  lpdW : Nat
  wakeTol : Nat
deriving DecidableEq, Repr

def mapEntry (e : List Byte) : MapEntry :=
  ⟨fieldAt e 0 8, fieldAt e 8 4, fieldAt e 12 4, fieldAt e 16 2, fieldAt e 18 2, fieldAt e 20 2, fieldAt e 22 2, fieldAt e 24 1,
    fieldAt e 25 1, fieldAt e 26 1, fieldAt e 27 1, fieldAt e 28 4⟩

def MapEntry.enabled (e : MapEntry) : Bool := bitAt e.flags 0
def MapEntry.reserved (e : MapEntry) : Bool := bitAt e.flags 1
def MapEntry.milestones (e : MapEntry) : Nat := (2 ^ e.msCount - 1) * 2 ^ e.msBase

/-- Bits 10, 39 and 50 to 63 of a quad mask. -/
def reservedQuads : Nat := 2 ^ 10 + 2 ^ 39 + (2 ^ 64 - 2 ^ 50)

def MapEntry.ok (e : MapEntry) : Bool :=
  e.quads != 0 && e.quads &&& reservedQuads == 0 && 1 ≤ e.quantum && e.quantum ≤ 1000 && e.flags ≤ 3 && e.msBase ≤ 63 &&
    e.msBase + e.msCount ≤ 64

/-- R45, R464: the partition map, under an envelope in watts. -/
def partMapOk (b : List Byte) (envelope : Nat) : Bool :=
  let es := ((secRows 32 16 b).map mapEntry).filter MapEntry.enabled
  let disjoint (f : MapEntry → Nat) : Bool :=
    (es.foldl (fun (a : Nat × Bool) e => (a.1 ||| f e, a.2 && a.1 &&& f e == 0)) (0, true)).2
  let weigh (f : MapEntry → Nat) : Bool := ((es.filter MapEntry.reserved).map f).sum ≤ 224
  es.all MapEntry.ok && disjoint MapEntry.quads && disjoint MapEntry.channels && disjoint MapEntry.links &&
    disjoint MapEntry.milestones && (es.map MapEntry.power).sum ≤ envelope && weigh MapEntry.meshW &&
    weigh MapEntry.causewayW && weigh MapEntry.lpdW

/-- R282. -/
def placementOk (b : List Byte) : Bool :=
  (secRows 8 16 b).all fun e => fieldAt e 0 1 ≤ 1 && fieldAt e 1 1 ≤ 2 && zeroAt e 2 6
/-- R49. -/
def splitsOk (b : List Byte) : Bool :=
  (secRows 8 16 b).all fun e => fieldAt e 0 1 ≤ 4 && fieldAt e 1 1 ≤ 4 && zeroAt e 2 6
/-- R534. -/
def sparesOk (b : List Byte) : Bool :=
  ((secRows 8 7 b).zipIdx).all fun x =>
    fieldAt x.1 0 1 == x.2 + 1 && fieldAt x.1 1 1 ≤ 2 && fieldAt x.1 2 1 ≤ 32 && zeroAt x.1 3 5

/-- R468, R469. -/
def linkRolesOk (b : List Byte) : Bool :=
  let n := fieldAt b 0xe 2
  let ls := secRows 8 32 (b.drop 0x10)
  let ps := secRows 32 n (b.drop 0x110)
  fieldAt b 0 8 != 0 && 1024 ≤ fieldAt b 8 2 && fieldAt b 0xa 1 ≤ 7 && fieldAt b 0xb 1 ≤ 63 && 1 ≤ fieldAt b 0xc 2 &&
    fieldAt b 0xc 2 ≤ 4094 && n ≤ 256 &&
    (ls.all fun e =>
      let role := fieldAt e 0 1
      role ≤ 3 && fieldAt e 1 1 < 32 && fieldAt e 2 1 < 32 && fieldAt e 3 1 ≤ (if role = 2 then 2 else 0) && zeroAt e 4 4 &&
        (role != 2 || n != 0)) &&
    (ps.all fun e => fieldAt e 0 8 != 0 && fieldAt e 8 1 % 2 == 0 && zeroAt e 14 2) &&
    noRepeats (ps.map fun e => fieldAt e 0 8) && noRepeats (ps.map fun e => fieldAt e 8 6) &&
    noRepeats (ps.map fun e => fieldAt e 16 16)

/-- R46, R47, R182, R183, R192, R221: the format descriptor table. -/
def formatsOk (b : List Byte) : Bool :=
  ((secRows 64 32 b).zipIdx).all fun x =>
    let e := x.1
    let i := x.2
    let kind := fieldAt e 1 1
    let scaling := fieldAt e 3 1
    let cb := (List.range 16).map fun j => fieldAt e (0x10 + 2 * j) 2
    let scaled := (5 ≤ i && i != 10 && scaling ≤ 2) || scaling == 0
    fieldAt e 0 1 == i &&
      (if i > 16 && kind = 0xff then true
       else
        kind == (if i ≤ 16 then 0 else 1) && fieldAt e 2 1 == fmtWidth i && scaled && zeroAt e 9 7 && zeroAt e 0x30 16 &&
          (if i < 16 then cb.all (· == 0) else cb.all fun c => bits c 14 10 != 31) &&
          [i, 3, 4, 5, 6, 11].contains (fieldAt e 8 1))

/-- R517: the last entry phase, and the silicon minimum exit in ns (R520), of the nine states. -/
def psLast : List Nat := [0, 2, 3, 0, 0, 0, 1, 2, 1]
def psMin : List Nat := [50, 5000, 60000, 10, 2000, 200000, 20000, 2000000, 700000000]

/-- R520. -/
def powerStatesOk (b : List Byte) : Bool :=
  ((secRows 16 9 b).zipIdx).all fun x =>
    let e := x.1
    let i := x.2
    let last := psLast.getD i 0
    let ab := fieldAt e 1 1
    let rbb := fieldAt e 2 2
    let assist := fieldAt e 4 1
    let extra := if i = 1 && rbb > 250 then 2000 * ceilDiv (rbb - 250) 50 else 0
    fieldAt e 0 1 == i && ab ≤ last && (ab != 0 || last == 0) && rbb ≤ 300 && assist ≤ 3 && zeroAt e 5 3 &&
      (i == 1 || i == 7 || (rbb == 0 && assist == 0)) && psMin.getD i 0 + extra ≤ fieldAt e 8 4

/-- R521. -/
def restoreOk (b : List Byte) : Bool :=
  let es := secRows 8 (b.length / 8) b
  (es.all fun e => [1, 2, 3, 4, 7, 8, 9, 10, 11].contains (fieldAt e 0 1) && zeroAt e 1 1) &&
    [1, 2, 4].all fun c => es.any fun e => fieldAt e 0 1 == c

def dividers : List Nat := [4, 5, 6, 8, 12, 16]

/-- R504. -/
def dvfsOk (b : List Byte) : Bool :=
  let es := secRows 8 (b.length / 8) b
  let pts := es.map fun e => (fieldAt e 0 2, fieldAt e 2 1)
  (es.all fun e =>
    let root := fieldAt e 0 2
    5600 ≤ root && root ≤ 7200 && root % 200 == 0 && dividers.contains (fieldAt e 2 1) && zeroAt e 3 1 &&
      600 ≤ fieldAt e 4 2 && fieldAt e 4 2 ≤ 860 && zeroAt e 6 2) &&
    noRepeats pts && (pts.all fun p => pts.contains (p.1, 4)) && pts.contains (6400, 4)

/-- R523. -/
def thermalOk (b : List Byte) : Bool :=
  (secRows 8 (b.length / 8) b).all fun e =>
    let src := fieldAt e 0 1
    let act := fieldAt e 4 1
    let arg := fieldAt e 5 1
    src ≤ 5 && fieldAt e 1 1 ≤ 3 && 60 ≤ fieldAt e 2 1 && fieldAt e 2 1 ≤ (if src = 0 then 102 else 94) &&
      1 ≤ fieldAt e 3 1 && fieldAt e 3 1 ≤ 10 && zeroAt e 6 2 &&
      ((act == 1 && [5, 6, 8, 12, 16].contains arg) || (act == 2 && arg == 0) || (act == 3 && src != 0 && [2, 4].contains arg))

/-- R50. -/
def watchdogsOk (b : List Byte) : Bool :=
  let env := fieldAt b 0 2
  (env == 0 || (500 ≤ env && env ≤ 1000 && env % 25 == 0)) && fieldAt b 2 1 ≤ 4 && fieldAt b 3 1 ≤ 1 &&
    fieldAt b 4 4 ≤ 10000 && zeroAt b 8 8 &&
    (secRows 8 16 (b.drop 0x10)).all fun e => fieldAt e 0 4 ≤ 60000 && fieldAt e 4 2 ≤ 1000 && zeroAt e 6 2

/-- R439. -/
def bootOk (b : List Byte) : Bool :=
  let mode := fieldAt b 0 1
  let primary := fieldAt b 1 1
  let role (p : Nat) : Nat := fieldAt b (2 + p) 1
  let vf (p : Nat) : Nat := fieldAt b (4 + p) 1
  let cxl := fieldAt b 6 1
  let off := fieldAt b 8 4
  let len := fieldAt b 0xc 4
  let load := fieldAt b 0x10 8
  let entry := fieldAt b 0x18 4
  mode ≤ 1 && primary ≤ 1 && role 0 ≤ 2 && role 1 ≤ 2 && vf 0 ≤ 63 && vf 1 ≤ 63 && cxl ≤ 3 && zeroAt b 7 1 && zeroAt b 0x1c 4 &&
    vf 0 + vf 1 ≤ 64 && (mode == 1 || (role 0 != 1 && role 1 != 1 && role primary == 0)) &&
    ([0, 1].all fun p => role p == 0 || (vf p == 0 && !bitAt cxl p)) &&
    (mode == 0 ||
      (0 < len && len ≤ 2 ^ 26 && 0x1000000 ≤ off && off % 4096 == 0 && load % 4096 == 0 && entry % 2 == 0 && entry + 192 < len &&
        advertisedVault (load / 2 ^ 30) && advertisedVault ((load + len - 1) / 2 ^ 30)))

/-- R595: does a section of a known type have the length its layout gives. -/
def secLengthOk (ty : Nat) (b : List Byte) : Bool :=
  let n := b.length
  match ty with
  | 1 => n == 512 | 2 => n == 128 | 3 => n == 128 | 4 => n == 56
  | 5 => n ≥ 272 && n == 272 + 32 * fieldAt b 0xe 2
  | 6 => n == 2048 | 7 => n == 144
  | 8 => n % 8 == 0 && 8 ≤ n && n ≤ 256
  | 9 => n % 8 == 0 && 8 ≤ n && n ≤ 128
  | 10 => n % 8 == 0 && 8 ≤ n && n ≤ 128
  | 11 => n == 144 | 12 => n == 32
  | _ => true

/-- The content rules of one section; `envelope` is what the watchdogs section sets. -/
def secContentOk (envelope ty : Nat) (b : List Byte) : Bool :=
  secLengthOk ty b &&
  match ty with
  | 1 => partMapOk b envelope | 2 => placementOk b | 3 => splitsOk b | 4 => sparesOk b | 5 => linkRolesOk b | 6 => formatsOk b
  | 7 => powerStatesOk b | 8 => restoreOk b | 9 => dvfsOk b | 10 => thermalOk b | 11 => watchdogsOk b | 12 => bootOk b
  | _ => true

/-- The known sections of an image, by type. -/
def imageSections (img : List Byte) (count : Nat) : NMap (List Byte) :=
  ((secEntries img count).filter fun e => 1 ≤ e.ty && e.ty ≤ 12).foldl (fun m e => NMap.insert m e.ty (e.bytes img)) []

/-- The envelope in watts that the watchdogs section sets (R48, R50). -/
def envelopeOf (secs : NMap (List Byte)) : Nat :=
  let e := fieldAt (NMap.getD secs 11 []) 0 2
  if e = 0 then 1000 else e

/-- R43: no type twice, nothing critical that is unknown, every required section, and each one's own rules. -/
def contentOk (img : List Byte) : Bool :=
  let count := fieldAt img 6 2
  let es := secEntries img count
  let secs := imageSections img count
  noRepeats (es.map (·.ty)) && (es.all fun e => (1 ≤ e.ty && e.ty ≤ 12) || !e.critical) &&
    ([1, 2, 3, 4, 5, 6, 7, 8].all fun t => (NMap.find? secs t).isSome) &&
    secs.all fun x => secContentOk (envelopeOf secs) x.1 x.2

/-- R51: the first check a copy fails, 0 the checks of step 1, 1 part or stepping, 2 the floor, 3 content. -/
def Fuses.bookFail (f : Fuses) (img : List Byte) (room : Nat) : Option Nat :=
  let len := fieldAt img 8 4
  if !(bookHeaderOk img room && dirOk img (fieldAt img 6 2) len && f.signed img (fieldAt img 0x18 1) len) then some 0
  else if fieldAt img 0x10 4 != 0x1600 || !bitAt (fieldAt img 0x14 4) 1 then some 1
  else if fieldAt img 0xc 4 < f.floorValue then some 2
  else if !contentOk img then some 3
  else none

/-! ### What a sealed book sets (R52) -/

/-- The partition table the sections give. -/
def partCfg (secs : NMap (List Byte)) (p : Nat) : PartCfg :=
  let sec (t : Nat) : List Byte := NMap.getD secs t []
  let e := mapEntry ((sec 1).drop (32 * p))
  let wd := fieldAt (sec 11) (0x10 + 8 * p) 4
  let gate := fieldAt (sec 11) (0x14 + 8 * p) 2
  { enabled := e.enabled, reserved := e.reserved, quads := e.quads, channels := e.channels, links := e.links,
    msBase := e.msBase, msCount := e.msCount, power := e.power, quantum := e.quantum, meshW := e.meshW,
    causewayW := e.causewayW, lpdW := e.lpdW, wakeTol := e.wakeTol, spreadHash := fieldAt (sec 2) (8 * p) 1,
    capGranule := fieldAt (sec 2) (8 * p + 1) 1, localCode := fieldAt (sec 3) (8 * p) 1,
    clusterCode := fieldAt (sec 3) (8 * p + 1) 1, watchdogMs := if wd = 0 then 1000 else wd,
    sleepGate := if gate = 0 then 2 else gate }

def partTable (secs : NMap (List Byte)) : NMap PartCfg :=
  (List.range 16).foldl (fun m p => if (partCfg secs p).enabled then NMap.insert m p (partCfg secs p) else m) []

/-- The format descriptor table. -/
def fmtTable (b : List Byte) : List FmtDesc :=
  (secRows 64 32 b).map fun e =>
    { kind := fieldAt e 1 1, scaling := fieldAt e 3 1, satThr := fieldAt e 4 2, ufThr := fieldAt e 6 2,
      detourFmt := fieldAt e 8 1, codebook := (List.range 16).map fun j => fieldAt e (0x10 + 2 * j) 2 }

/-- R305, R528: the L1 ways and L2 ways left as cache. -/
def localKib (code : Nat) : Nat := 32 * code
def clusterKib (code : Nat) : Nat := 256 * code

/-- The split registers of a partition's clusters (R49, R305). A retired L2 way stays retired. -/
def Dev.writeSplits (d : Dev) (p : Nat) : Dev :=
  let x := d.part p
  d.each (d.partClusters p) fun d c =>
    let retired := 16 - (d.fld F.DIR_L2_CONFIG_cache_ways c + 2 * (d.fld F.DIR_L2_CONFIG_cluster_kib c / 256))
    let d := (d.setFld F.DIR_L2_CONFIG_cluster_kib c (clusterKib x.clusterCode)).setFld F.DIR_L2_CONFIG_cache_ways c
      (16 - 2 * x.clusterCode - retired)
    d.each ((List.range 8).map (· + 8 * c)) fun d k =>
      (d.setFld F.CVY_L1_CONFIG_local_kib k (localKib x.localCode)).setFld F.CVY_L1_CONFIG_cache_ways k (12 - 2 * x.localCode)

/-- The registers of a partition that the book sets (R9). -/
def Dev.writePart (d : Dev) (p : Nat) : Dev :=
  let x := d.part p
  (((d.setFld F.MS_WDOG_PERIOD_ms p x.watchdogMs).setFld F.PRT_SLICE_CTRL_quantum p x.quantum).setFld F.PWR_WAKE_TOL_us p
    (min x.wakeTol (2 ^ 20 - 1))).writeSplits p

/-- R50: ARR_CTRL.ckrow_rate for the section's checksum_row. -/
def ckrowRate (v : Nat) : Nat := match v with | 0 => 3 | 1 => 1 | 2 => 2 | 3 => 3 | _ => 0

/-- The link registers the book sets. -/
def Dev.writeLinks (d : Dev) : Dev :=
  d.each (List.range 32) fun d k => d.setFld F.LNK_STATUS_role k (d.secByte 5 (0x10 + 8 * k))

/-- R391: the cache position a partition takes, on the die that holds the most of its quads. -/
def Dev.placeCache (d : Dev) (p : Nat) : Dev :=
  let q := (d.part p).quads
  let west := popCount q 25
  let pref := if west ≥ popCount (q >>> 25) 25 then 0 else 8
  let used := (NMap.erase d.cachePos p).map (·.2)
  let order := (List.range 8).map (· + pref) ++ (List.range 8).map (· + (8 - pref))
  match order.find? fun i => !used.contains i with
  | some i => { d with cachePos := NMap.insert d.cachePos p i }
  | none => d

/-- R52 step 1: every register and table the book's sections set. -/
def Dev.program (d : Dev) (secs : NMap (List Byte)) : Dev :=
  let d : Dev := { d with sys := { d.sys with sections := secs }, parts := partTable secs, fmts := fmtTable (NMap.getD secs 6 []) }
  let d := d.setFld F.PWR_STATUS_envelope 0 (envelopeOf secs)
  let rate := ckrowRate (d.secByte 11 2)
  let d := d.each ((List.range 1600).filter coreOk) fun d k => d.setFld F.ARR_CTRL_ckrow_rate k rate
  let d := (d.setFld F.HIF_STATUS_mode 0 (d.secByte 12 0)).setFld F.HIF_STATUS_primary 0 (d.secByte 12 1)
  let d := d.each [0, 1] fun d p =>
    ((d.setFld F.HIF_PORT_STATUS_role p (d.secByte 12 (2 + p))).setFld F.HIF_PORT_STATUS_vf_count p (d.secByte 12 (4 + p))).setFld
      F.HIF_PORT_STATUS_cxl p (b2n (d.flag F.HIF_PORT_STATUS_cxl p && bitAt (d.secByte 12 6) p))
  let ps := (List.range 16).filter fun p => (d.part p).enabled
  ((d.each ps Dev.writePart).each ps Dev.placeCache).writeLinks

/-- R59: the published digest and CRC. -/
def Dev.publish (d : Dev) (digest : List Byte) (crc : Nat) : Dev :=
  (d.each (List.range 6) fun d n => d.setReg .RLB_DIGEST n (fieldAt digest (8 * n) 8)).setReg .RLB_CRC 0 crc

/-- The published digest's 48 bytes. -/
def Dev.digestBytes (d : Dev) : List Byte := d.regBytes .RLB_DIGEST 6

end Sys2Proof.Machine
end

