-- ==== Sys2Proof/Machine/Startup.lean ====
section
/-! DEFINITION. Pins and supplies (R588 to R592), the start-up sequence (R62, R63), sealing (R52), the hard shoulder (R64, R65)
and what each of them does to the silicon. -/

namespace Sys2Proof.Machine

/-! ### Silicon lost and kept -/

/-- The registers of the always-on domain (R503): route book, power and wardens. -/
def Block.alwaysOn : Block → Bool
  | .rlb => true | .pwr => true | .wdn => true | .mbx => true | _ => false

def onRegs : List Nat := (Reg.all.filter fun r => r.block.alwaysOn).map (·.ctorIdx)

/-- Does a line's content outlive the dies: the host's memory always, the capacity tier in self-refresh (R64, R545). -/
def lineOutlives (keepLpd : Bool) (l : Nat) : Bool := isHost l || (keepLpd && isCapacity l)

/-- Compute, Qorriop and mesh domains switched off: every part of the state that lies there is lost, with stacked memory. The
always-on domain, the capacity tier in self-refresh and the host's own memory stay. -/
def Dev.darken (d : Dev) (keepLpd : Bool) : Dev :=
  { ({} : Dev) with
    regs := d.regs.filter fun x => onRegs.contains (x.1 % 256), time := d.time, freeCtr := d.freeCtr, errQ := d.errQ,
    mem := d.mem.filter (fun x => lineOutlives keepLpd (x.1 / 128)), poison := d.poison.filter (lineOutlives keepLpd),
    upsets := d.upsets.filter (fun x => lineOutlives keepLpd x.1), hostFail := d.hostFail, hostMarked := d.hostMarked,
    chanShift := d.chanShift, ranks := d.ranks, wlog := d.wlog, irqs := d.irqs, pwr := d.pwr, sys := d.sys }

/-- Trained capacity channels go into self-refresh; without training there is nothing to keep. -/
def Dev.lpdSleep (d : Dev) : Dev := { d with sys := { d.sys with lpdRefresh := d.sys.lpdTrained } }

/-- The silicon switched off with the capacity tier in self-refresh. -/
def Dev.powerDown (d : Dev) : Dev :=
  let d := (d.darken d.sys.lpdTrained).lpdSleep
  { d with
    pwr := {}
    sys := { d.sys with
      amend := none, amendQ := [], shoulderDrain := false, harts := 0, propWait := [], propDone := [], coreOut := [],
      sramUsed := [], laneBad := [] } }

/-- Bytes put into the data window. -/
def Dev.fillWindow (d : Dev) (a : Nat) (bs : List Byte) : Dev :=
  { d with sys := { d.sys with mbx := (bs.zipIdx).foldl (fun m x => NMap.put (α := Byte) m (a + x.2) x.1 0) d.sys.mbx } }

/-- R67, R70: the command running ends with a result, and its tag goes into the window. -/
def Dev.mbxDone (d : Dev) (result : Nat) : Dev :=
  let d := d.fillWindow 0 [BitVec.ofNat 8 d.sys.mbxTag]
  ((d.setFld F.WDN_MBX_STATUS_result 0 result).setFld F.WDN_MBX_STATUS_busy 0 0).setFld F.WDN_MBX_STATUS_done 0 1

/-- R64, R65: into the hard shoulder with a cause. An ENTER_SHOULDER that was draining ends with it. -/
def Dev.enterShoulder (d : Dev) (cause : Nat) : Dev :=
  let d := d.settle
  let d := if d.sys.shoulderDrain then d.mbxDone 0 else d
  let d := d.powerDown
  let d : Dev := { d with sys := { d.sys with phase := .shoulder, romMailbox := cause == 1 || cause == 0x20 } }
  d.setFld F.WDN_MBX_STATUS_cause 0 cause

/-- R538: a fatal error: its record, then the hard shoulder with cause 0x22. -/
def Dev.fatal (d : Dev) (source detail : Option Nat) : Dev :=
  (d.err { class_ := 3, source := source, detail := detail }).enterShoulder 0x22

/-- Registers as after RESET_N, the held cause kept (R65). On a RESTART the trained ports stay as they are (R67), and so
does the mailbox, whose command it is. -/
def Dev.regsReset (d : Dev) (keepPorts : Bool) : Dev :=
  let old := d
  let d := ({ d with regs := [] } : Dev).setFld F.WDN_MBX_STATUS_cause 0 (old.fld F.WDN_MBX_STATUS_cause 0)
  let keep (d : Dev) (r : Reg) (n : Nat) : Dev := d.each (List.range n) fun d i => d.setReg r i (old.reg r i)
  if keepPorts then
    keep (keep (keep (keep d .HIF_PORT_STATUS 2) .WDN_MBX_STATUS 1) .WDN_MBX_CMD 1) .WDN_MBX_ARG 4
  else d

/-- The 0 ms row of R62. -/
def Dev.startUp (d : Dev) (restart : Bool) : Dev :=
  let ports := [0, 1].map fun p => d.reg .HIF_PORT_STATUS p % 2 ^ 20
  let d := d.powerDown
  let d := (d.setReg .HIF_PORT_STATUS 0 (ports.getD 0 0)).setReg .HIF_PORT_STATUS 1 (ports.getD 1 0)
  let y := d.sys
  let d := d.regsReset restart
  { d with
    parts := [], fmts := []
    sys := { y with
      phase := .firmware, restarting := restart, romMailbox := false, fwUse := y.fwRam, bookUse := y.bookRam, fwRam := [],
      bookRam := [], found := none, selfMap := 0, sections := [], startups := y.startups + 1, reloads := [], wdnLoading := [], wdnOut := [], missed := [] } }

/-! ### Pins -/

/-- The part of a flash write under way that a reset tears: the sectors it touches hold nothing defined (R590). -/
def Dev.tearFlash (d : Dev) : Dev :=
  match d.sys.flashOp with
  | none => d
  | some (off, bs) =>
    let a := off / 4096 * 4096
    let n := (off + bs.length - 1) / 4096 * 4096 + 4096 - a
    let junk := (List.range n).map fun i => (Config.freeValue (d.freeCtr + i)).truncate 8
    { d with freeCtr := d.freeCtr + n, sys := { d.sys.program a junk with flashOp := none } }

/-- R589, R590: RESET_N low: capacity channels into self-refresh, CORE_EN low, a latched THERMTRIP_N released, and everything
that is not in flash, fuses or the held cause as at reset. -/
def Dev.resetAssert (d : Dev) : Dev :=
  let d := (d.tearFlash.powerDown).regsReset false
  { d with
    wlog := []
    sys := { d.sys with
      phase := .inReset, resetN := false, coreEn := false, thermtrip := false, fwRam := [], bookRam := [], fwUse := [],
      bookUse := [], restarting := false, romMailbox := false, found := none, selfMap := 0, sections := [], hostTrained := [],
      mbx := [], mbxTag := 0, mbxHeld := [], smbOff := 0, smbOut := [], uartOut := [], reloads := [], wdnLoading := [], wdnOut := [], missed := [] } }

def execResetNAssert (s : State) : Host.Outcome State Fault Refusal := s.runOn true Dev.resetAssert

/-- R588, R592: RESET_N high: the sequence starts once PG_IN has been high for 1 ms; a release while a junction reads 100 °C or
more leaves the device in reset with THERMTRIP_N low. -/
def Dev.resetRelease (d : Dev) (hot : Bool) : Dev :=
  if d.sys.resetN then d
  else
    let d : Dev := { d with sys := { d.sys with resetN := true, thermtrip := hot } }
    if d.sys.pgHigh && !hot && d.sys.powered then d.startUp false else d

def execResetNRelease (hot : Bool) (s : State) : Host.Outcome State Fault Refusal := s.runOn true (·.resetRelease hot)

/-- R588: PG_IN has been high for 1 ms; a release that came earlier takes effect. -/
def Dev.pgRise (d : Dev) : Dev :=
  let d : Dev := { d with sys := { d.sys with pgIn := true, pgHigh := true, powered := true } }
  if d.sys.phase == .inReset && d.sys.resetN && !d.sys.thermtrip then d.startUp false else d

def execPgInHigh (s : State) : Host.Outcome State Fault Refusal := s.runOn true Dev.pgRise

/-- R589, R590: PG_IN falls. -/
def Dev.pgFall (d : Dev) : Dev :=
  let up := d.sys.resetN && !d.sys.thermtrip && d.sys.phase != .inReset
  let d : Dev := { d with sys := { d.sys with pgIn := false, pgHigh := false } }
  if !d.sys.resetN then d
  else
    let d : Dev := { d with sys := { d.sys with coreEn := false } }
    if up && d.sys.phase != .shoulder then d.fatal none none else d

def execPgInFall (s : State) : Host.Outcome State Fault Refusal := s.runOn true Dev.pgFall

/-- R591: every clock derived from REFCLK stops; the always-on sequencer runs on its own oscillator. -/
def execRefclkLoss (s : State) : Host.Outcome State Fault Refusal :=
  s.runOn true fun d => { d with sys := { d.sys with refclk := false } }

/-- R592: THERMTRIP_N asserted: self-refresh, CORE_EN low, PLLs stopped, ports and links down. -/
def Dev.thermTrip (d : Dev) : Dev :=
  let d := d.powerDown
  { d with sys := { d.sys with phase := .inReset, thermtrip := true, coreEn := false, hostTrained := [] } }

/-- A port's PHY and configuration space held in reset; PERST_N of a root port is the device's own output (R583). -/
def Dev.perstLow (d : Dev) (p : Nat) : Dev :=
  if d.fld F.HIF_PORT_STATUS_role p = 1 then d
  else
    let d := ((d.setFld F.HIF_PORT_STATUS_speed p 0).setFld F.HIF_PORT_STATUS_width p 0).setFld F.HIF_PORT_STATUS_cxl p 0
    { d with sys := { d.sys with perst := insSorted p d.sys.perst, hostTrained := d.sys.hostTrained.erase p } }

def execPerstAssert (p : Nat) (s : State) : Host.Outcome State Fault Refusal := s.runOn (p < 2) (·.perstLow p)

def execPerstDeassert (p : Nat) (s : State) : Host.Outcome State Fault Refusal :=
  s.runOn (p < 2) fun d =>
    if d.fld F.HIF_PORT_STATUS_role p = 1 then d else { d with sys := { d.sys with perst := d.sys.perst.erase p } }

/-- R62, R444: a port trained: lanes, speed code and whether as CXL. -/
def Dev.portTrained (d : Dev) (p width speed : Nat) (cxl : Bool) : Dev :=
  if d.sys.phase == .inReset || d.sys.perst.contains p || d.fld F.HIF_PORT_STATUS_role p = 2 then d
  else
    let d := ((d.setFld F.HIF_PORT_STATUS_speed p speed).setFld F.HIF_PORT_STATUS_width p width).setFld F.HIF_PORT_STATUS_cxl p
      (b2n cxl)
    { d with sys := { d.sys with hostTrained := insSorted p d.sys.hostTrained } }

def execHostPortTrained (p width speed : Nat) (cxl : Bool) (s : State) : Host.Outcome State Fault Refusal :=
  s.runOn (p < 2 && [1, 4, 8, 16].contains width && 1 ≤ speed && speed ≤ 6) (·.portTrained p width speed cxl)

/-- R65, R589: without VDD_AON nothing is left but flash and fuses, which need no power. The host's memory is the host's. -/
def Dev.unpowered (d : Dev) : Dev :=
  let d := d.tearFlash
  let e := d.darken false
  { ({} : Dev) with
    mem := e.mem, poison := e.poison, hostFail := e.hostFail, hostMarked := e.hostMarked, irqs := e.irqs, freeCtr := d.freeCtr
    sys := { powered := false, flash := d.sys.flash, flashSize := d.sys.flashSize, refclk := d.sys.refclk } }

def execPowerRemoval (s : State) : Host.Outcome State Fault Refusal := s.runOn true Dev.unpowered

/-- Is the device between reset and the hard shoulder, where a fatal error can arise. -/
def Dev.alive (d : Dev) : Bool := d.sys.phase != .inReset && d.sys.phase != .shoulder

def execVddCoreExcursion (s : State) : Host.Outcome State Fault Refusal :=
  s.runOn true fun d => if d.alive then d.fatal none none else d

/-- `r` is the mesh row of the Causeway port. -/
def execCausewayRowPortLoss (r : Nat) (s : State) : Host.Outcome State Fault Refusal :=
  s.run (r < 10) fun d => d.fatal (some 12) (some r)

/-! ### Firmware and self-test -/

/-- R62, the 90 ms row; `okA`, `okB` and `okStaged` are what verifying each copy gives. -/
def Dev.firmwareDone (d : Dev) (okA okB okStaged : Bool) : Dev :=
  if d.sys.phase != .firmware || !d.sys.refclk then d
  else
    let copy : Option Nat := if d.sys.fwUse.isEmpty then (if okA then some 0 else if okB then some 1 else none)
      else if okStaged then some 2 else none
    match copy with
    | none => d.enterShoulder 1
    | some c => { d with time := 0, pwr := { d.pwr with vdd := 750 }, sys := { d.sys with phase := .selfTest, fwCopy := c, coreEn := true, restarting := false } }

def execFirmwareVerified (okA okB okStaged : Bool) (s : State) : Host.Outcome State Fault Refusal :=
  s.runOn true (·.firmwareDone okA okB okStaged)

/-- Bad cores, those with more than two bad columns among them (R63). -/
def testCores (f : SelfTest) : List Nat :=
  f.badCores ++ ((f.badColumns.filter fun x => x.2.length > 2).map (·.1))
/-- Vaults to be mapped out (R287). -/
def testVaults (f : SelfTest) : List Nat :=
  (List.range 200).filter fun v => !heldCluster v &&
    (f.badLines.contains v || f.badLanes.any fun x => x.1 == v && x.2.length > 8)

def countIn (l : List Nat) (lo hi : Nat) : Nat := ((List.range (hi - lo)).filter fun i => l.contains (lo + i)).length

/-- R63: the fatal findings, bit *n* standing for cause 0x10 + *n*. -/
def testFatal (f : SelfTest) : Nat :=
  let die (l : List Nat) (n most : Nat) : Bool := countIn l 0 n > most || countIn l n (2 * n) > most
  b2n (die (testCores f) 800 32) + 2 * b2n (die (testVaults f) 100 4) + 4 * b2n (die f.badHarts 12 2) + 8 * b2n f.sramBeyond +
    16 * b2n (!f.badPorts.isEmpty) + 32 * b2n (f.badLinks.any fun x => x.2 ≥ 2)

/-- The operands of a self-test name parts that exist. -/
def testOk (f : SelfTest) : Bool :=
  f.badCores.all (· < 1600) && f.badColumns.all (fun x => x.1 < 1600 && noRepeats x.2 && x.2.all (· < 35)) &&
    f.badLanes.all (fun x => x.1 < 200 && noRepeats x.2 && x.2.all (· < 152)) && f.badLines.all (· < 200) &&
    f.badHarts.all (· < 24) && f.badPorts.all (· < 10) && f.badLinks.all fun x => x.1 < 32 && x.2 ≤ 5

/-- Every vault trained: the lanes found bad, and every line written with zeros and read back
(R287), which its line counts see (R302). -/
def Dev.trainVaults (d : Dev) (f : SelfTest) : Dev :=
  let d : Dev := { d with mem := d.mem.filter (fun x => !isStacked (x.1 / 128)), poison := d.poison.filter (fun l => !isStacked l) }
  d.each (List.range 200) fun d v =>
    let bad := ((f.badLanes.find? (·.1 == v)).map (·.2)).getD []
    let d : Dev := { d with sys := { d.sys with laneBad := NMap.put d.sys.laneBad v bad [] } }
    let d : Dev := { d with vaults := NMap.insert d.vaults v { (NMap.getD d.vaults v {}) with dir := 1 } }
    let d := ((d.setReg .VLT_WRITE_LINES v (2 ^ 23)).setReg .VLT_READ_LINES v (2 ^ 23)).setReg .VLT_TURN_COUNT v 1
    ((d.setFld F.VLT_LANES_bad_lanes v bad.length).setFld F.VLT_LANES_spares_used v (min 8 bad.length)).setFld F.VLT_STATUS_state v 2

/-- R62, R63: self-test ends. The lowest fatal cause is the one held. -/
def Dev.selfTestDone (d : Dev) (f : SelfTest) : Dev :=
  if d.sys.phase != .selfTest || !d.sys.refclk then d
  else
    let m := testFatal f
    let d : Dev := { d with sys := { d.sys with selfMap := m, found := some f } }
    match (List.range 6).find? (bitAt m ·) with
    | some n => d.enterShoulder (0x10 + n)
    | none =>
      let d := d.trainVaults f
      let d : Dev := { d with sys := { d.sys with phase := .book } }
      if d.flag F.RLB_STATUS_sealed 0 then d else d.setFld F.RLB_STATUS_state 0 1

def execSelfTestComplete (f : SelfTest) (s : State) : Host.Outcome State Fault Refusal :=
  s.runOn (testOk f) (·.selfTestDone f)

/-! ### Selecting and sealing a book (R51, R52) -/

def bookBase (copy : Nat) : Nat := 0x800000 + 0x200000 * copy

/-- A copy in flash, as long as its header says. -/
def Sys.bookCopy (s : Sys) (copy : Nat) : List Byte :=
  s.flashBytes (bookBase copy) (min 0x200000 (leNat (s.flashBytes (bookBase copy + 8) 4)))

/-- The copies of a start-up: 2 staged, or 0 and 1 of flash, each with the first check it fails. -/
def bookCopies (f : Fuses) (s : Sys) : List (Nat × List Byte × Option Nat) :=
  if s.bookUse.isEmpty then
    [0, 1].map fun c =>
      let img := s.bookCopy c
      (c, img, f.bookFail img 0x200000)
  else [(2, s.bookUse, f.bookFail s.bookUse (min 0x200000 s.bookUse.length))]

/-- Copies that reached step 3, in the order in which they are tried: the higher version first, A on a tie. -/
def bookOrder (cs : List (Nat × List Byte × Option Nat)) : List (Nat × List Byte × Option Nat) :=
  match cs.filter fun c => c.2.2.isNone || c.2.2 == some 3 with
  | [a, b] => if fieldAt b.2.1 0xc 4 > fieldAt a.2.1 0xc 4 then [b, a] else [a, b]
  | l => l

/-- R51 step 5: the cause of the copy that got furthest. -/
def bookCause (cs : List (Nat × List Byte × Option Nat)) : Nat :=
  [2, 5, 3, 4].getD (cs.foldl (fun m c => max m (c.2.2.getD 0)) 0) 2

/-- R52 step 4: the fuses and RLB_STATUS after the floor is raised. -/
def raiseFloor (f : Fuses) (d : Dev) (raise : Bool) (version : Nat) : Fuses × Dev :=
  if !raise || version ≤ f.floorValue then (f, d)
  else if f.floor.length < 64 then
    ({ f with floor := BitVec.ofNat 32 version :: f.floor }, d.setFld F.RLB_STATUS_floor_raised 0 1)
  else (f, d.setFld F.RLB_STATUS_floor_spent 0 1)

/-- The intact entries of the repair record that still count, and whether one was torn (R541). -/
def Sys.repairRecord (s : Sys) : List (List Byte) × Bool :=
  match s.repairActive with
  | none => ([], false)
  | some h =>
    let es := s.repairEntries h
    (repairLive es, es.any fun e => !repairValid e)

/-- The proposal a record's entry stands for. -/
def entryProp (e : List Byte) : Prop0 :=
  let u := fieldAt e 2 2
  let x := fieldAt e 4 4
  let kind := fieldAt e 0 1
  { kind := kind, part := 0xff, reason := 0, unit := u / 8, slot := u % 8, sub := if kind = 5 then x / 256 else x,
    row := if kind = 5 then x % 256 else 0 }

/-- R534, R541: one entry applied at start-up, or proposed again where its kind waits for approval. -/
def Dev.applyRecord (d : Dev) (e : List Byte) : Dev :=
  let p := entryProp e
  let pending := bitAt (fieldAt e 1 1) 1
  if p.kind = 8 then
    let q := fieldAt e 2 2
    let mv := fieldAt e 4 4
    { d with sys := { d.sys with
      guard := NMap.put d.sys.guard q (mv % 256) 0, guardCap := if mv ≥ 256 then insSorted q d.sys.guardCap else d.sys.guardCap } }
  else if pending && d.spareMode p.kind = 1 then
    d.trigger { p with part := (d.clusterPart p.unit).getD 0xff, reason := 1 }
  else if p.kind = 3 || (p.kind = 1 && (d.backedBy 1 p.unit p.slot).isSome) || (p.kind = 4 && d.vaultBacked p.unit) ||
      (p.kind = 7 && (d.backedBy 7 0 p.unit).isSome) then d
  else if p.kind = 2 && ((d.flag F.ARR_SPARE_MAP_spare0_in (p.unit * 8 + p.slot) &&
      d.fld F.ARR_SPARE_MAP_spare0_col (p.unit * 8 + p.slot) == p.sub) || (d.flag F.ARR_SPARE_MAP_spare1_in (p.unit * 8 + p.slot) &&
      d.fld F.ARR_SPARE_MAP_spare1_col (p.unit * 8 + p.slot) == p.sub)) then d
  else (d.applyRepair p []).1

/-- The register number of a held core, 32 × die + 8 × position + slot (R546), if the core is held. -/
def heldCoreIndex (k : Nat) : Option Nat := (List.range 64).find? fun i => heldCoreOf i == k
/-- Held vaults and Qorriop positions by register number. -/
def heldVaultOf (j : Nat) : Nat := (quadClusters (if j / 4 = 0 then 10 else 39)).getD (j % 4) 0
def heldHartOf (k : Nat) : Nat := [10, 11, 22, 23].getD k 0

/-- R63: what self-test found repaired silently: bad held parts set aside, then cores, columns, vaults and Qorriop cores. -/
def Dev.repairFindings (d : Dev) (f : SelfTest) : Dev :=
  let held (d : Dev) (r : Reg) (n : Nat) (bad : Nat → Bool) : Dev :=
    d.each ((List.range n).filter bad) fun d i => d.setReg r i 0x40000000
  let d := held d .WDN_CORE_BACK 64 fun i => (testCores f).contains (heldCoreOf i)
  let d := held d .WDN_VAULT_BACK 8 fun j =>
    f.badLines.contains (heldVaultOf j) || f.badLanes.any fun x => x.1 == heldVaultOf j && x.2.length > 8
  let d := held d .WDN_QOR_BACK 4 fun k => f.badHarts.contains (heldHartOf k)
  let d := d.each ((List.range 1600).filter fun k => coreOk k && (testCores f).contains k) fun d k => (d.retireCore k).1
  let d := d.each (f.badColumns.filter fun x => x.2.length ≤ 2) fun d x => d.each x.2 fun d c => (d.spareColumn x.1 c).1
  let d := d.each (testVaults f) fun d v => (d.mapOut v).1
  d.each ((List.range 24).filter fun k => !heldHart k && f.badHarts.contains k) fun d k => (d.backUp 7 (k / 12) 0 k 5).1

/-- R62, the 736 ms row: the spare map from findings, repair record and spare policy. -/
def Dev.spareMap (d : Dev) : Dev :=
  let d := match d.sys.found with | some f => d.repairFindings f | none => d
  let (es, torn) := d.sys.repairRecord
  let d := if torn then d.err { class_ := 4, source := some 11 } else d
  d.each es Dev.applyRecord

/-- R52: a book sealed. -/
def sealBook (f : Fuses) (d : Dev) (copy : Nat) (img : List Byte) : Fuses × Dev :=
  let len := fieldAt img 8 4
  let img := img.take len
  let version := fieldAt img 0xc 4
  let d := (d.program (imageSections img (fieldAt img 6 2))).spareMap
  let d := d.publish (sha384 img) (crcOf 2 img)
  let d := (((d.setFld F.RLB_STATUS_sealed 0 1).setFld F.RLB_STATUS_state 0 2).setFld F.RLB_STATUS_source 0 copy).setFld
    F.RLB_STATUS_key_slot 0 (fieldAt img 0x18 1)
  let d := d.setReg .RLB_BOOK_VERSION 0 version
  raiseFloor f { d with sys := { d.sys with phase := .lpddr } } (fieldAt img 0x19 1 == 1) version

/-- R51, R62: the copies checked, one selected and sealed, or the hard shoulder. A copy is marked bad for a check that was made
on it: content is checked only on a copy that was tried. Leaving P6 keeps the sealed book (R516). -/
def loadBook (x : Fuses × Dev) : Fuses × Dev :=
  let (f, d) := x
  if d.sys.phase != .book || !d.sys.refclk then (f, d)
  else if d.flag F.RLB_STATUS_sealed 0 then
    let d := (d.program d.sys.sections).spareMap
    (f, { d with sys := { d.sys with phase := .lpddr } })
  else
    let cs := bookCopies f d.sys
    let order := bookOrder cs
    let sel := order.find? fun (c : Nat × List Byte × Option Nat) => c.2.2.isNone
    let before := match sel with
      | some s => order.takeWhile fun (c : Nat × List Byte × Option Nat) => c.1 != s.1
      | none => order
    let bad (c : Nat) : Bool := cs.any fun y => y.1 == c && (match y.2.2 with
      | none => false
      | some 3 => before.any fun z => z.1 == c
      | some _ => true)
    let d := (d.setFld F.RLB_STATUS_copy_a_bad 0 (b2n (bad 0))).setFld F.RLB_STATUS_copy_b_bad 0 (b2n (bad 1))
    match sel with
    | some s => sealBook f d s.1 s.2.1
    | none => (f, (d.setFld F.RLB_STATUS_state 0 0).enterShoulder (bookCause cs))

def execBookLoaded (s : State) : Host.Outcome State Fault Refusal := s.runSys true loadBook

/-! ### Running (R62, R440) -/

/-- R440: the Qorriop image copied from flash to where the book loads it, and verified; H0 starts if it passes. -/
def selfBoot (f : Fuses) (d : Dev) : Dev :=
  if d.secByte 12 0 = 0 then d
  else
    let off := d.secField 12 8 4
    let len := d.secField 12 0xc 4
    if off + len > d.sys.flashSize then d.setFld F.HIF_STATUS_self_boot_failed 0 1
    else
      let img := d.sys.flashBytes off len
      let d := d.physWrite ringAgent 0 (d.secField 12 0x10 8) img
      if f.signed img (d.fld F.RLB_STATUS_key_slot 0) len && d.hartLives 0 then { d with sys := { d.sys with harts := d.sys.harts ||| 1 } }
      else d.setFld F.HIF_STATUS_self_boot_failed 0 1

/-- The vaults and clusters of the partitions in service, those of the free pool off (R45, R62). -/
def Dev.enableParts (d : Dev) : Dev :=
  let d := d.each (List.range 200) fun d c =>
    if heldCluster c then
      let used := (List.range 8).any fun j => heldVaultOf j == c && bitAt (d.reg .WDN_VAULT_BACK j) 31
      (d.setFld F.PWR_CLUSTER_STATUS_state c 3).setFld F.VLT_STATUS_state c (if used then 2 else 5)
    else if (d.clusterPart c).isSome then (d.setFld F.PWR_CLUSTER_STATUS_state c 0).setFld F.VLT_STATUS_state c 2
    else (d.setFld F.PWR_CLUSTER_STATUS_state c 3).setFld F.VLT_STATUS_state c 5
  (d.nearVaults 0).nearVaults 1

/-- R62, R63: LPDDR-5X training ends. -/
def lpddrDone (f : Fuses) (d : Dev) (ms : List LpdFound) : Dev :=
  if d.sys.phase != .lpddr || !d.sys.refclk then d
  else
    let m := ms.headD ⟨false, 0, 0, 0⟩
    if ms.any (fun x => !x.ok || x.shift != m.shift) then
      let d : Dev := { d with sys := { d.sys with selfMap := d.sys.selfMap ||| 64 } }
      d.enterShoulder 0x16
    else
      let d := d.each ms.zipIdx fun d x =>
        ((((d.setFld F.LPD_STATUS_rate x.2 x.1.rate).setFld F.LPD_STATUS_channels_trained x.2 15).setFld F.LPD_STATUS_ranks x.2
          x.1.ranks).setFld F.LPD_STATUS_capacity x.2 x.1.shift).setFld F.LPD_STATUS_state x.2 2
      let d : Dev := { d with
        chanShift := m.shift, ranks := m.ranks
        sys := { d.sys with phase := .running, lpdTrained := true, lpdRefresh := false } }
      let d := if d.fld F.PWR_STATUS_pkg_state 0 = 3 then
          ((d.setFld F.PWR_STATUS_pkg_state 0 0).setFld F.PWR_PKG_STATUS_result 0 2).setFld F.PWR_PKG_STATUS_busy 0 0
        else d
      selfBoot f d.enableParts

def execLpddrTrainingComplete (ms : List LpdFound) (s : State) : Host.Outcome State Fault Refusal :=
  s.runOn (ms.length == 8 && ms.all fun x => x.shift < 3 && 1 ≤ x.ranks && x.ranks ≤ 2 && x.rate < 2 ^ 14) fun d =>
    lpddrDone s.fuses d ms

end Sys2Proof.Machine
end

