-- ==== Sys2Proof/Machine/Mailbox.lean ====
section
/-! DEFINITION. The diagnostic mailbox (R66 to R68, R70) and its SMBus/I3C and UART paths (R584, R585), and the drain of a
partition (R56, R266, R513). -/

namespace Sys2Proof.Machine

/-! ### Draining a partition -/

/-- The descriptors of a partition at the movers: offered or accepted. -/
def Dev.partDescs (d : Dev) (p : Nat) : List (Issuer × Bool) :=
  d.movers.flatMap fun x =>
    ((x.2.offers.filter (·.ctx.part == p)).map fun o => (o.issuer, false)) ++
      ((x.2.descs.filter (·.ctx.part == p)).map fun y => (y.issuer, y.started))

/-- R56, R266: the drain of a partition begins: its clusters wake, its slice is asked to end, and its MOVE commands that have a
descriptor not yet started end ABORTED. -/
def Dev.beginDrain (d : Dev) (p : Nat) : Dev :=
  let d := d.each (d.partClusters p) Dev.wakeCluster
  let d := d.setPstate p { (d.pstate p) with draining := true }
  let cut := (d.partDescs p).filterMap fun x => match x with
    | (.command a q seq, false) => some (a, q, seq)
    | _ => none
  (d.each cut fun d x => d.stopCmd x.1 x.2.1 x.2.2 7 0).sliceLook p

/-- Has a drain reached its boundary: nothing of the partition is resident or moves, and its slice has ended. -/
def Dev.drained (d : Dev) (p : Nat) : Bool :=
  (d.partDescs p).isEmpty && (d.cores.all fun k => k.2.wgs.all fun w => w.2.launch.part != p) && (d.holder p).isNone

/-- The partition is released; the slice goes on as a hand-over finds it. -/
def Dev.endDrain (d : Dev) (p : Nat) : Dev :=
  (d.setPstate p { (d.pstate p) with draining := false, switching := false }).handover p

/-! ### Commands -/

/-- The state the mailbox reports (R70). -/
def Dev.mbxState (d : Dev) : Nat :=
  match d.sys.phase with
  | .running => 1
  | .shoulder => 2
  | _ => if d.sys.restarting then 3 else 0

def Dev.mbxArg (d : Dev) (i : Nat) : Nat := d.reg .WDN_MBX_ARG i
def Sys.window (s : Sys) : List Byte := (List.range 256).map fun i => NMap.getD (α := Byte) s.mbx i 0
/-- R65, R67: is a command served in the state the device is in. -/
def Dev.mbxServes (d : Dev) (op : Nat) : Bool :=
  if d.sys.phase == .shoulder && d.sys.romMailbox then
    if d.fld F.WDN_MBX_STATUS_cause 0 = 0x20 then [1, 5, 6].contains op else [1, 2, 3, 5, 6].contains op
  else match d.sys.phase with
    | .running => op != 9
    | .shoulder => op != 8
    | _ => op == 1 || op == 2

/-- STATUS. -/
def Dev.mbxStatus (d : Dev) : Dev :=
  let bytes := [0, BitVec.ofNat 8 d.mbxState, BitVec.ofNat 8 (d.fld F.WDN_MBX_STATUS_cause 0),
    BitVec.ofNat 8 (d.fld F.HIF_STATUS_self_boot_failed 0)] ++ leBytes d.sys.selfMap 8 ++ List.replicate 4 0 ++ d.digestBytes
  (d.fillWindow 0 bytes).mbxDone 0

/-- READ_LOG: 256 bytes of the event log, zero past its end, or of the repair record's active half (R541). -/
def Dev.mbxLog (d : Dev) : Dev :=
  let off := d.mbxArg 0
  let bytes : List Byte :=
    if bitAt off 31 then d.sys.flashBytes (repairBase (d.sys.repairActive.getD 0) + bits off 30 0) 256
    else ((d.wlog.flatMap fun r => leBytes r.toNat 32).drop off).take 256
  if bitAt off 31 && bits off 30 0 + 256 > repairHalf then d.mbxDone 2
  else (d.fillWindow 0 (bytes ++ List.replicate (256 - bytes.length) 0)).mbxDone 0

/-- R67: the flash regions WRITE_FLASH refuses. -/
def Dev.flashShut (d : Dev) (off n : Nat) : Bool :=
  let touches (a len : Nat) : Bool := off < a + len && a < off + n
  touches 0xc00000 0x100000 || (d.sys.fwCopy < 2 && !d.sys.romMailbox && touches (0x400000 * d.sys.fwCopy) 0x400000) ||
    (d.flag F.RLB_STATUS_sealed 0 && d.fld F.RLB_STATUS_source 0 < 2 && touches (bookBase (d.fld F.RLB_STATUS_source 0)) 0x200000)

/-- WRITE_FLASH begins; FLASH_WRITE_COMPLETE ends it. -/
def Dev.mbxWriteFlash (d : Dev) : Dev :=
  let off := d.mbxArg 0
  let n := d.mbxArg 1
  if n = 0 || n > 256 || off + n > d.sys.flashSize then d.mbxDone 2
  else if d.flashShut off n then d.mbxDone 1
  else { d with sys := { d.sys with flashOp := some (off, d.sys.window.take n) } }

/-- STAGE_BOOK and LOAD_WARDEN_FW: block 0 begins an image anew, and blocks come in order. -/
def stageBlock (ram : List Byte) (block most : Nat) (win : List Byte) : Option (List Byte) :=
  let ram := if block = 0 then [] else ram
  if block < most && block * 256 == ram.length then some (ram ++ win) else none

def Dev.mbxStage (d : Dev) : Dev :=
  match stageBlock d.sys.bookRam (d.mbxArg 0) 8192 d.sys.window with
  | some r => ({ d with sys := { d.sys with bookRam := r } } : Dev).mbxDone 0
  | none => d.mbxDone 2
def Dev.mbxLoadFw (d : Dev) : Dev :=
  match stageBlock d.sys.fwRam (d.mbxArg 0) 16384 d.sys.window with
  | some r => ({ d with sys := { d.sys with fwRam := r } } : Dev).mbxDone 0
  | none => d.mbxDone 2

/-- ENTER_SHOULDER: every partition drained first. -/
def Dev.mbxEnter (d : Dev) : Dev :=
  let d : Dev := { d with sys := { d.sys with shoulderDrain := true } }
  d.each ((List.range 16).filter fun p => (d.part p).enabled) Dev.beginDrain

/-- R42, R67: FUSE_KEY, for an empty slot 1 to 3. -/
def mbxFuse (f : Fuses) (d : Dev) : Fuses × Dev :=
  let slot := d.mbxArg 0
  if slot = 0 || slot > 3 then (f, d.mbxDone 2)
  else if (NMap.find? f.keyHash slot).isSome then (f, d.mbxDone 1)
  else ({ f with keyHash := NMap.insert f.keyHash slot (BitVec.ofNat 384 (beNat (d.sys.window.take 48))) }, d.mbxDone 0)

/-- REVOKE_KEY: refused for the slot that signed the running book. -/
def mbxRevoke (f : Fuses) (d : Dev) : Fuses × Dev :=
  let slot := d.mbxArg 0
  if slot > 3 then (f, d.mbxDone 2)
  else if d.flag F.RLB_STATUS_sealed 0 && d.fld F.RLB_STATUS_key_slot 0 = slot then (f, d.mbxDone 1)
  else ({ f with revoked := f.revoked ||| BitVec.ofNat 4 (2 ^ slot) }, d.mbxDone 0)

/-- One command carried out. -/
def mbxRun (op : Nat) (f : Fuses) (d : Dev) : Fuses × Dev :=
  match op with
  | 1 => (f, d.mbxStatus)
  | 2 => (f, d.mbxLog)
  | 3 => (f, d.mbxWriteFlash)
  | 4 => (f, d.mbxStage)
  | 5 => (f, d.mbxLoadFw)
  | 6 => (f, (d.startUp true).mbxDone 0)
  | 7 => (f, (d.setFld F.WDN_MBX_STATUS_cause 0 0).mbxDone 0)
  | 8 => (f, d.mbxEnter)
  | 9 => mbxFuse f d
  | 10 => mbxRevoke f d
  | _ => (f, d.mbxDone 2)

/-- R66, R70: a go: dropped while a command runs; refused in a state that does not serve it. -/
def mbxGo (op tag : Nat) (x : Fuses × Dev) : Fuses × Dev :=
  let (f, d) := x
  if d.sys.phase == .inReset || !d.sys.powered then (f, d)
  else
    let d := d.barWake.setReg .WDN_MBX_CMD 0 (tag * 256 + op)
    if d.flag F.WDN_MBX_STATUS_busy 0 then (f, d.setFld F.WDN_MBX_STATUS_busy_reject 0 1)
    else
      let d : Dev := { d with sys := { d.sys with mbxTag := tag } }
      let d := (d.setFld F.WDN_MBX_STATUS_busy 0 1).setFld F.WDN_MBX_STATUS_done 0 0
      if 1 ≤ op && op ≤ 10 && !d.mbxServes op then (f, d.mbxDone 1) else mbxRun op f d

/-- A mailbox command of one opcode. -/
def State.mailbox (s : State) (op : Nat) (tag : BitVec 8) : Host.Outcome State Fault Refusal :=
  s.runSys true (mbxGo op tag.toNat)

def execStatus (tag : BitVec 8) (s : State) : Host.Outcome State Fault Refusal := s.mailbox 1 tag
def execReadLog (tag : BitVec 8) (s : State) : Host.Outcome State Fault Refusal := s.mailbox 2 tag
def execWriteFlash (tag : BitVec 8) (s : State) : Host.Outcome State Fault Refusal := s.mailbox 3 tag
def execStageBook (tag : BitVec 8) (s : State) : Host.Outcome State Fault Refusal := s.mailbox 4 tag
def execLoadWardenFw (tag : BitVec 8) (s : State) : Host.Outcome State Fault Refusal := s.mailbox 5 tag
def execRestart (tag : BitVec 8) (s : State) : Host.Outcome State Fault Refusal := s.mailbox 6 tag
def execClearCause (tag : BitVec 8) (s : State) : Host.Outcome State Fault Refusal := s.mailbox 7 tag
def execEnterShoulder (tag : BitVec 8) (s : State) : Host.Outcome State Fault Refusal := s.mailbox 8 tag
def execFuseKey (tag : BitVec 8) (s : State) : Host.Outcome State Fault Refusal := s.mailbox 9 tag
def execRevokeKey (tag : BitVec 8) (s : State) : Host.Outcome State Fault Refusal := s.mailbox 10 tag

/-- R68: the sectors of a write after it: one whose first byte is written is erased whole, every other keeps its other bytes. -/
def Sys.writeFlash (s : Sys) (off : Nat) (bs : List Byte) : Sys :=
  let n := bs.length
  let sectors := (List.range ((off + n - 1) / 4096 + 1 - off / 4096)).map fun i => (off / 4096 + i) * 4096
  (sectors.foldl (fun s a => if off ≤ a then s.erase a 4096 else s) s).program off bs

/-- R68: the write ends; `mismatch` is what reading it back finds, and then the sectors hold nothing defined. -/
def Dev.flashDone (d : Dev) (mismatch : Bool) : Dev :=
  match d.sys.flashOp with
  | none => d
  | some (off, bs) =>
    if mismatch then d.tearFlash.mbxDone 3
    else ({ d with sys := { d.sys.writeFlash off bs with flashOp := none } } : Dev).mbxDone 0

def execFlashWriteComplete (mismatch : Bool) (s : State) : Host.Outcome State Fault Refusal := s.runOn true (·.flashDone mismatch)

/-- R67, R535: the drain before the hard shoulder is over; the partitions that have drained get their approved repairs. -/
def Dev.shoulderGo (d : Dev) (all : Bool) (lanes : List (Nat × List Nat)) : Dev :=
  let ps := (List.range 16).filter fun p => (d.part p).enabled
  if !d.sys.shoulderDrain || (all && !ps.all d.drained) then d
  else
    let d := d.each (ps.filter d.drained) fun d p => d.repairPart p lanes
    d.enterShoulder 0x21

def laneMapOk (lanes : List (Nat × List Nat)) : Bool := lanes.all fun x => x.1 < 200 && noRepeats x.2 && x.2.all (· < 152)

/-- `lanes` are the bad lanes that an approved vault retrain finds. -/
def execShoulderDrainComplete (lanes : List (Nat × List Nat)) (s : State) : Host.Outcome State Fault Refusal :=
  s.run (laneMapOk lanes) (·.shoulderGo true lanes)
def execShoulderDrainLimit (lanes : List (Nat × List Nat)) (s : State) : Host.Outcome State Fault Refusal :=
  s.run (laneMapOk lanes) (·.shoulderGo false lanes)

/-! ### The capability's bytes (R70, R584) -/

/-- WDN_MBX_STATUS as it reads. -/
def Dev.mbxStatusWord (d : Dev) : Nat := setBits (d.reg .WDN_MBX_STATUS 0) 3 0 d.mbxState

/-- The byte at an offset of the capability. -/
def Dev.mbxByte (d : Dev) (o : Nat) : Byte :=
  let w (v i : Nat) : Byte := BitVec.ofNat 8 (v >>> (8 * i))
  if o < 8 || o ≥ 0x120 then 0xff
  else if o < 0xc then w d.mbxStatusWord (o - 8)
  else if o < 0x10 then w (d.reg .WDN_MBX_CMD 0) (o - 0xc)
  else if o < 0x20 then w (d.mbxArg ((o - 0x10) / 4)) (o % 4)
  else NMap.getD (α := Byte) d.sys.mbx (o - 0x20) 0

/-- A register of the capability written with a word (R70). -/
def mbxWord (o v : Nat) (x : Fuses × Dev) : Fuses × Dev :=
  let (f, d) := x
  if o = 8 then
    (f, d.setReg .WDN_MBX_STATUS 0 (setBits (setBits (d.reg .WDN_MBX_STATUS 0) 9 9 (b2n (d.flag F.WDN_MBX_STATUS_busy_reject 0 && !bitAt v 9)))
      8 8 (b2n (d.flag F.WDN_MBX_STATUS_done 0 && !bitAt v 8))))
  else if o = 0xc then
    if bitAt v 31 then mbxGo (bits v 7 0) (bits v 15 8) (f, d) else (f, d.setReg .WDN_MBX_CMD 0 (bits v 15 0))
  else (f, d.setReg .WDN_MBX_ARG ((o - 0x10) / 4) v)

/-- R584: one byte written: a register takes effect with its highest byte, of bytes held until then. -/
def mbxPut (x : Fuses × Dev) (ob : Nat × Byte) : Fuses × Dev :=
  let (f, d) := x
  let (o, b) := ob
  if o < 8 || o ≥ 0x120 then (f, d)
  else if o ≥ 0x20 then (f, d.fillWindow (o - 0x20) [b])
  else
    let held := NMap.insert d.sys.mbxHeld o b
    if o % 4 = 3 then
      let v := leNat ((List.range 4).map fun i => NMap.getD (α := Byte) held (o - 3 + i) (d.mbxByte (o - 3 + i)))
      mbxWord (o - 3) v (f, { d with sys := { d.sys with mbxHeld := held.filter fun y => y.1 / 4 != o / 4 } })
    else (f, { d with sys := { d.sys with mbxHeld := held } })

/-- R593: do the sideband targets answer. -/
def Dev.sideband (d : Dev) : Bool := d.sys.powered && d.sys.phase != .inReset

/-- R584: a write transfer at an offset, which advances by one per byte. -/
def smbusWrite (off : Nat) (bs : List Byte) (x : Fuses × Dev) : Fuses × Dev :=
  let (f, d) := x
  if !d.sideband then (f, d)
  else
    let d : Dev := { d with sys := { d.sys with smbOff := off + bs.length } }
    ((bs.zipIdx).map fun y => (off + y.2, y.1)).foldl mbxPut (f, d)

def execSmbusWrite (off : Nat) (bs : List Byte) (s : State) : Host.Outcome State Fault Refusal :=
  s.runSys (off < 2 ^ 16) (smbusWrite off bs)

/-- R584: a read transfer of `n` bytes from where the offset stands. -/
def Dev.smbusRead (d : Dev) (n : Nat) : Dev :=
  if !d.sideband then d
  else
    let o := d.sys.smbOff
    { d with sys := { d.sys with smbOff := o + n, smbOut := (List.range n).map fun i => d.mbxByte (o + i) } }

def execSmbusRead (n : Nat) (s : State) : Host.Outcome State Fault Refusal := s.runOn true (·.smbusRead n)

/-- R585: the response with its CRC-16. -/
def Dev.uartAnswer (d : Dev) (status : Nat) (bs : List Byte) : Dev :=
  let r := BitVec.ofNat 8 status :: bs
  { d with sys := { d.sys with uartOut := r ++ leBytes (crcOf 3 r) 2 } }

/-- R585: the bytes of a request but for its CRC. -/
def uartHead (code off n : Nat) : List Byte := BitVec.ofNat 8 code :: leBytes off 2 ++ leBytes (n - 1) 1

def uartRange (off n : Nat) : Bool := 8 ≤ off && off + n ≤ 0x120

/-- R585: a write request with the CRC it carries. -/
def uartWrite (off : Nat) (bs : List Byte) (crc : Nat) (x : Fuses × Dev) : Fuses × Dev :=
  let (f, d) := x
  if !d.sideband then (f, d)
  else if crcOf 3 (uartHead 0x57 off bs.length ++ bs) != crc then (f, d.uartAnswer 1 [])
  else if !uartRange off bs.length then (f, d.uartAnswer 2 [])
  else
    let (f, d) := ((bs.zipIdx).map fun y => (off + y.2, y.1)).foldl mbxPut (f, d)
    (f, d.uartAnswer 0 [])

def execUartWrite (off : Nat) (bs : List Byte) (crc : BitVec 16) (s : State) : Host.Outcome State Fault Refusal :=
  s.runSys (off < 2 ^ 16 && 1 ≤ bs.length && bs.length ≤ 256) (uartWrite off bs crc.toNat)

/-- R585: a read request. -/
def Dev.uartRead (d : Dev) (off n crc : Nat) : Dev :=
  if !d.sideband then d
  else if crcOf 3 (uartHead 0x52 off n) != crc then d.uartAnswer 1 []
  else if !uartRange off n then d.uartAnswer 2 []
  else d.uartAnswer 0 ((List.range n).map fun i => d.mbxByte (off + i))

def execUartRead (off n : Nat) (crc : BitVec 16) (s : State) : Host.Outcome State Fault Refusal :=
  s.runOn (off < 2 ^ 16 && 1 ≤ n && n ≤ 256) (·.uartRead off n crc.toNat)

/-- R585: a request broken off leaves nothing, and no response. -/
def execUartTimeout (s : State) : Host.Outcome State Fault Refusal := s.runOn true id

end Sys2Proof.Machine
end

