-- ==== Sys2Proof/Machine/Amend.lean ====
section
/-! DEFINITION. Route amendments (R54 to R60, R461), repair amendments (R58, R291, R536) and the host's decisions on proposals
(R535). -/

namespace Sys2Proof.Machine

/-! ### Images and their rules -/

/-- R54: the fields of an amendment's header. -/
def amTarget (img : List Byte) : Nat := fieldAt img 0xc 1
def amSlot (img : List Byte) : Nat := fieldAt img 0xd 1
def amCount (img : List Byte) : Nat := fieldAt img 6 2
def amLength (img : List Byte) : Nat := fieldAt img 8 4

/-- The largest image the wardens read: as long as a route book may be. -/
def amMost : Nat := 2097152

def amHeaderOk (img : List Byte) : Bool :=
  let len := amLength img
  fieldAt img 0 4 == 0x41524e56 && fieldAt img 4 2 == 1 && 1 ≤ amCount img && amCount img ≤ 32 && len ≤ amMost &&
    64 + 16 * amCount img + 192 ≤ len && img.length == len && amTarget img < 16 && amSlot img ≤ 3 && zeroAt img 0xe 2 &&
    dirOk img (amCount img) len

/-- Two sections that agree but for the entry of `n` bytes at `o`. -/
def sameBut (a b : List Byte) (o n : Nat) : Bool :=
  a.take o == b.take o && a.drop (o + n) == b.drop (o + n) && a.length == b.length

/-- R54: does a section touch nothing but what belongs to partition `p`; `links` are the links the amended map gives it. -/
def amSecOk (p links ty : Nat) (old new : List Byte) : Bool :=
  match ty with
  | 1 => sameBut old new (32 * p) 32
  | 2 => sameBut old new (8 * p) 8
  | 3 => sameBut old new (8 * p) 8
  | 5 =>
    let mine (k : Nat) : Bool := bitAt links k
    old.take 0x10 == new.take 0x10 && old.drop 0x110 == new.drop 0x110 && old.length == new.length &&
      (List.range 32).all fun k => mine k || (old.drop (0x10 + 8 * k)).take 8 == (new.drop (0x10 + 8 * k)).take 8
  | 11 => sameBut (if old.isEmpty then List.replicate 144 0 else old) new (0x10 + 8 * p) 8
  | _ => false

/-- The sections with an amendment's in their place. -/
def amSections (old : NMap (List Byte)) (img : List Byte) : NMap (List Byte) :=
  (imageSections img (amCount img)).foldl (fun m x => NMap.insert m x.1 x.2) old

/-- R54, R55: the content rules. -/
def amContentOk (old : NMap (List Byte)) (img : List Byte) : Bool :=
  let es := secEntries img (amCount img)
  let new := amSections old img
  let p := amTarget img
  let links := fieldAt ((NMap.getD new 1 []).drop (32 * p)) 0xc 4
  noRepeats (es.map (·.ty)) && (es.all fun e => amSecOk p links e.ty (NMap.getD old e.ty []) (e.bytes img)) &&
    new.all fun x => secContentOk (envelopeOf new) x.1 x.2

/-- R56 step 1: the code of RLB_AMEND_STATUS that refuses an image, if any. -/
def amRefusal (f : Fuses) (d : Dev) (img : List Byte) (poisoned : Bool) : Option Nat :=
  if poisoned || !amHeaderOk img then some 10
  else if !f.signed img (amSlot img) (amLength img) then some 8
  else if (img.drop 0x10).take 48 != d.digestBytes then some 9
  else if !amContentOk d.sys.sections img then some 10
  else none

def Dev.amCode (d : Dev) (c : Nat) : Dev := d.setFld F.RLB_AMEND_STATUS_code 0 c

/-! ### The queue (R58) -/

/-- The next amendment or repair taken from the queue: a route amendment is verified now, and one that fails changes nothing. -/
def amNext (f : Fuses) (d : Dev) : Nat → Dev
  | 0 => d
  | n + 1 =>
    match d.sys.amend, d.sys.amendQ with
    | none, .repair p :: q =>
      ({ d with sys := { d.sys with amend := some (.repair p), amendQ := q } } : Dev).beginDrain p
    | none, .route p img :: q =>
      let d : Dev := { d with sys := { d.sys with amendQ := q } }
      match amRefusal f d img false with
      | some c => amNext f (d.amCode c) n
      | none =>
        (({ d with sys := { d.sys with amend := some (.route p img) } } : Dev).amCode 2 |>.setFld F.RLB_STATUS_state 0 3).beginDrain p
    | _, _ => d

/-- The image at RLB_AMEND_ADDR, and whether a poisoned line lies in it. -/
def Dev.amRead (d : Dev) : Dev × List Byte × Bool :=
  let a := d.fld F.RLB_AMEND_ADDR_addr 0 * 128
  let (d, h, p) := d.physRead ringAgent 0 a 64
  let len := min amMost (amLength h)
  if p || len < 64 then (d, h, p)
  else
    let (d, b, q) := d.physRead ringAgent 0 (a + 64) (len - 64)
    (d, h ++ b, q)

/-- R56, R58: a go. -/
def amSubmit (f : Fuses) (d : Dev) : Dev :=
  let c := d.fld F.RLB_AMEND_STATUS_code 0
  if 1 ≤ c && c ≤ 3 then d.setFld F.RLB_AMEND_STATUS_busy_reject 0 1
  else
    let (d, img, p) := d.amRead
    let d := d.setFld F.RLB_AMEND_STATUS_partition 0 (amTarget img)
    if p then d.amCode 10
    else
      let d := d.amCode 1
      amNext f { d with sys := { d.sys with amendQ := d.sys.amendQ ++ [.route (amTarget img) img] } }
        (d.sys.amendQ.length + 1)

def execAmendmentSubmit (s : State) : Host.Outcome State Fault Refusal := s.runBar true fun d => amSubmit s.fuses d

/-! ### Applying a route amendment (R55, R56, R305, R461) -/

/-- Every line of the L1s and L2s of a cluster written back and invalidated. -/
def Dev.flushCluster (d : Dev) (c : Nat) : Dev :=
  let d := d.each ((List.range 8).map (· + 8 * c)) fun d k =>
    let d := (d.drainCombining k).l1Release k
    d.setL1 k {}
  let g := d.agent c
  d.each (g.lines.map (·.1) ++ g.side.map (·.1)) fun d l => d.evictLine c l

/-- The local stores of a cluster's cores and its cluster store zeroed. -/
def Dev.zeroStores (d : Dev) (c : Nat) : Dev :=
  let d := d.each ((List.range 8).map (· + 8 * c)) fun d k => d.setCore k { d.core k with localMem := [] }
  { d with
    stores := d.stores.filter fun x => !(c * 2 ^ 20 ≤ x.1 && x.1 < (c + 1) * 2 ^ 20)
    storeAsid := NMap.erase d.storeAsid c }

/-- The milestones of a cluster zeroed (R365). -/
def Dev.zeroMilestones (d : Dev) (c : Nat) : Dev :=
  let mine (h : Nat) : Bool := handleClass h == 0 && handleCluster h == c
  { d with
    ms := d.ms.filter (fun x => !mine x.1), watch := NMap.erase d.watch c
    signals := d.signals.filter fun s => !mine s.handle.toNat }

/-- What power-gating a cluster loses (R511): its cores, L2, stores, and its TLB and mover's. -/
def Dev.gateCluster (d : Dev) (c : Nat) : Dev :=
  let d := d.zeroStores c
  { d with
    cores := d.cores.filter (fun x => x.1 / 8 != c), agents := NMap.erase d.agents c,
    clusterTlb := NMap.erase d.clusterTlb c, moverTlb := NMap.erase d.moverTlb c }

/-- R55: a released cluster scrubbed into the free pool: its vault zeroed with every cached copy of it, its milestones zero, the
cluster in C3 and the vault in deep power-down (R45). -/
def Dev.scrubCluster (d : Dev) (c : Nat) : Dev :=
  let ofVault (l : Nat) : Bool := isStacked l && lineVault l == c
  let d := (d.gateCluster c).zeroMilestones c
  let d : Dev := { d with
    mem := d.mem.filter (fun x => !ofVault (x.1 / 128)), poison := d.poison.filter (fun l => !ofVault l),
    upsets := d.upsets.filter (fun x => !ofVault x.1), homes := NMap.erase d.homes c,
    agents := d.agents.map (fun a => (a.1, { a.2 with
      lines := a.2.lines.filter (fun x => !ofVault x.1), side := a.2.side.filter (fun x => !ofVault x.1),
      victim := a.2.victim.filter (fun x => !ofVault x.1) })),
    pwr := { d.pwr with entry := NMap.erase d.pwr.entry c, leaving := NMap.erase d.pwr.leaving c } }
  (d.setReg .PWR_CLUSTER_STATUS c (setBits (d.reg .PWR_CLUSTER_STATUS c) 31 28 6)).setFld F.VLT_STATUS_state c 5

/-- R461: launches with saved workgroups aborted, with status ABORTED. -/
def Dev.abortSaved (d : Dev) (p : Nat) : Dev :=
  d.each (d.pstate p).saved fun d x => d.stopCmd x.asid x.queue x.seq 7 0

/-- R52, R55, R391: what follows from the partition's new entry. -/
def Dev.repartition (d : Dev) (p : Nat) (new : NMap (List Byte)) : Dev :=
  let old := d.part p
  let now := partCfg new p
  let oldQ := if old.enabled then old.quads else 0
  let newQ := if now.enabled then now.quads else 0
  let quads := oldQ != newQ
  let splits := old.localCode != now.localCode || old.clusterCode != now.clusterCode
  let oldC := clustersOf oldQ
  let newC := clustersOf newQ
  let d := if quads || splits then d.each oldC Dev.flushCluster |>.abortSaved p else d
  let d := if splits then d.each oldC Dev.zeroStores else d
  let oldL := if old.enabled then old.links else 0
  let newL := if now.enabled then now.links else 0
  let d := d.each ((List.range 32).filter fun k => bitAt oldL k && !bitAt newL k) fun d k =>
    (if d.linkState k = 0 then d else d.linkLost k 0).setFld F.LNK_CTRL_enable k 0
  let d := d.each (oldC.filter fun c => !newC.contains c) Dev.scrubCluster
  let d : Dev := { d with sys := { d.sys with sections := new }, parts := partTable new }
  let d := d.each (newC.filter fun c => !oldC.contains c) fun d c =>
    ((d.zeroMilestones c).setReg .PWR_CLUSTER_STATUS c (setBits (d.reg .PWR_CLUSTER_STATUS c) 31 28 0)).setFld F.VLT_STATUS_state c 2
  let d := if now.enabled then d.writePart p else d
  let d := d.writeLinks
  if quads then
    let d : Dev := { d with xlt := NMap.insert d.xlt p { (NMap.getD d.xlt p {}) with cache := [] } }
    if now.enabled then d.placeCache p else { d with cachePos := NMap.erase d.cachePos p }
  else d

/-- R56 steps 3 and 4, R59, R60. -/
def Dev.applyRoute (d : Dev) (p : Nat) (img : List Byte) : Dev :=
  let digest := sha384 (d.digestBytes ++ img)
  let crc := crcContinue 2 (d.reg .RLB_CRC 0) img
  let d := (d.amCode 3).repartition p (amSections d.sys.sections img)
  (((d.publish digest crc).tally F.RLB_AMEND_COUNT_value 0).amCode 4).setFld F.RLB_STATUS_state 0 2

/-! ### Repairs in a drain (R291, R536) -/

/-- R291: a vault's lines copied to its backing: a line the code cannot correct is written poisoned. -/
def Dev.copyOut (d : Dev) (v : Nat) : Dev :=
  let ls := (d.upsets.filter fun x => isStacked x.1 && lineVault x.1 == v).map fun x => x.1 % 2 ^ 23
  let d := d.each ls fun d l => d.scrubLine v l
  (d.count F.VLT_READ_LINES_count v (2 ^ 23)).count F.VLT_WRITE_LINES_count v (2 ^ 23)

/-- The approved repairs of a partition carried out, the vaults to be mapped out copied first. -/
def Dev.drainRepairs (d : Dev) (p : Nat) (lanes : List (Nat × List Nat)) : Dev :=
  let maps := (List.range 32).filter fun n => d.propState n == 2 && (d.prop n).part == p && (d.prop n).kind == 4
  (d.each maps fun d n => d.copyOut (d.prop n).unit).repairPart p lanes

/-- R56: the drain is over: the change is applied, with the approved repairs of the partition, and the partition released. -/
def amDone (f : Fuses) (lanes : List (Nat × List Nat)) (d : Dev) : Dev :=
  match d.sys.amend with
  | none => d
  | some (.route p img) =>
    if !d.drained p then d
    else
      let d := (d.applyRoute p img).drainRepairs p lanes
      let d := (({ d with sys := { d.sys with amend := none } } : Dev).endDrain p).freshIdents
      amNext f d (d.sys.amendQ.length + 1)
  | some (.repair p) =>
    if !d.drained p then d
    else
      let d := d.drainRepairs p lanes
      let d := ({ d with sys := { d.sys with amend := none } } : Dev).endDrain p
      amNext f d (d.sys.amendQ.length + 1)

/-- `lanes` are the bad lanes that an approved vault retrain finds. -/
def execAmendmentDrainComplete (lanes : List (Nat × List Nat)) (s : State) : Host.Outcome State Fault Refusal :=
  s.run (laneMapOk lanes) (amDone s.fuses lanes)

/-- R57: amend_drain_limit has passed: nothing changes, and approved repairs stay approved (R536). -/
def amTimeout (f : Fuses) (d : Dev) : Dev :=
  match d.sys.amend with
  | none => d
  | some x =>
    let p := match x with | .route p _ => p | .repair p => p
    let d := match x with
      | .route _ _ => (d.amCode 11).setFld F.RLB_STATUS_state 0 2
      | .repair _ => d
    let d := ({ d with sys := { d.sys with amend := none } } : Dev).endDrain p
    amNext f d (d.sys.amendQ.length + 1)

def execAmendmentDrainTimeout (s : State) : Host.Outcome State Fault Refusal := s.run true (amTimeout s.fuses)

/-! ### Decisions (R535) -/

/-- A proposal whose resource no partition owns now: it is repaired without a drain, a Qorriop core while its hart has not been
started. -/
def Dev.ownerless (d : Dev) (n : Nat) : Bool :=
  let p := d.prop n
  if p.kind = 7 then d.hartIdle p.unit else (d.clusterPart p.unit).isNone

/-- An approval; the entry names the partition that owns the unit now. -/
def Dev.approve (d : Dev) (n : Nat) (lanes : List (Nat × List Nat)) : Dev :=
  if d.propState n != 1 then d
  else
    let x := d.prop n
    let d := if x.kind = 7 then d else d.setFld F.WDN_PROP_partition n ((d.clusterPart x.unit).getD 0xff)
    let d := d.propTo n 2
    if d.ownerless n then (if (d.prop n).kind = 4 then d.copyOut (d.prop n).unit else d).carryOut n lanes else d

def Dev.decideProp (d : Dev) (n v : Nat) : Dev := d.setFld F.WDN_PROP_CTRL_decision n v

def execApproveAtNextDrain (n : Nat) (lanes : List (Nat × List Nat)) (s : State) : Host.Outcome State Fault Refusal :=
  s.runBar (n < 32 && laneMapOk lanes) fun d => (d.decideProp n 0).approve n lanes

/-- R58, R535: approve now: a repair amendment of the owning partition joins the queue. -/
def approveNow (f : Fuses) (n : Nat) (lanes : List (Nat × List Nat)) (d : Dev) : Dev :=
  let was := d.propState n
  let d := (d.decideProp n 1).approve n lanes
  if was = 1 && d.propState n = 2 && (d.prop n).kind != 7 then
    let d : Dev := { d with sys := { d.sys with amendQ := d.sys.amendQ ++ [.repair (d.prop n).part] } }
    amNext f d (d.sys.amendQ.length + 1)
  else d

def execApproveNow (n : Nat) (lanes : List (Nat × List Nat)) (s : State) : Host.Outcome State Fault Refusal :=
  s.runBar (n < 32 && laneMapOk lanes) (approveNow s.fuses n lanes)

/-- The entry ends. -/
def Dev.rejectProp (d : Dev) (n : Nat) : Dev :=
  let d := d.decideProp n 2
  if d.propState n != 1 then d else (d.propTo n 5).propNext

def execReject (n : Nat) (s : State) : Host.Outcome State Fault Refusal := s.runBar (n < 32) (·.rejectProp n)

end Sys2Proof.Machine
end

