-- ==== Sys2Proof/Machine/IntAlu.lean ====
section
/-! DEFINITION. The integer and logical instructions (R115). -/

namespace Sys2Proof.Machine

def tInt : List Nat := [0, 1, 2, 3]
def tI32 : List Nat := [0, 1]
def tU : List Nat := [1, 3]
/-- The 32-bit and 64-bit types of SEL, MOV and MOVI: every type but the 8-bit and 16-bit ones (log entry 21). -/
def tAny : List Nat := [0, 1, 2, 3, 4, 5, 6, 7, 8]

/-! ### The operations, on values of the type's width -/

def wrap (ty x : Nat) : Nat := x % 2 ^ typeWidth ty
def intAdd (ty a b : Nat) : Nat := wrap ty (a + b)
def intSub (ty a b : Nat) : Nat := wrap ty (a + 2 ^ typeWidth ty - b)
def intMul (ty a b : Nat) : Nat := wrap ty (a * b)
/-- The high half of the double-width product. -/
def intMulHi (ty a b : Nat) : Nat :=
  if typeSigned ty then ofInt 32 (toSigned 32 a * toSigned 32 b / 2 ^ 32) else a * b / 2 ^ 32
/-- Is a below b, signed or unsigned by type. -/
def intLt (ty a b : Nat) : Bool :=
  if typeSigned ty then toSigned (typeWidth ty) a < toSigned (typeWidth ty) b else a < b
def intMin (ty a b : Nat) : Nat := if intLt ty b a then b else a
def intMax (ty a b : Nat) : Nat := if intLt ty a b then b else a
def intAbs (a : Nat) : Nat := if a < 2 ^ 31 then a else (2 ^ 32 - a) % 2 ^ 32
def intNot (ty a : Nat) : Nat := 2 ^ typeWidth ty - 1 - a
/-- R115: a count of the width or more gives 0, or copies of the sign bit. -/
def shiftL (width a c : Nat) : Nat := if c ≥ width then 0 else (a * 2 ^ c) % 2 ^ width
def shiftR (width a c : Nat) : Nat := if c ≥ width then 0 else a / 2 ^ c
def shiftSar (width a c : Nat) : Nat := ofInt width (toSigned width a / 2 ^ (min c width))
def bitRev32 (a : Nat) : Nat := listMask ((List.range 32).filter fun i => bitAt a (31 - i))
def clz32 (a : Nat) : Nat := if a = 0 then 32 else 31 - Nat.log2 a
/-- R115: BFE. -/
def bitExtract (ty a b : Nat) : Nat :=
  let p := b % 256
  let n := min (b / 256 % 256) (32 - p)
  if p ≥ 32 || n = 0 then 0
  else
    let x := a / 2 ^ p % 2 ^ n
    if typeSigned ty then ofInt 32 (toSigned n x) else x
/-- R115: BFI. -/
def bitInsert (a b c : Nat) : Nat :=
  let p := b % 256
  let n := min (b / 256 % 256) (32 - p)
  if p ≥ 32 || n = 0 then c else setBits c (p + n - 1) p a % 2 ^ 32
/-- R114: an integer compare of cond 0 to 5. -/
def intCmp (cond ty a b : Nat) : Bool :=
  match cond with
  | 0 => a == b
  | 1 => a != b
  | 2 => intLt ty a b
  | 3 => !intLt ty b a
  | 4 => intLt ty b a
  | _ => !intLt ty a b

/-! ### The instructions -/

/-- Two operands of the type's width to one. -/
def runInt2 (op : Nat) (types : List Nat) (f : Nat → Nat → Nat → Nat) (k n : Nat) (w : BitVec 56) (s : State) :
    Host.Outcome State Fault Refusal :=
  s.runPure k n .valu fun v => v.vecOp (iword op w) types 0 true true false true typeRegs fun ty _ a b _ => f ty a b
/-- One operand to one. -/
def runInt1 (op : Nat) (types : List Nat) (f : Nat → Nat → Nat) (k n : Nat) (w : BitVec 56) (s : State) :
    Host.Outcome State Fault Refusal :=
  s.runPure k n .valu fun v => v.vecOp (iword op w) types 0 true false false true typeRegs fun ty _ a _ _ => f ty a
/-- An operand and an immediate to one. -/
def runIntI (op : Nat) (types : List Nat) (useA : Bool) (f : Nat → Nat → Nat → Nat) (k n : Nat) (w : BitVec 56)
    (s : State) : Host.Outcome State Fault Refusal :=
  s.runPure k n .valu fun v => v.vecImm (iword op w) types useA f

def execIadd (k n : Nat) (w : BitVec 56) (s : State) := runInt2 0x10 tInt intAdd k n w s
def execIsub (k n : Nat) (w : BitVec 56) (s : State) := runInt2 0x11 tInt intSub k n w s
def execImul (k n : Nat) (w : BitVec 56) (s : State) := runInt2 0x12 tI32 intMul k n w s
def execImulhi (k n : Nat) (w : BitVec 56) (s : State) := runInt2 0x13 tI32 intMulHi k n w s
def execImad (k n : Nat) (w : BitVec 56) (s : State) : Host.Outcome State Fault Refusal :=
  s.runPure k n .valu fun v =>
    v.vecOp (iword 0x14 w) tI32 0 true true true true typeRegs fun ty _ a b c => wrap ty (a * b + c)
def execImin (k n : Nat) (w : BitVec 56) (s : State) := runInt2 0x15 tInt intMin k n w s
def execImax (k n : Nat) (w : BitVec 56) (s : State) := runInt2 0x16 tInt intMax k n w s
def execIabs (k n : Nat) (w : BitVec 56) (s : State) := runInt1 0x17 [0] (fun _ a => intAbs a) k n w s
def execAnd (k n : Nat) (w : BitVec 56) (s : State) := runInt2 0x18 tU (fun _ a b => a &&& b) k n w s
def execOr (k n : Nat) (w : BitVec 56) (s : State) := runInt2 0x19 tU (fun _ a b => a ||| b) k n w s
def execXor (k n : Nat) (w : BitVec 56) (s : State) := runInt2 0x1a tU (fun _ a b => a ^^^ b) k n w s
def execNot (k n : Nat) (w : BitVec 56) (s : State) := runInt1 0x1b tU intNot k n w s
def execShl (k n : Nat) (w : BitVec 56) (s : State) :=
  runInt2 0x1c tInt (fun ty a b => shiftL (typeWidth ty) a b) k n w s
def execShr (k n : Nat) (w : BitVec 56) (s : State) :=
  runInt2 0x1d tInt (fun ty a b => shiftR (typeWidth ty) a b) k n w s
def execSar (k n : Nat) (w : BitVec 56) (s : State) :=
  runInt2 0x1e tInt (fun ty a b => shiftSar (typeWidth ty) a b) k n w s
def execPopc (k n : Nat) (w : BitVec 56) (s : State) := runInt1 0x1f [1] (fun _ a => popCount a 32) k n w s
def execClz (k n : Nat) (w : BitVec 56) (s : State) := runInt1 0x20 [1] (fun _ a => clz32 a) k n w s
def execBrev (k n : Nat) (w : BitVec 56) (s : State) := runInt1 0x21 [1] (fun _ a => bitRev32 a) k n w s
def execBfe (k n : Nat) (w : BitVec 56) (s : State) := runInt2 0x22 tI32 bitExtract k n w s
def execBfi (k n : Nat) (w : BitVec 56) (s : State) : Host.Outcome State Fault Refusal :=
  s.runPure k n .valu fun v =>
    v.vecOp (iword 0x23 w) [1] 0 true true true true typeRegs fun _ _ a b c => bitInsert a b c
def execIsetp (k n : Nat) (w : BitVec 56) (s : State) : Host.Outcome State Fault Refusal :=
  s.runPure k n .valu fun v =>
    v.vecCmp (iword 0x24 w) tInt 0 (fCond w.toNat ≤ 5) fun ty a b => intCmp (fCond w.toNat) ty a b
/-- R115: SEL reads the predicate named by vc[2:0] in each lane. -/
def execSel (k n : Nat) (w : BitVec 56) (s : State) : Host.Outcome State Fault Refusal :=
  s.runPure k n .valu fun v =>
    v.vecOp (iword 0x25 w) tAny (fbits 25 23) true true false true typeRegs fun _ t a b _ =>
      if (v.pr (fVc w.toNat % 8)).getLsbD t then a else b
def execMov (k n : Nat) (w : BitVec 56) (s : State) : Host.Outcome State Fault Refusal :=
  s.runPure k n .valu fun v => v.vecOp (iword 0x26 w) tAny 0 false true false true typeRegs fun _ _ _ b _ => b
def execMovi (k n : Nat) (w : BitVec 56) (s : State) := runIntI 0x28 tAny false (fun _ _ b => b) k n w s
def execIaddi (k n : Nat) (w : BitVec 56) (s : State) := runIntI 0x29 tInt true intAdd k n w s
def execImuli (k n : Nat) (w : BitVec 56) (s : State) := runIntI 0x2a tI32 true intMul k n w s
def execAndi (k n : Nat) (w : BitVec 56) (s : State) := runIntI 0x2b tU true (fun _ a b => a &&& b) k n w s
def execOri (k n : Nat) (w : BitVec 56) (s : State) := runIntI 0x2c tU true (fun _ a b => a ||| b) k n w s
def execXori (k n : Nat) (w : BitVec 56) (s : State) := runIntI 0x2d tU true (fun _ a b => a ^^^ b) k n w s
def execShli (k n : Nat) (w : BitVec 56) (s : State) :=
  runIntI 0x2e tInt true (fun ty a b => shiftL (typeWidth ty) a b) k n w s
/-- R115: SHRI of a signed type is arithmetic. -/
def execShri (k n : Nat) (w : BitVec 56) (s : State) :=
  runIntI 0x2f tInt true (fun ty a b => if typeSigned ty then shiftSar (typeWidth ty) a b else shiftR (typeWidth ty) a b)
    k n w s

end Sys2Proof.Machine
end

