-- ==== Sys2Proof/Machine/Power.lean ====
section
/-! DEFINITION. The power manager: the root (R500), voltages (R503 to R506), credits and allowances (R507 to R510), heat (R522 to
R525, R295), guard bands (R531), and the states of clusters, vaults and the package (R511 to R521). -/

namespace Sys2Proof.Machine

/-! ### Curves and dividers (R501, R504) -/

/-- The curves of R504 when the section is missing: root, divider, mV. -/
def defaultCurves : List (Nat × Nat × Nat) :=
  [(5600, 4, 690), (5600, 5, 650), (5600, 6, 620), (5600, 8, 600), (5600, 16, 600),
   (6400, 4, 750), (6400, 5, 700), (6400, 6, 670), (6400, 8, 630), (6400, 12, 600), (6400, 16, 600)] ++
  [(7200, 4, 860), (7200, 5, 790), (7200, 6, 740), (7200, 8, 680), (7200, 16, 620)]

def Dev.curves (d : Dev) : List (Nat × Nat × Nat) :=
  match NMap.find? d.sys.sections 9 with
  | some b => (secRows 8 (b.length / 8) b).map fun e => (fieldAt e 0 2, fieldAt e 2 1, fieldAt e 4 2)
  | none => defaultCurves

def Dev.root (d : Dev) : Nat := d.fld F.PWR_STATUS_root_mhz 0

/-- The curve voltage at a root and divider: its own point, or that of the next faster divider present. -/
def Dev.curveMv (d : Dev) (root div : Nat) : Nat :=
  let ps := d.curves.filter fun p => p.1 == root && p.2.1 ≤ div
  match minBy (fun p => 16 - p.2.1) ps with
  | some p => p.2.2
  | none => 0

/-- One step slower and faster along ÷4, ÷5, ÷6, ÷8, ÷12, ÷16. -/
def slower (v : Nat) : Nat := (dividers.find? (· > v)).getD 16
def faster (v : Nat) : Nat := (dividers.reverse.find? (· < v)).getD 4

/-- A thermal point: source, dies, the temperature at and above which it acts, that at and below which it is released, action
(1 cap, 2 hold, 3 admission, 4 doubled refresh) and argument. -/
structure ThermPoint where
  source : Nat
  dies : Nat
  on : Nat
  off : Nat
  action : Nat
  arg : Nat
deriving DecidableEq, Repr

/-- R523: the curves when the section is missing. -/
def defaultThermal : List ThermPoint :=
  [⟨0, 3, 95, 92, 1, 5⟩, ⟨0, 3, 99, 96, 1, 8⟩, ⟨0, 3, 102, 99, 2, 0⟩, ⟨5, 3, 90, 87, 1, 5⟩, ⟨5, 3, 93, 90, 1, 6⟩]

/-- R295, R524: the actions built into the silicon, numbered from 16. -/
def siliconThermal : List ThermPoint :=
  [⟨0, 3, 103, 100, 2, 0⟩, ⟨5, 3, 85, 82, 4, 0⟩, ⟨5, 3, 96, 92, 3, 2⟩, ⟨5, 3, 96, 92, 1, 8⟩, ⟨5, 3, 101, 97, 3, 4⟩,
   ⟨5, 3, 101, 97, 2, 0⟩]

/-- Every thermal point with its number. -/
def Dev.thermal (d : Dev) : List (Nat × ThermPoint) :=
  let book := match NMap.find? d.sys.sections 10 with
    | some b => (secRows 8 (b.length / 8) b).map fun e =>
        (⟨fieldAt e 0 1, fieldAt e 1 1, fieldAt e 2 1, fieldAt e 2 1 - fieldAt e 3 1, fieldAt e 4 1, fieldAt e 5 1⟩ : ThermPoint)
    | none => defaultThermal
  (book.zipIdx.map fun x => (x.2, x.1)) ++ siliconThermal.zipIdx.map fun x => (16 + x.2, x.1)

/-- The thermal points in force at a cluster. -/
def Dev.thermalAt (d : Dev) (c : Nat) : List ThermPoint :=
  (d.thermal.filter fun x => d.pwr.acts.any fun a => a % 2 ^ 16 == c * 32 + x.1).map (·.2)

def listMax (l : List Nat) : Nat := l.foldl max 0

/-- R525: the slowest divider cap in force from heat, 0 for none. -/
def Dev.thermalCap (d : Dev) (c : Nat) : Nat := listMax (((d.thermalAt c).filter (·.action == 1)).map (·.arg))

/-- The divider of a cluster but for the cap of R531: ÷4, the arbiter's, the thermal cap and that of R506. -/
def Dev.wantedDiv (d : Dev) (c : Nat) : Nat :=
  listMax [4, NMap.getD d.pwr.arb c 4, d.thermalCap c, NMap.getD d.pwr.forceCap (clusterQuad c) 0]

/-- The fastest divider wanted in a quad. -/
def Dev.quadWants (d : Dev) (q : Nat) : Nat :=
  (quadClusters q).foldl (fun m c => min m (d.wantedDiv c)) 16

/-- R531: is a quad's cap for want of room in force: it lifts at a root where the guard band fits. -/
def Dev.guardCapped (d : Dev) (root q : Nat) : Bool :=
  d.sys.guardCap.contains q && d.curveMv root (d.quadWants q) + NMap.getD d.sys.guard q 0 + 10 > 860

/-- R501: the effective divider. -/
def Dev.effDiv (d : Dev) (root c : Nat) : Nat :=
  if d.guardCapped root (clusterQuad c) then slower (d.wantedDiv c) else d.wantedDiv c

/-! ### Voltages (R503 to R505) -/

/-- A quad is powered unless all its clusters are in C3. -/
def Dev.quadPowered (d : Dev) (q : Nat) : Bool :=
  (quadClusters q).any fun c => d.fld F.PWR_CLUSTER_STATUS_state c != 3

/-- R505: quads that share an edge, or face each other across the Causeway. -/
def adjacentQuads (a b : Nat) : Bool :=
  let (ra, ca, rb, cb) := (a % 25 / 5, a % 5, b % 25 / 5, b % 5)
  if a / 25 = b / 25 then natDist ra rb + natDist ca cb = 1
  else ra = rb && (if a < b then ca = 4 && cb = 0 else ca = 0 && cb = 4)

/-- A quad's own need: the curve voltage of its fastest cluster with its guard band. -/
def Dev.quadNeed (d : Dev) (root q : Nat) : Nat :=
  let div := (quadClusters q).foldl (fun m c => min m (d.effDiv root c)) 16
  min 860 (d.curveMv root div + NMap.getD d.sys.guard q 0)

/-- One pass of R505: no powered quad more than 120 mV below a powered neighbour. -/
def Dev.levelQuads (d : Dev) (v : List Nat) : List Nat :=
  (List.range 50).map fun q =>
    if d.quadPowered q then
      (List.range 50).foldl (fun m r => if adjacentQuads q r && d.quadPowered r then max m (v.getD r 0 - 120) else m) (v.getD q 0)
    else v.getD q 0

/-- The voltages of the fifty quads at a root: from 600 to 860 mV, three passes settle them. -/
def Dev.quadVolts (d : Dev) (root : Nat) : List Nat :=
  d.levelQuads (d.levelQuads (d.levelQuads ((List.range 50).map (d.quadNeed root))))

/-- R503, R504: every divider and voltage as the settings now ask; `floor` keeps a domain from falling yet. -/
def Dev.setVolts (d : Dev) (root : Nat) (floor : Bool) : Dev :=
  let at_ (old v : Nat) : Nat := if floor then max old v else v
  let vs := (d.quadVolts root).zipIdx.map fun x => at_ (d.fld F.PWR_QUAD_STATUS_voltage_mv x.2) x.1
  let mesh := at_ (NMap.getD d.pwr.mesh 0 0) (d.curveMv root 5)
  let qor := at_ (NMap.getD d.pwr.qor 0 0) (d.curveMv root 4)
  let both (v : Nat) : NMap Nat := NMap.insert (NMap.insert [] 0 v) 1 v
  let d := d.each vs.zipIdx fun d x => d.setFld F.PWR_QUAD_STATUS_voltage_mv x.2 x.1
  { d with pwr := { d.pwr with mesh := both mesh, qor := both qor, vdd := listMax (mesh :: qor :: vs) + 40 } }

/-- Every register that follows from the dividers and voltages. -/
def Dev.refreshPower (d : Dev) : Dev :=
  let d := d.each (List.range 200) fun d c =>
    (d.setFld F.PWR_CLUSTER_STATUS_divider c (d.effDiv d.root c)).setFld F.PWR_CLUSTER_STATUS_thermal_cap c (d.thermalCap c)
  d.setVolts d.root false

/-! ### The root (R500) -/

def Dev.retune (d : Dev) (mhz : Nat) : Dev :=
  let busy := d.flag F.PWR_ROOT_CTRL_busy 0
  let legal := 5600 ≤ mhz && mhz ≤ 7200 && mhz % 200 == 0 && d.curves.any fun p => p.1 == mhz
  if busy || !legal || d.fld F.PWR_STATUS_pkg_state 0 != 0 || d.flag F.PWR_PKG_STATUS_busy 0 then
    d.setFld F.PWR_ROOT_CTRL_refused 0 1
  else
    let d := ((d.setReg .PWR_ROOT_CTRL 0 (2 ^ 30 + mhz)).setFld F.PWR_STATUS_retuning 0 1).setVolts mhz true
    { d with pwr := { d.pwr with retuneTo := mhz } }

/-- `mhz` is the target written with go. -/
def execRetune (mhz : Nat) (s : State) : Host.Outcome State Fault Refusal := s.runBar (mhz < 2 ^ 13) (·.retune mhz)

def Dev.retuneDone (d : Dev) : Dev :=
  if !d.flag F.PWR_ROOT_CTRL_busy 0 then d
  else
    let d := ((d.setFld F.PWR_STATUS_root_mhz 0 d.pwr.retuneTo).setFld F.PWR_STATUS_retuning 0 0).setFld F.PWR_ROOT_CTRL_busy 0 0
    ({ d with pwr := { d.pwr with retuneTo := 0 } } : Dev).refreshPower

def execRetuneComplete (s : State) : Host.Outcome State Fault Refusal := s.run true Dev.retuneDone

/-! ### Credits (R507 to R510) -/

/-- Credits are held exactly, in units of 1 ÷ `creditUnit` mW, which every divider and voltage divides evenly. -/
def creditUnit : Nat := 240 * 1600 * 562500

/-- R507: what a cluster's cores hold at a quad voltage. -/
def Dev.clusterCredit (d : Dev) (volts : List Nat) (c : Nat) : Nat :=
  if d.fld F.PWR_CLUSTER_STATUS_state c != 0 then 0
  else
    let n := ((List.range 8).filter fun i => !(d.core (c * 8 + i)).gated && !d.sys.coreOut.contains (c * 8 + i)).length
    let v := volts.getD (clusterQuad c) 0
    350 * d.root * v * v * (240 / d.effDiv d.root c) * n

/-- What a partition's cores hold. -/
def Dev.heldCredit (d : Dev) (p : Nat) : Nat :=
  let vs := d.quadVolts d.root
  ((d.partClusters p).map (d.clusterCredit vs)).sum

/-- R509: the pool, which may be negative. -/
def Dev.pool (d : Dev) (p : Nat) : Int :=
  (d.fld F.PWR_PART_CREDIT_allowance_mw p * creditUnit : Nat) - (d.heldCredit p : Int)

/-- The pool in mW as its register shows it. -/
def Dev.poolMw (d : Dev) (p : Nat) : Nat := ofInt 32 (d.pool p / (creditUnit : Int))

def Dev.setArb (d : Dev) (c v : Nat) : Dev := { d with pwr := { d.pwr with arb := NMap.put d.pwr.arb c v 4 } }

/-- R509: while the pool is negative, the cluster that holds the most credit, the highest-numbered of equals, goes one step
slower. -/
def Dev.arbSlow (d : Dev) (p : Nat) : Nat → Dev
  | 0 => d
  | n + 1 =>
    if d.pool p ≥ 0 then d
    else
      let vs := d.quadVolts d.root
      let cs := (d.partClusters p).filter fun c => d.effDiv d.root c < 16 && d.clusterCredit vs c != 0
      let top := cs.foldl (fun (a : Option (Nat × Nat)) c =>
        let x := d.clusterCredit vs c
        match a with
        | some (_, y) => if x ≥ y then some (c, x) else a
        | none => some (c, x)) none
      match top with
      | none => d
      | some (c, _) =>
        let d := d.setArb c (slower (d.effDiv d.root c))
        Dev.arbSlow { d with pwr := { d.pwr with lent := d.pwr.lent.erase c } } p n

/-- R509: the lowest-numbered cluster the arbiter has slowed goes one step faster while the pool covers it; not beyond its
thermal cap. -/
def Dev.arbRaise (d : Dev) (p : Nat) : Nat → Dev
  | 0 => d
  | n + 1 =>
    match (d.partClusters p).find? fun c => NMap.getD d.pwr.arb c 4 > max 4 (d.thermalCap c) with
    | none => d
    | some c =>
      let d' := d.setArb c (max (faster (NMap.getD d.pwr.arb c 4)) (d.thermalCap c))
      if d'.pool p < 0 then d
      else Dev.arbRaise { d' with pwr := { d'.pwr with lent := c :: d'.pwr.lent } } p n

/-- Steps that suffice: six dividers for each cluster. -/
def arbFuel : Nat := 1200

/-- R509: the arbiter of a partition acts. -/
def Dev.arbitrate (d : Dev) (p : Nat) : Dev :=
  if !(d.part p).enabled then d
  else if d.pool p < 0 then (d.arbSlow p arbFuel).refreshPower
  else (d.arbRaise p arbFuel).refreshPower

def execCreditArbiter (p : Nat) (s : State) : Host.Outcome State Fault Refusal := s.run (partOk p) (·.arbitrate p)

/-- R510: lent credit taken back, the cluster raised last first, until the pool covers the reclaim. -/
def Dev.takeLent (d : Dev) (p : Nat) : Nat → Dev
  | 0 => d
  | n + 1 =>
    if d.pool p ≥ 0 then d
    else match d.pwr.lent.find? fun c => d.clusterPart c == some p with
    | none => d
    | some c =>
      let d := d.setArb c (slower (NMap.getD d.pwr.arb c 4))
      Dev.takeLent { d with pwr := { d.pwr with lent := d.pwr.lent.erase c } } p n

/-- R374, R510: the credit of an ungated core is back. -/
def Dev.reclaim (d : Dev) (k : Nat) : Dev :=
  let c := d.core k
  if !c.halfRate then d
  else
    let d := match d.clusterPart (coreCluster k) with
      | some p => (d.takeLent p arbFuel).refreshPower
      | none => d
    d.setCore k { d.core k with halfRate := false }

def execCreditReclaim (k : Nat) (s : State) : Host.Outcome State Fault Refusal := s.run (coreOk k) (·.reclaim k)

/-! ### The envelope (R508) -/

/-- The partitions in service. -/
def Dev.enabledParts (d : Dev) : List Nat := (List.range 16).filter fun p => (d.part p).enabled

/-- R295, R508, R525: the admission limit of every vault, the strictest of heat and envelope. -/
def Dev.setThrottles (d : Dev) : Dev :=
  d.each (List.range 200) fun d v =>
    let heat := listMax (((d.thermalAt v).filter (·.action == 3)).map fun x => x.arg / 2)
    let env := match d.clusterPart v with | some p => NMap.getD d.pwr.intake p 0 | none => 0
    (d.setFld F.VLT_STATUS_throttle v (max heat env)).setFld F.VLT_STATUS_doubled_refresh v
      (b2n ((d.thermalAt v).any (·.action == 4)))

/-- R508: the allowances from a budget in mW: shares by quads, floors made good by those above theirs. -/
def allowances (b : Int) (ps : List (Nat × Nat × Nat)) : List (Nat × Int) :=
  let quads : Int := ((ps.map (·.2.1)).sum : Nat)
  let share (q : Nat) : Int := if quads = 0 then 0 else b * q / quads
  let floor (w : Nat) : Int := (w * 1000 : Nat)
  let deficit := (ps.map fun x => max 0 (floor x.2.2 - share x.2.1)).foldl (· + ·) 0
  let excess := (ps.map fun x => max 0 (share x.2.1 - floor x.2.2)).foldl (· + ·) 0
  ps.map fun x =>
    let s := share x.2.1
    (x.1, if s < floor x.2.2 then floor x.2.2
      else if excess = 0 then s else s - min deficit excess * (s - floor x.2.2) / excess)

/-- R508: one interval's power in mW. -/
def Dev.measure (d : Dev) (mw : Nat) : Dev :=
  let ps := d.enabledParts
  let prev := d.pwr.mw.take 9
  let env : Int := (d.fld F.PWR_STATUS_envelope 0 * 1000 : Nat)
  let held : Int := ((ps.map d.heldCredit).sum / creditUnit : Nat)
  let avg : Int := if prev.isEmpty then 0 else (prev.sum / prev.length : Nat)
  let budget := env - ((mw : Int) - held) - 9 * max 0 (avg - env)
  let shares := (ps.map fun p => (d.part p).power).sum
  let short := budget < ((shares * 1000 : Nat) : Int)
  let free := ps.filter fun p => (d.part p).power = 0
  let level := listMax (free.map fun p => NMap.getD d.pwr.intake p 0)
  let limiting := short && (level = 2 || free.isEmpty)
  let log := (mw :: d.pwr.mw).take 10
  let intake := if short then free.foldl (fun m p => NMap.put m p (min 2 (level + 1)) 0) d.pwr.intake else []
  let al : List (Nat × Int) := if limiting then
      ps.map fun p => (p, if shares = 0 then 0 else budget * ((d.part p).power : Int) / (shares : Int))
    else allowances budget (ps.map fun p => (p, popCount (d.part p).quads 50, (d.part p).power))
  let d : Dev := { d with pwr := { d.pwr with mw := log, intake := intake } }
  let d := d.each al fun d x => d.setFld F.PWR_PART_CREDIT_allowance_mw x.1 x.2.toNat
  let d := (d.setFld F.PWR_MEASURE_last_100us 0 (mw / 1000)).setFld F.PWR_MEASURE_avg_1ms 0 (log.sum / log.length / 1000)
  (d.setFld F.PWR_STATUS_limiting 0 (b2n limiting)).setThrottles

/-- `mw` is the package power of the interval, in mW. -/
def execPowerMeasurement (mw : Nat) (s : State) : Host.Outcome State Fault Refusal := s.run (mw < 65536000) (·.measure mw)

/-! ### Heat (R295, R522 to R525) and forcing (R506) -/

def Dev.junction (d : Dev) (c : Nat) : Nat := d.fld F.PWR_CLUSTER_STATUS_temp c
def Dev.layerTemp (d : Dev) (v i : Nat) : Nat := bits (d.reg .VLT_TEMP v) (8 * i + 7) (8 * i)
def Dev.hottestLayer (d : Dev) (v : Nat) : Nat := listMax ((List.range 4).map (d.layerTemp v))

/-- The temperature a point looks at. -/
def Dev.sourceTemp (d : Dev) (c src : Nat) : Nat :=
  match src with | 0 => d.junction c | 5 => d.hottestLayer c | i => d.layerTemp c (i - 1)

/-- The actions in force after a reading. -/
def Dev.nextActs (d : Dev) : List Nat :=
  (List.range 200).flatMap fun c =>
    d.thermal.filterMap fun x =>
      let t := d.sourceTemp c x.2.source
      let id := c * 32 + x.1
      let was := d.pwr.acts.any fun a => a % 2 ^ 16 == id
      let is := bitAt x.2.dies (clusterDie c) && (t ≥ x.2.on || (was && t > x.2.off))
      if is then some (id + (if x.2.action = 2 then 2 ^ 16 else 0)) else none

/-- Has a cluster anything to run. -/
def Dev.clusterBusy (d : Dev) (c : Nat) : Bool :=
  (List.range 8).any fun i => !(d.core (c * 8 + i)).convoys.isEmpty && !(d.core (c * 8 + i)).gated

/-- R523, R524: clusters that heat now holds go to C1, and those it releases come back if they are wanted. -/
def Dev.applyHolds (d : Dev) (was : List Nat) : Dev :=
  d.each (List.range 200) fun d c =>
    let st := d.fld F.PWR_CLUSTER_STATUS_state c
    if d.heldInC1 c then
      if st = 0 || st = 5 then
        ({ d with pwr := { d.pwr with leaving := NMap.erase d.pwr.leaving c } } : Dev).setFld F.PWR_CLUSTER_STATUS_state c 1
      else d
    else if was.contains c && (d.flag F.PWR_CLUSTER_STATUS_wake_latched c || d.clusterBusy c) then d.beginExit c
    else d

/-- The hottest junction of a quad. -/
def Dev.quadTemp (d : Dev) (q : Nat) : Nat := listMax ((quadClusters q).map d.junction)

/-- R506: adjacent powered quads beyond a limit of R505 begin to be forced together, hotter first. -/
def Dev.findForced (d : Dev) : Dev :=
  let pairs := (List.range 50).flatMap fun a => ((List.range 50).filter fun b => a < b && adjacentQuads a b).map fun b => (a, b)
  d.each pairs fun d ab =>
    let (a, b) := ab
    let apart := natDist (d.quadTemp a) (d.quadTemp b) > 30 ||
      natDist (d.fld F.PWR_QUAD_STATUS_voltage_mv a) (d.fld F.PWR_QUAD_STATUS_voltage_mv b) > 120
    let hc := if d.quadTemp a ≥ d.quadTemp b then (a, b) else (b, a)
    if apart && d.quadPowered a && d.quadPowered b && !d.pwr.forced.contains (a, b) && !d.pwr.forced.contains (b, a) then
      let d : Dev := { d with pwr := { d.pwr with forced := d.pwr.forced ++ [hc] } }
      ((d.count F.PWR_FORCED_COUNT_count 0).setFld F.PWR_QUAD_STATUS_forced a 1).setFld F.PWR_QUAD_STATUS_forced b 1
    else d

/-- R522 to R525: the readings: junctions by cluster, Qorriop cores, and the layer regions of vaults. -/
def Dev.sense (d : Dev) (junctions harts : List (Nat × Nat)) (layers : List (Nat × Nat × Nat)) : Dev :=
  let held := (List.range 200).filter d.heldInC1
  let d := d.each junctions fun d x => d.setFld F.PWR_CLUSTER_STATUS_temp x.1 x.2
  let d := d.each layers fun d x =>
    d.setReg .VLT_TEMP x.1 (setBits (d.reg .VLT_TEMP x.1) (8 * x.2.1 + 7) (8 * x.2.1) x.2.2)
  let d : Dev := { d with pwr := { d.pwr with hartTemp := harts.foldl (fun m x => NMap.insert m x.1 x.2) d.pwr.hartTemp } }
  let trip := (List.range 200).any (fun c => d.junction c ≥ 108 || d.hottestLayer c ≥ 105) ||
    d.pwr.hartTemp.any fun x => x.2 ≥ 108
  if trip then d.thermTrip
  else
    let d := d.each (List.range 50) fun d q => d.setFld F.PWR_QUAD_STATUS_temp q (d.quadTemp q)
    let d : Dev := { d with pwr := { d.pwr with acts := d.nextActs } }
    ((d.applyHolds held).setThrottles.refreshPower).findForced

def sensorsOk (junctions harts : List (Nat × Nat)) (layers : List (Nat × Nat × Nat)) : Bool :=
  junctions.all (fun x => x.1 < 200 && x.2 < 256) && harts.all (fun x => x.1 < 24 && x.2 < 256) &&
    layers.all fun x => x.1 < 200 && x.2.1 < 4 && x.2.2 < 256

def execSensorRead (junctions harts : List (Nat × Nat)) (layers : List (Nat × Nat × Nat)) (s : State) :
    Host.Outcome State Fault Refusal :=
  s.run (sensorsOk junctions harts layers) (·.sense junctions harts layers)

/-- R506: the lower voltage is raised, which the leveling of R505 does, and the hotter quad capped one step further, until the
difference is 27 °C or less. -/
def Dev.forceStep (d : Dev) : Dev :=
  let d := d.each d.pwr.forced fun d hc =>
    let (h, c) := hc
    let near := natDist (d.quadTemp h) (d.quadTemp c) ≤ 27
    if near then { d with pwr := { d.pwr with forced := d.pwr.forced.erase hc, forceCap := NMap.erase d.pwr.forceCap h } }
    else { d with pwr := { d.pwr with forceCap := NMap.insert d.pwr.forceCap h (slower (d.quadWants h)) } }
  d.refreshPower

def execForcingStep (s : State) : Host.Outcome State Fault Refusal := s.run true Dev.forceStep

/-! ### Guard bands (R531) -/

/-- The guard band of a quad written to the repair record: the millivolts, and bit 8 for a cap. -/
def Dev.noteGuard (d : Dev) (q : Nat) : Dev :=
  d.repairAppend 8 (q / 25) false q (NMap.getD d.sys.guard q 0 + 256 * b2n (d.sys.guardCap.contains q))

/-- A quad whose worst margin is below 3 %: `low` are its cores below it. -/
def Dev.shoreUp (d : Dev) (q : Nat) (low : List Nat) : Dev :=
  let g := NMap.getD d.sys.guard q 0
  let v := d.fld F.PWR_QUAD_STATUS_voltage_mv q
  let room := (List.range 50).all fun r =>
    !(adjacentQuads q r && d.quadPowered r) || v + 10 ≤ d.fld F.PWR_QUAD_STATUS_voltage_mv r + 120
  if g ≥ 40 || d.guardCapped d.root q then
    d.each low fun d k => d.trigger { kind := 1, part := (d.clusterPart (k / 8)).getD 0xff, reason := 5, unit := k / 8, slot := k % 8 }
  else if v + 10 > 860 then ({ d with sys := { d.sys with guardCap := insSorted q d.sys.guardCap } } : Dev).noteGuard q
  else if room then ({ d with sys := { d.sys with guard := NMap.insert d.sys.guard q (g + 10) } } : Dev).noteGuard q
  else d

/-- `low` are the cores whose margin is below 3 %. -/
def Dev.marginCheck (d : Dev) (low : List Nat) : Dev :=
  let d := d.each (List.range 50) fun d q =>
    let mine := low.filter fun k => clusterQuad (k / 8) == q
    if mine.isEmpty then d else d.shoreUp q mine
  d.refreshPower

def execMarginCheck (low : List Nat) (s : State) : Host.Outcome State Fault Refusal := s.run (low.all coreOk) (·.marginCheck low)

/-! ### Entering and leaving cluster states (R511 to R513, R517 to R519) -/

/-- A field of the power-state table (R520): entry, offset, length. -/
def Dev.psField (d : Dev) (i o n : Nat) : Nat := d.secField 7 (16 * i + o) n
/-- Exit latency of an entry of the table in ns, and its abort phase. -/
def Dev.psExit (d : Dev) (i : Nat) : Nat := d.psField i 8 4
def Dev.psAbort (d : Dev) (i : Nat) : Nat := d.psField i 1 1

/-- R512: is cluster state `st` (1 to 3) within its partition's tolerance. -/
def Dev.tolerates (d : Dev) (p st : Nat) : Bool := d.psExit (st - 1) ≤ d.fld F.PWR_WAKE_TOL_us p * 1000

/-- The state a cluster must be in to enter `st`: the deepest permitted one above it. -/
def Dev.stateBefore (d : Dev) (p st : Nat) : Nat :=
  if st = 3 && d.tolerates p 2 then 2 else if st ≥ 2 && d.tolerates p 1 then 1 else 0

/-- A cluster with nothing to run for C1, or nothing resident and no chunk for the deeper states. -/
def Dev.clusterIdle (d : Dev) (p c st : Nat) : Bool :=
  if st = 1 then
    !d.clusterBusy c && (NMap.getD d.movers c {}).descs.isEmpty && (NMap.getD d.movers c {}).offers.isEmpty
  else
    ((List.range 8).all fun i => (d.core (c * 8 + i)).convoys.isEmpty) &&
      (d.pstate p).launches.all fun y => (y.queueOf c).isEmpty

/-- An automatic entry begins; that the entry delay has passed is what the command says. -/
def Dev.enterState (d : Dev) (c st : Nat) : Dev :=
  match d.clusterPart c with
  | none => d
  | some p =>
    let now := d.fld F.PWR_CLUSTER_STATUS_state c
    if d.tolerates p st && now == d.stateBefore p st && d.clusterIdle p c st && (NMap.find? d.pwr.entry c).isNone &&
        !d.flag F.PWR_CLUSTER_STATUS_wake_latched c then
      { d with pwr := { d.pwr with entry := NMap.insert d.pwr.entry c { target := st, source := now } } }.setFld
        F.PWR_CLUSTER_STATUS_state c 4
    else d

def clusterOk (c : Nat) : Bool := c < 200 && !heldCluster c

def execC1Entry (c : Nat) (s : State) : Host.Outcome State Fault Refusal := s.run (clusterOk c) (·.enterState c 1)
def execC2Entry (c : Nat) (s : State) : Host.Outcome State Fault Refusal := s.run (clusterOk c) (·.enterState c 2)
def execC3Entry (c : Nat) (s : State) : Host.Outcome State Fault Refusal := s.run (clusterOk c) (·.enterState c 3)

def Dev.dropEntry0 (d : Dev) (dom : Nat) : Dev := { d with pwr := { d.pwr with entry := NMap.erase d.pwr.entry dom } }

/-- A cluster comes back to a state; a wake latched meanwhile is replayed. -/
def Dev.backTo (d : Dev) (c st : Nat) (wake : Bool) : Dev :=
  let d := ((d.dropEntry0 c).setFld F.PWR_CLUSTER_STATUS_state c st).setFld F.PWR_CLUSTER_STATUS_wake_latched c 0
  if wake && st != 0 then d.beginExit c else d

/-- R518: may phase 0 of a cluster end: its mover stands at a descriptor boundary. -/
def Dev.moverStill (d : Dev) (m : Nat) : Bool := (NMap.getD d.movers m {}).descs.all fun x => !x.started

/-- R517, R519: the phase a cluster's entry is in ends. -/
def Dev.clusterPhaseEnd (d : Dev) (c : Nat) (e : PowerEntry) : Dev :=
  let last := psLast.getD (e.target - 1) 0
  if e.phase = 0 && !d.moverStill c then d
  else if e.phase = 1 && !(d.agent c).victim.isEmpty then d
  else if e.wake && e.phase < d.psAbort (e.target - 1) then
    (d.count F.PWR_ABORT_COUNT_count 0).backTo c e.source true
  else if e.phase < last then
    let d := if e.phase = 0 then d.l2Flush c else d
    { d with pwr := { d.pwr with entry := NMap.insert d.pwr.entry c { e with phase := e.phase + 1 } } }
  else
    let d := if e.target = 3 then d.gateCluster c else d
    d.backTo c e.target e.wake

/-! ### The package (R515 to R517, R521) -/

/-- The restore classes a package state lowers (R515), in the order of R521's table. -/
def Dev.loweredBy (d : Dev) (st : Nat) : List Nat :=
  let b := NMap.getD d.sys.sections 8 []
  let all := (secRows 8 (b.length / 8) b).map fun e => fieldAt e 0 1
  let these := if st = 1 then [8, 11] else [1, 2, 4, 7, 8, 9, 10, 11]
  all.filter these.contains

/-- A package state is reached. -/
def Dev.pkgEntered (d : Dev) (st : Nat) (wake : Bool) : Dev :=
  let d := d.dropEntry0 pkgDomain
  let d : Dev := { d with pwr := { d.pwr with lowered := d.loweredBy st } }
  let d := ((d.setFld F.PWR_STATUS_pkg_state 0 st).setFld F.PWR_PKG_STATUS_result 0 1).setFld F.PWR_PKG_STATUS_busy 0 0
  if wake then d.wakePkg else d

/-- R515: the silicon as P4 leaves it: vaults and capacity tier in self-refresh, links down. -/
def Dev.enterP4 (d : Dev) : Dev :=
  let d := d.each (List.range 200) fun d v =>
    let st := d.fld F.VLT_STATUS_state v
    if st = 2 || st = 3 then d.setFld F.VLT_STATUS_state v 4 else d
  let d := d.each (List.range 8) fun d m => d.setFld F.LPD_STATUS_state m 3
  let d := d.each ((List.range 32).filter fun k => d.linkState k != 0) fun d k => d.linkLost k 1
  { d with sys := { d.sys with lpdRefresh := d.sys.lpdTrained } }

/-- R515: only the always-on domain runs; stacked memory is lost, the capacity tier and the sealed book are kept. -/
def Dev.enterP6 (d : Dev) : Dev :=
  let e := (d.darken d.sys.lpdTrained).lpdSleep
  { e with pwr := {}, sys := { e.sys with amend := none, amendQ := [], harts := 0, coreOut := [], sramUsed := [], laneBad := [] } }

/-- Every cluster of the partitions to C3 (P4, phase 1). -/
def Dev.allToC3 (d : Dev) : Dev :=
  d.each ((List.range 200).filter fun c => (d.clusterPart c).isSome) fun d c =>
    let d := if d.fld F.PWR_CLUSTER_STATUS_state c = 3 then d else (d.flushCluster c).gateCluster c
    let d : Dev := { d with pwr := { d.pwr with entry := NMap.erase d.pwr.entry c, leaving := NMap.erase d.pwr.leaving c } }
    (d.setFld F.PWR_CLUSTER_STATUS_state c 3).setFld F.PWR_CLUSTER_STATUS_wake_latched c 0

/-- Nothing moves into, out of or within the package. -/
def Dev.pkgStill (d : Dev) : Bool := d.movers.all fun x => x.2.descs.all fun y => !y.started

/-- R517, R519: the phase the package's entry is in ends. Targets 1 to 3 are P2, P4 and P6. -/
def Dev.pkgPhaseEnd (d : Dev) (e : PowerEntry) : Dev :=
  let i := 5 + e.target
  let last := psLast.getD i 0
  if e.phase = 0 && !d.pkgStill then d
  else if e.wake && e.phase < d.psAbort i then
    let d := (d.count F.PWR_ABORT_COUNT_count 0).dropEntry0 pkgDomain
    let d := d.setFld F.PWR_PKG_STATUS_busy 0 0
    if e.source != 0 then d.wakePkg else d
  else if e.phase < last then
    let d := if e.target = 2 && e.phase = 0 then d.allToC3 else d
    { d with pwr := { d.pwr with entry := NMap.insert d.pwr.entry pkgDomain { e with phase := e.phase + 1 } } }
  else match e.target with
    | 1 => d.pkgEntered 1 e.wake
    | 2 => d.enterP4.pkgEntered 2 e.wake
    | _ => d.enterP6.pkgEntered 3 false

/-- A cluster, or 200 for the package. -/
def domainOk (dom : Nat) : Bool := clusterOk dom || dom == pkgDomain

def Dev.phaseEnd (d : Dev) (dom : Nat) : Dev :=
  match NMap.find? d.pwr.entry dom with
  | none => d
  | some e => if dom = pkgDomain then d.pkgPhaseEnd e else d.clusterPhaseEnd dom e

def execEntryPhaseEnd (dom : Nat) (s : State) : Host.Outcome State Fault Refusal := s.run (domainOk dom) (·.phaseEnd dom)

/-- R518: phase 0 has missed its boundary. A host's request for P4 or P6 ends "refused: busy". -/
def Dev.refuseEntry (d : Dev) (dom : Nat) : Dev :=
  match NMap.find? d.pwr.entry dom with
  | none => d
  | some e =>
    if e.phase != 0 then d
    else
      let d := d.count F.PWR_REFUSED_COUNT_count 0
      if dom = pkgDomain then
        let d := (d.dropEntry0 pkgDomain).setFld F.PWR_PKG_STATUS_busy 0 0
        let d := if e.target ≥ 2 then d.setFld F.PWR_PKG_STATUS_result 0 3 else d
        if e.wake && e.source != 0 then d.wakePkg else d
      else d.backTo dom e.source e.wake

def execEntryRefused (dom : Nat) (s : State) : Host.Outcome State Fault Refusal := s.run (domainOk dom) (·.refuseEntry dom)

def execClusterWake (c : Nat) (s : State) : Host.Outcome State Fault Refusal := s.run (clusterOk c) (·.wakeCluster c)

/-- The effect of a restore step of a class (R521). -/
def Dev.restoreClass (d : Dev) (cls : Nat) : Dev :=
  match cls with
  | 7 => d.each (List.range 200) fun d v => if d.fld F.VLT_STATUS_state v = 4 then d.setFld F.VLT_STATUS_state v 2 else d
  | 8 =>
    let d := d.each (List.range 8) fun d m => if d.fld F.LPD_STATUS_state m = 3 then d.setFld F.LPD_STATUS_state m 2 else d
    { d with sys := { d.sys with lpdRefresh := false } }
  | 10 => d.each ((List.range 32).filter fun k => d.flag F.LNK_CTRL_enable k) fun d k => d.linkEnable k true
  | _ => d

/-- R521: the next step of the table begins. -/
def Dev.restoreStep (d : Dev) : Dev :=
  if !d.pwr.restoring then d
  else match d.pwr.lowered with
  | [] => d
  | c :: rest => ({ d with pwr := { d.pwr with lowered := rest } } : Dev).restoreClass c

def execRestoreStep (s : State) : Host.Outcome State Fault Refusal := s.run true Dev.restoreStep

/-- Every class that a table without a step for it left lowered. -/
def Dev.restoreRest (d : Dev) : Dev := d.each [7, 8, 10] fun d c =>
  if d.loweredBy (d.fld F.PWR_STATUS_pkg_state 0) |>.contains c then d else
    if d.fld F.PWR_STATUS_pkg_state 0 = 2 || c = 8 then d.restoreClass c else d

/-- R511, R516, R519: a cluster is in C0, or the package in P0 once every step of its restore order has run. -/
def Dev.exitDone (d : Dev) (dom : Nat) : Dev :=
  if dom = pkgDomain then
    if d.pwr.restoring && d.pwr.lowered.isEmpty then
      let d := d.restoreRest
      let d : Dev := { d with pwr := { d.pwr with restoring := false } }
      ((d.setFld F.PWR_STATUS_pkg_state 0 0).setFld F.PWR_PKG_STATUS_result 0 2).setFld F.PWR_PKG_STATUS_busy 0 0
    else d
  else if d.fld F.PWR_CLUSTER_STATUS_state dom != 5 then d
  else
    let d := if NMap.getD d.pwr.leaving dom 0 = 3 then d.zeroStores dom else d
    let d : Dev := { d with pwr := { d.pwr with leaving := NMap.erase d.pwr.leaving dom } }
    (d.setFld F.PWR_CLUSTER_STATUS_state dom 0).setFld F.PWR_CLUSTER_STATUS_wake_latched dom 0

def execExitComplete (dom : Nat) (s : State) : Host.Outcome State Fault Refusal := s.run (domainOk dom) (·.exitDone dom)

/-- R512: a new tolerance wakes the clusters whose state it forbids. -/
def Dev.writeWakeTol (d : Dev) (p us : Nat) : Dev :=
  if !(d.part p).enabled then d
  else
    let d := d.setFld F.PWR_WAKE_TOL_us p us
    d.each (d.partClusters p) fun d c =>
      let st := match NMap.find? d.pwr.entry c with
        | some e => e.target
        | none => d.fld F.PWR_CLUSTER_STATUS_state c
      if 1 ≤ st && st ≤ 3 && !d.tolerates p st then d.wakeCluster c else d

def execWakeTolWrite (p us : Nat) (s : State) : Host.Outcome State Fault Refusal :=
  s.runBar (partOk p && us < 2 ^ 20) (·.writeWakeTol p us)

/-! ### Vault states (R514) -/

/-- A vault's rows closed as it leaves the active state. -/
def Dev.vaultTo (d : Dev) (v st : Nat) : Dev :=
  let s := NMap.getD d.vaults v {}
  { d with vaults := NMap.put d.vaults v { s with open_ := [] } {} }.setFld F.VLT_STATUS_state v st

def Dev.vaultPowerDown (d : Dev) (v : Nat) : Dev := if d.fld F.VLT_STATUS_state v = 2 then d.vaultTo v 3 else d

def execVaultPowerDown (v : Nat) (s : State) : Host.Outcome State Fault Refusal := s.run (v < 200) (·.vaultPowerDown v)

/-- Self-refresh: the cluster beneath sleeps, and its partition tolerates the exit. -/
def Dev.vaultSelfRefresh (d : Dev) (v : Nat) : Dev :=
  let st := d.fld F.VLT_STATUS_state v
  let c := d.fld F.PWR_CLUSTER_STATUS_state v
  match d.clusterPart v with
  | some p =>
    if (st = 2 || st = 3) && (c = 2 || c = 3) && d.psExit 4 ≤ d.fld F.PWR_WAKE_TOL_us p * 1000 then d.vaultTo v 4 else d
  | none => d

def execVaultSelfRefresh (v : Nat) (s : State) : Host.Outcome State Fault Refusal := s.run (v < 200) (·.vaultSelfRefresh v)

/-- Does a held vault back one. -/
def Dev.heldInUse (d : Dev) (v : Nat) : Bool := (List.range 8).any fun j => heldVaultOf j == v && bitAt (d.reg .WDN_VAULT_BACK j) 31

/-- Deep power-down keeps nothing. -/
def Dev.vaultDeepPowerDown (d : Dev) (v : Nat) : Dev :=
  if (d.clusterPart v).isSome || d.heldInUse v then d
  else
    let other (l : Nat) : Bool := !(isStacked l && lineVault l == v)
    { (d.vaultTo v 5) with
      mem := d.mem.filter (fun x => other (x.1 / 128)), poison := d.poison.filter other,
      upsets := d.upsets.filter fun x => other x.1 }

def execVaultDeepPowerDown (v : Nat) (s : State) : Host.Outcome State Fault Refusal := s.run (v < 200) (·.vaultDeepPowerDown v)

/-! ### Package requests (R516) -/

def Dev.noneGranted (d : Dev) : Bool := d.qs.all fun x => x.2.granted.isEmpty

/-- R516: the package may go to P2 by itself. -/
def Dev.mayP2 (d : Dev) : Bool :=
  d.flag F.PWR_PKG_CTRL_p2_auto 0 && d.fld F.PWR_STATUS_pkg_state 0 == 0 && !d.flag F.PWR_PKG_STATUS_busy 0 &&
    !d.flag F.PWR_ROOT_CTRL_busy 0 && d.noneGranted &&
    d.enabledParts.all fun p =>
      d.psExit 6 ≤ d.fld F.PWR_WAKE_TOL_us p * 1000 &&
        (d.partClusters p).all fun c => [2, 3].contains (d.fld F.PWR_CLUSTER_STATUS_state c)

/-- An entry of the package begins. -/
def Dev.pkgEnter (d : Dev) (st : Nat) : Dev :=
  let e : PowerEntry := { target := st, source := d.fld F.PWR_STATUS_pkg_state 0 }
  { d with pwr := { d.pwr with entry := NMap.insert d.pwr.entry pkgDomain e } }.setFld F.PWR_PKG_STATUS_busy 0 1

def execP2Entry (s : State) : Host.Outcome State Fault Refusal := s.run true fun d => if d.mayP2 then d.pkgEnter 1 else d

/-- R516: every queue and put queue disabled, stopped or empty, with nothing granted. -/
def Dev.queuesQuiet (d : Dev) : Bool :=
  d.noneGranted &&
    ((List.range 64).all fun a => (List.range 64).all fun q =>
      d.qState a q == 0 || d.qState a q == 2 || ((d.queue a q).fetched.isEmpty && d.qHead a q == d.qTail a q)) &&
    (List.range 32).all fun k => (List.range 4).all fun q =>
      let i := k * 4 + q
      ((d.link k).queue q).all (fun e => !e.granted) &&
        (d.pqState i == 0 || d.pqState i == 2 || (((d.link k).queue q).isEmpty && d.reg .LNK_PQ_HEAD i == d.reg .LNK_PQ_TAIL i))

/-- A go of PWR_PKG_CTRL with target P4 or P6. In P4 any write of the register wakes the package, and P6 is left only by target
0. -/
def Dev.pkgRequest (d : Dev) (st : Nat) (wfi : Bool) : Dev :=
  let now := d.fld F.PWR_STATUS_pkg_state 0
  let d := d.setFld F.PWR_PKG_CTRL_target 0 st
  if d.flag F.PWR_PKG_STATUS_busy 0 then d.wakePkg
  else if now = 3 then d
  else if now = 2 then d.wakePkg
  else if d.queuesQuiet && (st = 3 || wfi) then d.pkgEnter st
  else d.setFld F.PWR_PKG_STATUS_result 0 4

/-- `wfi` says whether every Qorriop core that runs is in WFI. -/
def execP4Request (wfi : Bool) (s : State) : Host.Outcome State Fault Refusal := s.run true (·.pkgRequest 2 wfi)
def execP6Request (s : State) : Host.Outcome State Fault Refusal := s.run true (·.pkgRequest 3 true)

/-- R516: a go with target 0. Leaving P6 runs R62 again from its 90 ms row, with a new spare map. -/
def Dev.pkgWakeGo (d : Dev) : Dev :=
  if d.sys.phase != .running || !d.sys.refclk then d
  else
    let d := d.setFld F.PWR_PKG_CTRL_target 0 0
    if d.flag F.PWR_PKG_STATUS_busy 0 then d
    else if d.fld F.PWR_STATUS_pkg_state 0 = 3 then
      let zero (d : Dev) (r : Reg) (n : Nat) : Dev := d.each (List.range n) fun d i => d.setReg r i 0
      let d := zero (zero (zero d .WDN_CORE_BACK 64) .WDN_VAULT_BACK 8) .WDN_QOR_BACK 4
      { d with sys := { d.sys with phase := .selfTest } }.setFld F.PWR_PKG_STATUS_busy 0 1
    else d.wakePkg

def execP0Request (s : State) : Host.Outcome State Fault Refusal := s.runOn true Dev.pkgWakeGo

end Sys2Proof.Machine
end

