-- ==== Sys2Proof/Machine/RegView.lean ====
section
/-! DEFINITION. Where BAR0 offsets lead (R571 to R575), and what the registers there read as (R7, R8, R574). -/

namespace Sys2Proof.Machine

/-! ### Decoding an offset -/

/-- R575: the block an offset lies in, which copy, and the offset of that copy. -/
def bar0Block (off : Nat) : Option (Block × Nat × Nat) :=
  let dev : List (Block × Nat) :=
    [(.rlb, 0x0), (.hif, 0x1000), (.pwr, 0x2000), (.wdn, 0x3000), (.prt, 0x4000), (.xlt, 0x5000), (.msa, 0x6000), (.cvu, 0x7000)]
  if off < 0x8000 then (dev[off / 0x1000]?).map fun b => (b.1, 0, b.2)
  else if off < 0x10000 then some (.dbg, 0, 0x8000)
  else if off < 0x40000 then
    let g := off / 0x1000 % 8
    let base := off / 0x1000 * 0x1000
    if off < 0x18000 then some (.mov, 200 + g, base)
    else if off < 0x20000 then some (.msb, 200 + g, base)
    else if off < 0x28000 then some (.dir, 200 + g, base)
    else if off < 0x30000 then some (.lpd, g, base)
    else none
  else if 0x400000 ≤ off && off < 0x800000 then
    let k := (off - 0x400000) / 0x20000
    some (.lnk, k, 0x400000 + 0x20000 * k)
  else if 0x2000000 ≤ off && off < 0x3900000 then
    let c := (off - 0x2000000) / 0x20000
    let b := 0x2000000 + 0x20000 * c
    let o := off - b
    if o < 0x10000 then
      let s := o / 0x2000
      let r := o % 0x2000
      if r < 0x1000 then some (.cvy, 8 * c + s, b + 0x2000 * s)
      else if r < 0x1800 then some (.arr, 8 * c + s, b + 0x2000 * s + 0x1000)
      else some (.dbgCore, 8 * c + s, b + 0x2000 * s + 0x1800)
    else if o < 0x11000 then some (.dir, c, b + 0x10000)
    else if o < 0x12000 then some (.mov, c, b + 0x11000)
    else if o < 0x13000 then some (.msb, c, b + 0x12000)
    else if o < 0x14000 then some (.vlt, c, b + 0x13000)
    else if o < 0x15000 then some (.dbgCl, c, b + 0x14000)
    else none
  else none

/-- The cluster whose window a copy of a block is, if it is one. -/
def Block.cluster (b : Block) (copy : Nat) : Option Nat :=
  match b with
  | .cvy => some (copy / 8)
  | .arr => some (copy / 8)
  | .dbgCore => some (copy / 8)
  | .vlt => some copy
  | .dbgCl => some copy
  | .dir => if copy < 200 then some copy else none
  | .mov => if copy < 200 then some copy else none
  | .msb => if copy < 200 then some copy else none
  | _ => none

/-- The register of a block at an offset of the block, with its number there and its own offset. -/
def regIn (b : Block) (o : Nat) : Option (Reg × Nat × Nat) :=
  (Reg.all.filter fun r => r.block == b).findSome? fun r =>
    let w := r.row
    let n := (o - w.off) / w.stride
    if w.off ≤ o && n < w.count && (o - w.off) % w.stride < w.bytes then some (r, n, w.off + n * w.stride) else none

/-- The number of a register's copy in the register file: LNK_NODE_ID is one register seen through every link (R499). -/
def Reg.index (r : Reg) (copy n : Nat) : Nat := if r == .LNK_NODE_ID then 0 else copy * r.row.count + n

/-- R23, R529: does a copy of a block answer: not a held cluster's, nor that of a core out of service. -/
def Dev.blockLives (d : Dev) (b : Block) (copy : Nat) : Bool :=
  match b.cluster copy with
  | none => true
  | some c => !heldCluster c && !((b == .cvy || b == .arr || b == .dbgCore) && d.sys.coreOut.contains copy)

/-- The register at an offset: itself, its number in the register file, and its own offset. -/
def Dev.regAt (d : Dev) (off : Nat) : Option (Reg × Nat × Nat) :=
  match bar0Block off with
  | none => none
  | some (b, copy, base) =>
    if d.blockLives b copy then (regIn b (off - base)).map fun x => (x.1, x.1.index copy x.2.1, base + x.2.2) else none

/-! ### Values that other state gives -/

/-- A register's word from its fields. -/
def fieldsOf (l : List (Nat × Nat × Nat)) : Nat := l.foldl (fun x f => setBits x f.1 f.2.1 f.2.2) 0

/-- CVY_STATE of a slot; an empty slot reads as zero. -/
def Convoy.stateWord (v : Convoy) : Nat :=
  fieldsOf [(31, 28, v.state.code), (27, 24, v.barIdx), (23, 20, v.wg), (19, 16, v.index), (15, 10, v.stack.length), (7, 0, v.vRegs)]

/-- CVY_BAR_STATUS of barrier `b` of workgroup slot `w`. -/
def Dev.barStatus (d : Dev) (k w b : Nat) : Nat :=
  let cs := d.wgConvoys k w
  let at_ (v : Convoy) : Bool := v.parked != 0 && v.barIdx == b
  let mask (p : Convoy → Bool) : Nat := listMask ((cs.filter fun x => p x.2).map (·.1))
  fieldsOf [(47, 32, mask fun v => !v.arrivedAt b && !at_ v), (31, 16, mask (·.arrivedAt b)), (0, 0, b2n (cs.any fun x => at_ x.2))]

/-- CVY_DBG_HALT reads back the slots with a halt requested or in force. -/
def Convoy.haltShown (v : Convoy) : Bool := v.state.isHalted || v.haltReq

def Dev.slotMask (d : Dev) (k : Nat) (p : Nat → Convoy → Bool) : Nat :=
  listMask (((d.core k).convoys.filter fun x => p x.1 x.2).map (·.1))

def Dev.seqStatus (d : Dev) (k : Nat) : Nat :=
  let ts := (d.l1 k).trackers
  let t (i : Nat) : SeqTracker := ts.getD i {}
  fieldsOf [(19, 16, listMask ((List.range 4).filter fun i => (t i).noAlloc)), (15, 12, (t 3).count), (11, 8, (t 2).count),
    (7, 4, (t 1).count), (3, 0, (t 0).count)]

def Dev.arrStatus (d : Dev) (k : Nat) : Nat :=
  let a := (d.core k).arr
  fieldsOf [(21, 21, b2n a.replay.isSome), (20, 20, b2n a.stage.isSome), (19, 19, b2n (a.stagedSinceSwap && a.stage.isNone)),
    (18, 18, b2n a.front.filled), (17, 17, b2n a.owner.isSome), (15, 12, a.owner.getD 0), (7, 0, (d.core k).tileMask)]

def Dev.moverStatus (d : Dev) (m : Nat) : Nat :=
  let x := d.mover m
  fieldsOf [(22, 16, (x.descs.filter (!·.started)).length), (11, 8, (x.descs.filter (·.started)).length),
    (0, 0, b2n ((x.descs.any (·.stalled)) || x.offers.any (·.stalled)))]

def Dev.queueStatus (d : Dev) (i : Nat) : Nat :=
  let x := NMap.getD d.qs i {}
  let w := setBits (d.reg .HIF_Q_STATUS i) 28 28 (b2n (d.flag F.XLT_CTX_STATUS_faulted (i / 64)))
  setBits (setBits w 27 27 (b2n ((x.granted ++ x.cancelled).any (·.evWaits)))) 23 16 (min 255 x.granted.length)

def Dev.spareLeft (d : Dev) : Nat :=
  let n (kind die : Nat) : Nat := (d.spareFree kind die).length
  fieldsOf [(47, 40, n 1 1), (39, 32, n 1 0), (31, 24, n 4 1), (23, 16, n 4 0), (15, 8, n 7 1), (7, 0, n 7 0)]

/-- Proposals in states 1 to 3. -/
def Dev.propsOpen (d : Dev) : Nat := ((List.range 32).filter fun n => 1 ≤ d.propState n && d.propState n ≤ 3).length

/-- A register's fields as they stand, those that other state gives among them. -/
def Dev.regNow (d : Dev) (r : Reg) (i : Nat) : Nat :=
  let v := d.reg r i
  match r with
  | .WDN_STATUS => setBits v 5 0 d.propsOpen
  | .WDN_SPARE_LEFT => d.spareLeft
  | .PWR_PART_CREDIT => setBits v 31 0 (d.poolMw i)
  | .PWR_QUAD_STATUS => setBits v 0 0 (b2n (d.quadPowered i))
  | .PWR_CLUSTER_STATUS => setBits v 7 0 (listMask ((List.range 8).filter fun s => (d.core (8 * i + s)).gated))
  | .PRT_STATUS => setBits (setBits v 20 14 (d.slotsUsed i).length) 13 9 (d.pstate i).launches.length
  | .XLT_PSTATUS => setBits (setBits v 26 16 (d.xltPart i).out.length) 11 8 (NMap.getD d.cachePos i 0)
  | .MS_WDOG_STATUS => setBits v 15 0 (d.hungCount i)
  | .MOV_STATUS => d.moverStatus i
  | .MS_BLOCK_STATUS => (NMap.getD d.watch i []).length
  | .DIR_L2_CONFIG => if i < 200 then v else 0
  | .DIR_ENTRIES_USED => (d.home i).entries.length
  | .LPD_POISON_USED => d.poisonUsed i
  | .CVY_CORE_STATUS =>
    let c := d.core i
    fieldsOf [(27, 23, c.wgs.length), (22, 12, c.units), (11, 8, popCount c.tileMask 8), (4, 0, c.convoys.length)]
  | .CVY_DBG_HALT => d.slotMask i fun _ v => v.haltShown
  | .CVY_STATE => ((d.convoy? (i / 16) (i % 16)).map (·.stateWord)).getD 0
  | .CVY_PC => ((d.convoy? (i / 16) (i % 16)).map (·.pc.toNat)).getD 0
  | .CVY_ACTIVE => ((d.convoy? (i / 16) (i % 16)).map (·.active.toNat)).getD 0
  | .CVY_LIVE => ((d.convoy? (i / 16) (i % 16)).map (·.live.toNat)).getD 0
  | .CVY_PARKED => ((d.convoy? (i / 16) (i % 16)).map (·.parked.toNat)).getD 0
  | .CVY_BAR_STATUS => d.barStatus (i / 128) (i % 128 / 8) (i % 8)
  | .CVY_L1_DIRTY => (d.l1 i).dirty.length
  | .CVY_SEQ_STATUS => d.seqStatus i
  | .CVY_RT_STATUS =>
    let n := (d.core i).heldRanges.length
    setBits (setBits v 7 7 (b2n (n ≥ 64))) 6 0 n
  | .ARR_STATUS => d.arrStatus i
  | .ARR_DETOUR_ACTIVE =>
    fieldsOf [(31, 16, d.slotMask i fun n v => d.detourHold i n || v.divert.isSome), (15, 0, d.slotMask i fun _ v => v.detouring)]
  | .HIF_Q_STATUS => d.queueStatus i
  | .WDN_MBX_STATUS => d.mbxStatusWord
  | _ => v

/-- The bits of the fields that a test selects. -/
def Reg.mask (r : Reg) (p : Acc → Bool) : Nat := r.fields.foldl (fun m f => if p f.2.2 then setBits m f.1 f.2.1 (2 ^ 64 - 1) else m) 0

/-- R7, R8: what a register reads as: WO fields and Reserved ones as zero. -/
def Dev.regRead (d : Dev) (r : Reg) (i : Nat) : Nat := d.regNow r i &&& r.mask (· != .WO)

/-! ### A link's read-only windows (R493, R497, R499) -/

/-- A peer identity entry of Ethernet mode. -/
def EthPeer.entry (x : EthPeer) : List Byte :=
  leBytes x.digest.toNat 48 ++ leBytes (b2n x.identOk + 2 * b2n x.mismatch) 1 ++ List.replicate 15 0

/-- The 64-bit word at an aligned offset of a link's window, outside its registers. -/
def Dev.linkWindow (d : Dev) (k o : Nat) : Nat :=
  if 0x2000 ≤ o && o < 0x6000 then
    leNat ((((NMap.getD (d.link k).peers ((o - 0x2000) / 0x40) {}).entry).drop (o % 0x40)).take 8)
  else if d.flag F.LNK_CAP_STATUS_running k then 0
  else if 0x8000 ≤ o && o < 0x8800 then
    ((NMap.find? (d.link k).cap ((o - 0x8000) / 8)).map (·.2.toNat)).getD 0
  else if 0x10000 ≤ o && o < 0x20000 then
    ((NMap.find? (d.link k).cap ((o - 0x10000) / 0x100)).map fun x => bits x.1.toNat (8 * (o % 0x100) + 63) (8 * (o % 0x100))).getD 0
  else 0

/-! ### Reads (R8, R574) -/

/-- The aligned 32-bit word at an offset. -/
def Dev.read32 (d : Dev) (off : Nat) : Nat :=
  match d.regAt off with
  | some (r, i, base) => d.regRead r i / 2 ^ (8 * (off - base)) % 2 ^ 32
  | none =>
    match bar0Block off with
    | some (.lnk, k, base) => d.linkWindow k ((off - base) / 8 * 8) / 2 ^ (8 * (off % 8)) % 2 ^ 32
    | _ => 0

/-- A read of 4 or 8 bytes: all ones where it is not aligned. -/
def Dev.bar0Read (d : Dev) (off : Nat) (wide : Bool) : Nat :=
  if wide then (if off % 8 = 0 then d.read32 off + d.read32 (off + 4) * 2 ^ 32 else 2 ^ 64 - 1)
  else if off % 4 = 0 then d.read32 off else 2 ^ 32 - 1

end Sys2Proof.Machine
end

