-- ==== Sys2Proof/Machine/RegWrite.lean ====
section
/-! DEFINITION. Register writes: what each field stores (R7, R9), what each action field does, the ring registers (R597), the
halves of a 64-bit register (R574) and sealed fields (R53). -/

namespace Sys2Proof.Machine

/-- What a write's effect may have to ask of the world: are all Qorriop cores in WFI (R516), and which lanes of a vault a
retraining finds bad (R289). -/
structure WriteEnv where
  wfi : Bool := false
  lanes : List (Nat × List Nat) := []
deriving DecidableEq, Repr

/-- A register write in 64 bits: the value, with what its low half holds where only the high half is written; the mask of the
bits written; and whether the WO and W1C fields act, which they do not on a write of a low half alone (R574). -/
structure RegPut where
  v : Nat
  m : Nat
  act : Bool
deriving DecidableEq, Repr

/-- The bits of `m` in `old` replaced by those of `v`. -/
def mergeBits (old v m : Nat) : Nat := (old ^^^ (old &&& m)) ||| (v &&& m)

/-- R7: what RW and W1C fields hold after a write. -/
def Reg.stored (r : Reg) (old : Nat) (w : RegPut) : Nat :=
  let x := mergeBits old w.v (w.m &&& r.mask (· == .RW))
  if w.act then x ^^^ (x &&& w.v &&& r.mask (· == .W1C)) else x

/-- R597: the largest log2_entries of a ring register. -/
def Reg.ringMax : Reg → Option Nat
  | .HIF_Q_RING => some 14
  | .HIF_Q_EVRING => some 15
  | .XLT_REQ_RING => some 14
  | .XLT_RSP_RING => some 14
  | .MS_WDOG_RING => some 15
  | .PRT_SLOW_RING => some 12
  | .WDN_ERR_RING => some 12
  | .DBG_TRACE_RING => some 12
  | .LNK_PQ_RING => some 14
  | _ => none

/-- R597: would a write leave a ring register with a size it does not state. -/
def Reg.ringBad (r : Reg) (new : Nat) : Bool :=
  match r.ringMax with
  | some top => bits new 3 0 != 0 && (bits new 3 0 < 6 || bits new 3 0 > top)
  | none => false

/-! ### Registers whose writes act -/

/-- PWR_PKG_CTRL (R516). -/
def Dev.putPkgCtrl (d : Dev) (e : WriteEnv) (w : RegPut) : Dev :=
  let d := d.setReg .PWR_PKG_CTRL 0 (Reg.PWR_PKG_CTRL.stored (d.reg .PWR_PKG_CTRL 0) w)
  if !bitAt w.v 31 then d
  else match bits w.v 1 0 with
    | 0 => d.pkgWakeGo
    | 1 => d
    | t => d.pkgRequest t (t == 3 || e.wfi)

/-- WDN_PROP_CTRL (R535): an approval or a rejection of a proposal in state 1. -/
def Dev.putPropCtrl (d : Dev) (f : Fuses) (e : WriteEnv) (n : Nat) (w : RegPut) : Dev :=
  let d := d.setReg .WDN_PROP_CTRL n (Reg.WDN_PROP_CTRL.stored (d.reg .WDN_PROP_CTRL n) w)
  if !bitAt w.v 31 then d
  else match bits w.v 30 29 with
    | 0 => (d.decideProp n 0).approve n e.lanes
    | 1 => approveNow f n e.lanes d
    | 2 => d.rejectProp n
    | _ => d

/-- PRT_SLICE_CTRL (R448, R453): a grace outside 1 to 50 is not stored. -/
def Dev.putSliceCtrl (d : Dev) (p : Nat) (w : RegPut) : Dev :=
  let g := bits w.v 23 16
  let d := if 1 ≤ g && g ≤ 50 then d.setFld F.PRT_SLICE_CTRL_grace p g else d
  if bitAt w.v 31 then d.sliceEnd p else d

/-- R455: may PRT_SAVE_CFG hold a value. -/
def saveCfgOk (v : Nat) : Bool := bits v 38 32 ≤ 64 && bits v 29 22 + bits v 38 32 ≤ 256

/-- MOV_CVU_CTRL (R269 to R271). -/
def Dev.putCvuCtrl (d : Dev) (u : Nat) (w : RegPut) : Dev :=
  let old := d.reg .MOV_CVU_CTRL u
  let new := Reg.MOV_CVU_CTRL.stored old w
  let d := if d.cvuBusy u then (if new = old then d else d.setFld F.MOV_CVU_STATUS_write_reject u 1) else d.setReg .MOV_CVU_CTRL u new
  let d := if bitAt w.v 31 then d.cvuGo u else d
  let d := if bitAt w.v 30 then d.cvuSuspend u else d
  if bitAt w.v 29 then d.cvuAbort u else d

/-- The other registers of a check-value unit: VALUE keeps the bits of its polynomial's width. -/
def Dev.putCvuData (d : Dev) (r : Reg) (u : Nat) (w : RegPut) : Dev :=
  if d.cvuBusy u then d.setFld F.MOV_CVU_STATUS_write_reject u 1
  else
    let v := r.stored (d.reg r u) w
    let width := match d.fld F.MOV_CVU_CTRL_poly u with | 2 => 64 | 3 => 16 | _ => 32
    d.setReg r u (if r == .MOV_CVU_VALUE then v % 2 ^ width else v)

/-- DBG_FREEZE_CTRL: a freeze and a thaw together give a freeze (R556). -/
def Dev.putFreezeCtrl (d : Dev) (w : RegPut) : Dev :=
  let d := d.setReg .DBG_FREEZE_CTRL 0 (Reg.DBG_FREEZE_CTRL.stored (d.reg .DBG_FREEZE_CTRL 0) w)
  if bitAt w.v 31 then d.freezeOwn 0 else if bitAt w.v 30 then d.thaw (bitAt w.v 29) else d

/-! ### Links (R477, R480, R481, R494 to R497) -/

/-- LNK_CTRL: a write of enable that changes nothing does nothing. -/
def Dev.putLinkCtrl (d : Dev) (k : Nat) (w : RegPut) : Dev :=
  let on := bitAt w.v 31
  let d := if on == d.flag F.LNK_CTRL_enable k then d else d.linkEnable k on
  if bitAt w.v 30 then d.fullRetrain k else d

/-- LNK_RX_CFG: enabled only for a context of the link's partition. -/
def Dev.putRxCfg (d : Dev) (k : Nat) (w : RegPut) : Dev :=
  if bitAt w.v 31 && !d.pqOwned k (bits w.v 5 0) then d
  else d.setReg .LNK_RX_CFG k (Reg.LNK_RX_CFG.stored (d.reg .LNK_RX_CFG k) w)

/-- A test link's mode changed: the link leaves the mode it is in, and comes up anew in the other where it is enabled. -/
def Dev.testMode (d : Dev) (k mode : Nat) : Dev :=
  if d.fld F.LNK_TEST_CTRL_mode k = mode || mode = 3 then d
  else
    let d := d.setFld F.LNK_TEST_CTRL_mode k mode
    let d := d.each (List.range 5) fun d l => d.setFld F.LNK_PRBS_locked (5 * k + l) 0
    if d.linkState k = 0 then d else (d.linkLost k 1).linkTrain k

/-- LNK_TEST_CTRL, which acts on a test-role link alone; a rate outside 1 to 256 is not stored. -/
def Dev.putTestCtrl (d : Dev) (k : Nat) (w : RegPut) : Dev :=
  if !d.isTest k then d.setFld F.LNK_INJECT_error k 1
  else
    let r := bits w.v 8 0
    let d := if 1 ≤ r && r ≤ 256 then d.setFld F.LNK_TEST_CTRL_rate k r else d
    let d := (d.setFld F.LNK_TEST_CTRL_det k (bits w.v 30 30)).setFld F.LNK_TEST_CTRL_pattern k (bits w.v 27 27)
    let d := d.testMode k (bits w.v 29 28)
    if bitAt w.v 31 then d.testGo k else d.pump k pumpFuel

/-- LNK_INJECT: armed, or, written with arm 0, disarmed with what it held back sent. An injection of nothing, or on no lane, is
complete at once. -/
def Dev.putInject (d : Dev) (k : Nat) (w : RegPut) : Dev :=
  if !d.isTest k then d.setFld F.LNK_INJECT_error k 1
  else
    let kind := bits w.v 29 28
    let lane := bits w.v 27 25
    let count := bits w.v 24 15
    let delay := bits w.v 14 0
    let some_ := match kind with | 0 => lane < 5 && count != 0 | 3 => delay != 0 | _ => count != 0
    if bitAt w.v 31 && some_ then d.armInject k kind lane count delay
    else
      let d := d.setReg .LNK_INJECT k (bits w.v 29 0)
      (d.onLink k fun x => { x with held := false, injLeft := 0 }).pump k pumpFuel

def Dev.putCapCtrl (d : Dev) (k : Nat) (w : RegPut) : Dev :=
  let d := d.setReg .LNK_CAP_CTRL k (Reg.LNK_CAP_CTRL.stored (d.reg .LNK_CAP_CTRL k) w)
  let d := if bitAt w.v 31 then d.captureGo k else d
  if bitAt w.v 30 then d.captureStop k else d

/-- LNK_NODE_ID: written only while every link is down or disabled (R480). -/
def Dev.putNodeId (d : Dev) (w : RegPut) : Dev :=
  if (List.range 32).any fun k => d.linkState k > 1 then d
  else d.setReg .LNK_NODE_ID 0 (mergeBits (d.reg .LNK_NODE_ID 0) w.v w.m)

/-- LNK_PQ_CFG: the asid of an enabled queue stays. -/
def Dev.putPqCfg (d : Dev) (i : Nat) (w : RegPut) : Dev :=
  let k := i / 4
  let q := i % 4
  let d := if d.pqState i = 0 then d.setFld F.LNK_PQ_CFG_asid i (bits w.v 5 0) else d
  let d := if bitAt w.v 31 then d.pqEnable k q else if d.flag F.LNK_PQ_CFG_enable i then d.pqDisable k q else d
  let d := if bitAt w.v 29 then d.pqReset k q else d
  if bitAt w.v 30 then d.pqResume k q else d

/-! ### Queue pages (R419 to R422, R435) -/

def Dev.putQCtrl (d : Dev) (i : Nat) (w : RegPut) : Dev :=
  let a := i / 64
  let q := i % 64
  let was := d.flag F.HIF_Q_CTRL_enable i
  let keep := setBits (Reg.HIF_Q_CTRL.stored (d.reg .HIF_Q_CTRL i) w) 31 31 (b2n was)
  let d := d.setReg .HIF_Q_CTRL i keep
  let d := if bitAt w.v 31 then d.enableQueue a q else if was then d.disableQueue a q else d
  let d := if bitAt w.v 29 then d.resetQueue a q else d
  if bitAt w.v 30 then d.resumeQueue a q else d

/-- HIF_Q_CANCEL: the low half's seq is held until the high half acts (R574). -/
def Dev.putCancel (d : Dev) (i : Nat) (w : RegPut) : Dev :=
  let d := d.setReg .HIF_Q_CANCEL i (Reg.HIF_Q_CANCEL.stored (d.reg .HIF_Q_CANCEL i) w)
  if w.act && bitAt w.v 63 then
    d.cancelWrite (i / 64) (i % 64) (bits (d.reg .HIF_Q_CANCEL i) 31 0) (bitAt (d.reg .HIF_Q_CANCEL i) 62)
  else d

/-! ### A write of one register -/

/-- A mask or the PC of a convoy (R101): the bits written with the others as they are. -/
def Dev.putMask (d : Dev) (which : Nat) (r : Reg) (i : Nat) (w : RegPut) : Dev :=
  match d.convoy? (i / 16) (i % 16) with
  | some _ => d.maskWrite (i / 16) (i % 16) which (BitVec.ofNat 64 (mergeBits (d.regNow r i) w.v w.m))
  | none => d.setFld F.CVY_REG_SEL_error (i / 16) 1

/-- What a write does, once it may reach the register. -/
def Dev.regPut (d : Dev) (f : Fuses) (e : WriteEnv) (r : Reg) (i : Nat) (w : RegPut) : Dev :=
  let new := r.stored (d.reg r i) w
  let go := bitAt w.v 31
  if r.ringBad new then d
  else match r with
    | .RLB_AMEND_CTRL => if go then amSubmit f d else d
    | .HIF_SELF_START => d.startHarts (bits w.v 23 0)
    | .HIF_CTX_CFG => d.ctxWrite i w.v
    | .PWR_ROOT_CTRL => let d := d.setReg r i new; if go then d.retune (bits w.v 12 0) else d
    | .PWR_PKG_CTRL => d.putPkgCtrl e w
    | .PWR_WAKE_TOL => d.writeWakeTol i (bits w.v 19 0)
    | .WDN_PROP_CTRL => d.putPropCtrl f e i w
    | .PRT_SLICE_CTRL => d.putSliceCtrl i w
    | .PRT_SAVE_CFG => if (d.slotsUsed i).isEmpty && saveCfgOk new then d.setReg r i new else d
    | .XLT_INV_CTRL =>
      if go then d.invGo (bits w.v 25 24) (bits w.v 21 16) (bits w.v 15 0 + 1) else d.setReg r i new
    | .XLT_KEK_CTRL => if go then d.kekLoad else d
    | .XLT_KEK => d.setReg r i (mergeBits (d.reg r i) w.v w.m)
    | .XLT_KEY_DATA => d.setReg r i (mergeBits (d.reg r i) w.v w.m)
    | .XLT_KEY_CTRL => if go then d.keyGo (bits w.v 25 24) (bits w.v 5 0) else d.setReg r i new
    | .XLT_REQ_RING => (d.setReg r i new).postWaiting i 1024
    | .XLT_REQ_TAIL => (d.setReg r i new).postWaiting i 1024
    | .XLT_CTX_CTRL => let d := d.setReg r i new; if go then d.clearFault i else d
    | .MS_OP => let d := d.setReg r i new; if go then d.msAccess (bits w.v 1 0) else d
    | .MS_FORCE_WAKE =>
      let d := d.setReg r i new
      if go then d.forceWake (bits w.v 23 16) (bits w.v 10 8) (bits w.v 3 0) else d
    | .MOV_CVU_CTRL => d.putCvuCtrl i w
    | .MOV_CVU_START => d.putCvuData r i w
    | .MOV_CVU_LENGTH => d.putCvuData r i w
    | .MOV_CVU_VALUE => d.putCvuData r i w
    | .MOV_CVU_MS => d.putCvuData r i w
    | .DBG_FREEZE_CTRL => d.putFreezeCtrl w
    | .DIR_FLUSH => if go && i < 200 then d.flushGo i else d
    | .LNK_CTRL => d.putLinkCtrl i w
    | .LNK_RX_CFG => d.putRxCfg i w
    | .LNK_TEST_CTRL => d.putTestCtrl i w
    | .LNK_INJECT => d.putInject i w
    | .LNK_CAP_CTRL => d.putCapCtrl i w
    | .LNK_NODE_ID => d.putNodeId w
    | .LNK_PRBS => if w.act && bits w.v 31 0 != 0 then d.setFld F.LNK_PRBS_errors i 0 else d
    | .LNK_PQ_RING => if d.pqState i = 0 then d.setReg r i new else d
    | .LNK_PQ_CFG => d.putPqCfg i w
    | .LNK_PQ_TAIL => d.pqDoorbell (i / 4) (i % 4) (bits w.v 31 0)
    | .CVY_DBG_HALT => d.eachSlot (BitVec.ofNat 16 w.v) fun d n => d.haltConvoy i n
    | .CVY_DBG_RESUME => d.eachSlot (BitVec.ofNat 16 w.v) fun d n => d.resumeConvoy i n
    | .CVY_DBG_STEP => d.eachSlot (BitVec.ofNat 16 w.v) fun d n => d.stepConvoy i n
    | .CVY_REG_SEL => if go then d.regAccess i (bits w.v 30 0) else d.setReg r i new
    | .CVY_PC => d.putMask 0 r i w
    | .CVY_ACTIVE => d.putMask 1 r i w
    | .CVY_LIVE => d.putMask 2 r i w
    | .CVY_PARKED => d.putMask 3 r i w
    | .CVY_BAR_RELEASE => d.barRelease (i / 16) (i % 16) (BitVec.ofNat 8 w.v)
    | .CVY_RT_STATUS =>
      if bits w.v 23 16 != 0 then d.setFld F.CVY_RT_STATUS_peak i (d.core i).heldRanges.length else d
    | .VLT_INJECT => if bits new 22 16 ≥ 72 then d else d.setReg r i (if bits new 15 0 = 0 then setBits new 31 31 0 else new)
    | .HIF_Q_TAIL => d.doorbell (i / 64) (i % 64) (bits w.v 31 0)
    | .HIF_Q_CTRL => d.putQCtrl i w
    | .HIF_Q_RING => if d.fld F.HIF_Q_STATUS_state i = 0 then d.setReg r i new else d
    | .HIF_Q_EVRING => if d.fld F.HIF_Q_STATUS_state i = 0 then d.setReg r i new else d
    | .HIF_Q_CANCEL => d.putCancel i w
    | _ => d.setReg r i new

/-- R53: a write that reaches an RWL field of the sealed book: counted, its BAR0 offset recorded. -/
def Dev.lockedWrite (d : Dev) (off : Nat) : Dev :=
  (d.tally F.RLB_LOCKED_WRITE_COUNT_value 0).setFld F.RLB_LOCKED_WRITE_ADDR_offset 0 off

/-- R574: the whole of a 32-bit register, or a half or the whole of a 64-bit one, written. `o` is the byte within the register
and `n` the bytes written. -/
def Dev.regWrite (d : Dev) (f : Fuses) (e : WriteEnv) (r : Reg) (i o n v : Nat) : Dev :=
  let m := (2 ^ (8 * n) - 1) * 2 ^ (8 * o)
  let x := v % 2 ^ (8 * n) * 2 ^ (8 * o)
  if r.row.bytes = 8 && n = 4 then
    if o = 0 then
      let d : Dev := { d with lowHalf := NMap.insert d.lowHalf (regKey r i) x }
      d.regPut f e r i ⟨x, m, false⟩
    else
      let low := NMap.getD d.lowHalf (regKey r i) 0
      let d : Dev := { d with lowHalf := NMap.erase d.lowHalf (regKey r i) }
      d.regPut f e r i ⟨x + low, m, true⟩
  else d.regPut f e r i ⟨x, m, true⟩

/-! ### Writes by offset -/

/-- R373, R513: the cluster whose window is accessed wakes, and a core whose CVY_ window is. -/
def Dev.touchWindow (d : Dev) (b : Block) (copy : Nat) : Dev :=
  match b.cluster copy with
  | some c => if b == .cvy then d.touchCore copy else d.wakeCluster c
  | none => d

/-- R64, R53, R591: does BAR0 answer: the book is sealed, and the device is up and clocked. In P6 the PWR_ block alone does. -/
def Dev.bar0Open (d : Dev) (off : Nat) : Bool :=
  d.flag F.RLB_STATUS_sealed 0 && (d.sys.phase == .running || d.sys.phase == .lpddr) && d.sys.refclk &&
    (d.fld F.PWR_STATUS_pkg_state 0 != 3 || (match bar0Block off with | some (.pwr, _, _) => true | _ => false))

/-- `n` aligned bytes of a register's offset written. -/
def Dev.writeAt (d : Dev) (f : Fuses) (e : WriteEnv) (off n v : Nat) : Dev :=
  match d.regAt off, bar0Block off with
  | some (r, i, base), some (b, copy, _) =>
    let d := d.touchWindow b copy
    let d := d.when (r.mask (· == .RWL) != 0) (·.lockedWrite off)
    d.regWrite f e r i (off - base) n v
  | _, _ => d

/-- R8, R574: a write of `n` bytes at an offset of BAR0. -/
def Dev.bar0Write (d : Dev) (f : Fuses) (e : WriteEnv) (off n v : Nat) : Dev :=
  if n = 4 && off % 4 = 0 then d.writeAt f e off 4 v
  else if n = 8 && off % 8 = 0 then
    match d.regAt off with
    | some (r, _, _) => if r.row.bytes = 8 then d.writeAt f e off 8 v else (d.writeAt f e off 4 v).writeAt f e (off + 4) 4 (v / 2 ^ 32)
    | none => d.writeAt f e (off + 4) 4 (v / 2 ^ 32)
  else d

/-- A write of a queue page, in the layout of the PF's BAR2 (R414, R444). -/
def Dev.pageWrite (d : Dev) (f : Fuses) (e : WriteEnv) (off n v : Nat) : Dev :=
  let i := off / 0x1000
  let o := off % 0x1000
  let one (d : Dev) (o n v : Nat) : Dev :=
    match regIn .qpage o with
    | some (r, _, base) => d.regWrite f e r i (o - base) n v
    | none => d
  if n = 4 && o % 4 = 0 then one d o 4 v
  else if n = 8 && o % 8 = 0 then
    match regIn .qpage o with
    | some (r, _, _) => if r.row.bytes = 8 then one d o 8 v else one (one d o 4 v) (o + 4) 4 (v / 2 ^ 32)
    | none => one d (o + 4) 4 (v / 2 ^ 32)
  else d

/-! ### REGISTER_WRITE -/

/-- Does a host port reach the device: an endpoint, out of reset and trained. -/
def Dev.portUp (d : Dev) (port : Nat) : Bool := d.bar4Open port && d.sys.hostTrained.contains port

/-- R414, R441: a write by host port W (0) or E (1), or by a Qorriop core (2), to BAR0 (space 0) or the queue pages (1). Writes
to BAR0 through the port that is not the primary one are counted and dropped. -/
def Dev.writeFrom (d : Dev) (f : Fuses) (e : WriteEnv) (src space off n v : Nat) : Dev :=
  let reaches := if src < 2 then d.portUp src else d.sys.harts != 0
  if space = 0 then
    if !reaches || !d.bar0Open off then d
    else if src < 2 && d.fld F.HIF_STATUS_primary 0 != src then d.barWake.count F.HIF_DROPPED_WRITES_count 0
    else d.barWake.bar0Write f e off n v
  else if reaches && d.awake then d.barWake.pageWrite f e off n v
  else d

/-- R66, R70: a write of the mailbox capability through a port's configuration space, of one aligned 32-bit word. -/
def mbxCfgWrite (src off n v : Nat) (x : Fuses × Dev) : Fuses × Dev :=
  let (f, d) := x
  if src < 2 && d.portUp src && n = 4 && off % 4 = 0 then
    ((leBytes v 4).zipIdx.map fun b => (off + b.2, b.1)).foldl mbxPut (f, d)
  else (f, d)

/-- Is a write one that a source can make: an offset within its space, and 1 to 8 bytes. -/
def writeOk (src space off n : Nat) (e : WriteEnv) : Bool :=
  src < 3 && space < 3 && 1 ≤ n && n ≤ 8 && laneMapOk e.lanes &&
    off < (match space with | 0 => 2 ^ 26 | 1 => 2 ^ 24 | _ => 0x120)

/-- `space` is 0 for BAR0, 1 for the queue pages, 2 for the mailbox capability. -/
def execRegisterWrite (src space off n : Nat) (v : Word) (wfi : Bool) (lanes : List (Nat × List Nat)) (s : State) :
    Host.Outcome State Fault Refusal :=
  let e : WriteEnv := { wfi := wfi, lanes := lanes }
  s.runSys (writeOk src space off n e) fun x =>
    if space = 2 then mbxCfgWrite src off n v.toNat x else (x.1, x.2.writeFrom x.1 e src space off n v.toNat)

end Sys2Proof.Machine
end

