-- ==== Sys2Proof/Machine/Jtag.lean ====
section
/-! DEFINITION. The JTAG port (R562, R563). -/

namespace Sys2Proof.Machine

/-- An instruction loaded. -/
def Dev.loadIr (d : Dev) (c : Nat) : Dev := if d.sys.powered then { d with sys := { d.sys with ir := c } } else d

/-- What drives the pins: the device (0), the boundary scan's latches (1), or nothing (2). EXTEST, CLAMP and HIGHZ act only while
RESET_N is asserted. -/
def Dev.pinDrive (d : Dev) : Nat :=
  if d.sys.resetN then 0 else match d.sys.ir with | 0 => 1 | 4 => 1 | 5 => 2 | _ => 0

/-- What a capture of the data register selected gives: the identifier, DBG_ACCESS, the boundary scan, or the bypass bit. -/
def Dev.captured (d : Dev) : Nat :=
  match d.sys.ir with
  | 1 => 0x1160056b
  | 0x20 => d.sys.dbgAccess.toNat
  | 2 => listMask (d.sys.scanIn.zipIdx.filterMap fun x => if x.1 then some x.2 else none)
  | 0 => if d.sys.resetN then 0 else listMask (d.sys.scanIn.zipIdx.filterMap fun x => if x.1 then some x.2 else none)
  | _ => 0

/-- The boundary scan captures the pins and takes what is shifted in. -/
def Dev.boundary (d : Dev) (pins shift : List Bool) : Dev :=
  if d.sys.powered then { d with sys := { d.sys with scanIn := pins, scanOut := shift } } else d

/-- `pins` are the levels at the pins and `shift` what the tester shifts in. -/
def execExtest (pins shift : List Bool) (s : State) : Host.Outcome State Fault Refusal :=
  s.runOn true fun d => let d := d.loadIr 0; if d.sys.resetN then d else d.boundary pins shift
def execSamplePreload (pins shift : List Bool) (s : State) : Host.Outcome State Fault Refusal :=
  s.runOn true fun d => (d.loadIr 2).boundary pins shift
def execIdcode (s : State) : Host.Outcome State Fault Refusal := s.runOn true (·.loadIr 1)
def execClamp (s : State) : Host.Outcome State Fault Refusal := s.runOn true (·.loadIr 4)
def execHighz (s : State) : Host.Outcome State Fault Refusal := s.runOn true (·.loadIr 5)
def execBypass (s : State) : Host.Outcome State Fault Refusal := s.runOn true (·.loadIr 0xff)
def execTrstNAssert (s : State) : Host.Outcome State Fault Refusal := s.runOn true (·.loadIr 1)

/-! ### DBG_ACCESS -/

/-- May an access reach the map. -/
def Dev.dbgReaches (d : Dev) (off : Nat) : Bool := d.flag F.DBG_JTAG_CTRL_enable 0 && d.bar0Open off

/-- DBG_ACCESS as an access leaves it. -/
def dbgWord (error : Bool) (off data : Nat) : BitVec 96 :=
  BitVec.ofNat 96 (fieldsOf [(95, 95, 1), (94, 94, b2n error), (89, 64, off), (63, 0, data)])

def Dev.setDbg (d : Dev) (w : BitVec 96) : Dev := { d with sys := { d.sys with dbgAccess := w } }

/-- A go with write 0. A refused access leaves the data as it was captured before. -/
def Dev.dbgRead (d : Dev) (off : Nat) (wide : Bool) : Dev :=
  let d := d.loadIr 0x20
  if !d.sys.powered then d
  else if !d.dbgReaches off then d.setDbg (dbgWord true off (bits d.sys.dbgAccess.toNat 63 0))
  else
    let d := match bar0Block off with | some (b, copy, _) => if d.blockLives b copy then d.touchWindow b copy else d | none => d
    d.setDbg (dbgWord false off (d.bar0Read off wide))

/-- A go with write 1. -/
def Dev.dbgWrite (d : Dev) (f : Fuses) (e : WriteEnv) (off : Nat) (wide : Bool) (v : Nat) : Dev :=
  let d := d.loadIr 0x20
  if !d.sys.powered then d
  else
    let data := bits d.sys.dbgAccess.toNat 63 0
    if !d.dbgReaches off then d.setDbg (dbgWord true off data)
    else (d.barWake.bar0Write f e off (if wide then 8 else 4) v).setDbg (dbgWord false off data)

def execDbgAccessRead (off : Nat) (wide : Bool) (s : State) : Host.Outcome State Fault Refusal :=
  s.runOn (off < 2 ^ 26) (·.dbgRead off wide)
def execDbgAccessWrite (off : Nat) (wide : Bool) (v : Word) (wfi : Bool) (lanes : List (Nat × List Nat)) (s : State) :
    Host.Outcome State Fault Refusal :=
  s.runOn (off < 2 ^ 26 && laneMapOk lanes) fun d => d.dbgWrite s.fuses { wfi := wfi, lanes := lanes } off wide v.toNat

end Sys2Proof.Machine
end

