-- ==== Sys2Proof/Machine/LanePred.lean ====
section
/-! DEFINITION. The lane, predicate and special-register instructions (R76, R77, R107, R122, R123). -/

namespace Sys2Proof.Machine

/-- R122: the source lane of SHFL; none where the lane's own value is kept. The lane offset is unsigned (log entry 22). -/
def shflSource (mode t b : Nat) : Nat :=
  match mode with
  | 0 => b % 64
  | 1 => if b ≤ t then t - b else t
  | 2 => if t + b ≤ 63 then t + b else t
  | _ => t ^^^ (b % 64)

def execShfl (k n : Nat) (w : BitVec 56) (s : State) : Host.Outcome State Fault Refusal :=
  let x := iword 0x60 w
  s.runPure k n .valu fun v =>
    v.legal x (onlyUses x (fbits 50 44 ||| fbits 43 37 ||| fbits 36 30 ||| fbits 22 21 ||| fbits 8 7) && bselOk x) <|
    raising (groupCauses v x (fVa x) 1 false ++ (if fBsel x = 0 then groupCauses v x (fVb x) 1 false else []) ++
      groupCauses v x (fVd x) 1 true) <|
    .ok (v.eachLane x fun t a => a.setVr (fVd x) t (v.vr (fVa x) (shflSource (bits x 8 7) t (v.opB x 1 t))))

def execV2u (k n : Nat) (w : BitVec 56) (s : State) : Host.Outcome State Fault Refusal :=
  let x := iword 0x61 w
  s.runPure k n .valu fun v =>
    v.legal x (onlyUses x (fbits 49 44 ||| fbits 43 37 ||| fbits 5 0)) <|
    .ok (if v.effective x = 0 then v else v.setUr (fVd x) (v.vr (fVa x) (fImm32 x)))

/-- Format P's predicates. -/
def fPa (w : Nat) : Nat := bits w 47 45
def fPPd (w : Nat) : Nat := bits w 50 48

def execPlop (k n : Nat) (w : BitVec 56) (s : State) : Host.Outcome State Fault Refusal :=
  let x := iword 0x63 w
  s.runPure k n .valu fun v =>
    v.legal x (onlyUses x (fbits 50 48 ||| fbits 47 45 ||| fbits 44 42 ||| fbits 41 39 ||| fbits 38 31)) <|
    let bit (t : Nat) : Bool :=
      bitAt (bits x 38 31) (4 * b2n ((v.pr (fPa x)).getLsbD t) + 2 * b2n ((v.pr (bits x 44 42)).getLsbD t) +
        b2n ((v.pr (bits x 41 39)).getLsbD t))
    let e := v.effective x
    .ok (v.setPrIn (fPPd x) e (maskOf ((lanesOf e).filter bit)))

/-- VOTE: one truth value written in every lane of the effective set. -/
def runVote (op : Nat) (g : Word → Word → Bool) (k n : Nat) (w : BitVec 56) (s : State) :
    Host.Outcome State Fault Refusal :=
  let x := iword op w
  s.runPure k n .valu fun v =>
    v.legal x (onlyUses x (fbits 50 48 ||| fbits 47 45)) <|
    let e := v.effective x
    .ok (v.setPrIn (fPPd x) e (if g e (v.pr (fPa x)) then e else 0))

def execVoteAny (k n : Nat) (w : BitVec 56) (s : State) := runVote 0x64 (fun e p => e &&& p != 0) k n w s
def execVoteAll (k n : Nat) (w : BitVec 56) (s : State) := runVote 0x65 (fun e p => e &&& p == e) k n w s

def execBallot (k n : Nat) (w : BitVec 56) (s : State) : Host.Outcome State Fault Refusal :=
  let x := iword 0x66 w
  s.runPure k n .valu fun v =>
    v.legal x (onlyUses x (fbits 47 45 ||| fbits 30 25)) <|
    .ok (v.setUr (bits x 30 25) (v.effective x &&& v.pr (fPa x)).toNat)

/-! ### Special registers -/

/-- R107: the registers of thread scope. -/
def srThread (r : Nat) : Bool := r == 0 || (2 ≤ r && r ≤ 4)

/-- R76, R77: a special register's value in lane `t`; a uniform one has one value. -/
def srValue (time : Nat) (v : Convoy) (x : WG) (r t : Nat) : Nat :=
  let l := x.launch
  let i := v.index * 64 + t
  let (nx, ny, nz) := l.wg
  match r with
  | 0 => t
  | 1 => v.index
  | 2 => i % nx
  | 3 => i / nx % ny
  | 4 => i / nx / ny
  | 5 => nx
  | 6 => ny
  | 7 => nz
  | 8 => x.coord.1
  | 9 => x.coord.2.1
  | 10 => x.coord.2.2
  | 11 => l.grid.1
  | 12 => l.grid.2.1
  | 13 => l.grid.2.2
  | 14 => l.ctxTag
  | 15 => l.layer
  | 16 => l.op
  | 17 => v.active.toNat
  | 18 => v.live.toNat
  | 19 => match v.trap with | some r => r.cause | none => 0
  | 20 => match v.trap with | some r => r.pc.toNat | none => 0
  | 21 => match v.trap with | some r => r.lanes.toNat | none => 0
  | _ => time

def execSrv (k n : Nat) (w : BitVec 56) (s : State) : Host.Outcome State Fault Refusal :=
  let x := iword 0x67 w
  s.runIssue k n .uniform fun d v =>
    v.legal x (onlyUses x (fbits 50 44 ||| fbits 7 0) && bits x 7 0 ≤ 0x16) <|
    raising (groupCauses v x (fVd x) 1 true) <|
    d.retire k n (v.eachLane x fun t a => a.setVr (fVd x) t (srValue d.time v (d.convoyWg k v) (bits x 7 0) t))

def execSru (k n : Nat) (w : BitVec 56) (s : State) : Host.Outcome State Fault Refusal :=
  let x := iword 0x68 w
  s.runIssue k n .uniform fun d v =>
    v.legal x (noGuard x && onlyUses x (fbits 50 45 ||| fbits 7 0) && bits x 7 0 ≤ 0x16 && !srThread (bits x 7 0)) <|
    d.retire k n (v.setUr (fUd x) (srValue d.time v (d.convoyWg k v) (bits x 7 0) 0))

end Sys2Proof.Machine
end

