-- ==== Sys2Proof/Machine/Uniform.lean ====
section
/-! DEFINITION. The uniform instructions (R124). -/

namespace Sys2Proof.Machine

/-- R113: the second operand of format U. -/
def Convoy.uniB (v : Convoy) (w : Nat) : Nat := if fIsel w then (sext64 32 (fImm32 w)).toNat else v.ur (fUb w)

/-- A uniform operation on 64-bit values; with isel at 1 ub must be zero (R113). -/
def runUni (op : Nat) (f : Nat → Nat → Nat) (k n : Nat) (w : BitVec 56) (s : State) : Host.Outcome State Fault Refusal :=
  let x := iword op w
  s.runPure k n .uniform fun v =>
    v.legal x (noGuard x && (!fIsel x || fUb x == 0)) <| .ok (v.setUr (fUd x) (f (v.ur (fUa x)) (v.uniB x)))

def execUadd (k n : Nat) (w : BitVec 56) (s : State) := runUni 0x70 (intAdd 3) k n w s
def execUsub (k n : Nat) (w : BitVec 56) (s : State) := runUni 0x71 (intSub 3) k n w s
def execUmul (k n : Nat) (w : BitVec 56) (s : State) := runUni 0x72 (intMul 3) k n w s
def execUand (k n : Nat) (w : BitVec 56) (s : State) := runUni 0x73 (fun a b => a &&& b) k n w s
def execUor (k n : Nat) (w : BitVec 56) (s : State) := runUni 0x74 (fun a b => a ||| b) k n w s
def execUxor (k n : Nat) (w : BitVec 56) (s : State) := runUni 0x75 (fun a b => a ^^^ b) k n w s
def execUshl (k n : Nat) (w : BitVec 56) (s : State) := runUni 0x76 (shiftL 64) k n w s
def execUshr (k n : Nat) (w : BitVec 56) (s : State) := runUni 0x77 (shiftR 64) k n w s
def execUsar (k n : Nat) (w : BitVec 56) (s : State) := runUni 0x78 (shiftSar 64) k n w s
/-- R124: ud takes the sign-extended imm32. -/
def execUli (k n : Nat) (w : BitVec 56) (s : State) : Host.Outcome State Fault Refusal :=
  let x := iword 0x79 w
  s.runPure k n .uniform fun v =>
    v.legal x (noGuard x && fIsel x && fUa x == 0 && fUb x == 0) <| .ok (v.setUr (fUd x) (sext64 32 (fImm32 x)).toNat)
/-- R124: ud[63:32] takes imm32. -/
def execUlih (k n : Nat) (w : BitVec 56) (s : State) : Host.Outcome State Fault Refusal :=
  let x := iword 0x7a w
  s.runPure k n .uniform fun v =>
    v.legal x (noGuard x && fIsel x && fUa x == 0 && fUb x == 0) <|
    .ok (v.setUr (fUd x) (fImm32 x * 2 ^ 32 + v.ur (fUd x) % 2 ^ 32))

end Sys2Proof.Machine
end

