-- ==== Sys2Proof/Machine/Wardens.lean ====
section
/-! DEFINITION. The warden pair and the always-on sequencer's watch over it (R37, R542 to R544). Warden 0 is the west one. -/

namespace Sys2Proof.Machine

/-- Do the wardens run their firmware: from the 90 ms row of R62 on, outside the hard shoulder, and with their clock (R591). -/
def Dev.wardensRun (d : Dev) : Bool := d.alive && d.sys.phase != .firmware && d.sys.refclk

/-- The field that tells a warden failed. -/
def wdnField (w : Nat) : Fld := if w = 0 then F.WDN_STATUS_west_failed else F.WDN_STATUS_east_failed
def Dev.wdnFailed (d : Dev) (w : Nat) : Bool := d.flag (wdnField w) 0

/-- R37: the west warden drives the flash unless it has failed. -/
def Dev.setWdn (d : Dev) (w : Nat) (failed : Bool) : Dev :=
  let d := d.setFld (wdnField w) 0 (b2n failed)
  d.setFld F.WDN_STATUS_lead 0 (b2n (d.wdnFailed 0))

def Dev.missedOf (d : Dev) (w : Nat) : Nat := NMap.getD d.sys.missed w 0
def Dev.setMissed (d : Dev) (w n : Nat) : Dev := { d with sys := { d.sys with missed := NMap.insert d.sys.missed w n } }

/-- A record of a warden event. -/
def Dev.wdnEvent (d : Dev) (w : Nat) : Dev := d.err { class_ := 6, source := some 11, unit := w }

/-- R542: a heartbeat, from which the other warden's lateness is counted. -/
def Dev.heartbeat (d : Dev) (w : Nat) : Dev :=
  if !d.wardensRun || d.wdnFailed w then d
  else (d.setMissed w 0).setMissed (1 - w) (min 3 (d.missedOf (1 - w) + 1))

/-- The reloads of a warden within the last hour (R542). -/
def Dev.reloadsOf (d : Dev) (w : Nat) : List Nat :=
  (NMap.getD d.sys.reloads w []).filter fun t => d.time < t + 3600 * 10 ^ 9

/-- R542: a warden fails: its lockstep pair mismatches, or it has missed three heartbeats. The survivor takes its duties; one
that three reloads within the hour have not mended stays failed. R544: with the other failed already, the sequencer acts. -/
def Dev.wardenFail (d : Dev) (w : Nat) (mismatch : Bool) : Dev :=
  if !d.wardensRun || d.wdnFailed w || !(mismatch || d.missedOf w ≥ 3) then d
  else if d.wdnFailed (1 - w) then d.enterShoulder 0x20
  else
    let d := ((d.setWdn w true).setMissed w 0).wdnEvent w
    if (d.reloadsOf w).length ≥ 3 then { d with sys := { d.sys with wdnOut := insSorted w d.sys.wdnOut } } else d

/-- R542: a reload begins, at most three times within an hour. -/
def Dev.wardenReload (d : Dev) (w : Nat) : Dev :=
  if !d.wardensRun || !d.wdnFailed w || d.sys.wdnOut.contains w || d.sys.wdnLoading.contains w || (d.reloadsOf w).length ≥ 3 then d
  else
    { d with sys := { d.sys with
        wdnLoading := insSorted w d.sys.wdnLoading
        reloads := NMap.insert d.sys.reloads w (d.reloadsOf w ++ [d.time]) } }

/-- R543: a reloaded warden takes its duties back. -/
def Dev.wardenRejoin (d : Dev) (w : Nat) : Dev :=
  if !d.wardensRun || !d.sys.wdnLoading.contains w then d
  else
    let d := (({ d with sys := { d.sys with wdnLoading := d.sys.wdnLoading.erase w } } : Dev).setWdn w false).setMissed w 0
    (d.tally F.WDN_STATUS_restarts 0).wdnEvent w

def wardenOk (w : Nat) : Bool := w < 2

def execHeartbeat (w : Nat) (s : State) : Host.Outcome State Fault Refusal := s.runOn (wardenOk w) (·.heartbeat w)
def execWardenFailed (w : Nat) (mismatch : Bool) (s : State) : Host.Outcome State Fault Refusal :=
  s.runOn (wardenOk w) (·.wardenFail w mismatch)
def execWardenReload (w : Nat) (s : State) : Host.Outcome State Fault Refusal := s.runOn (wardenOk w) (·.wardenReload w)
def execWardenRejoin (w : Nat) (s : State) : Host.Outcome State Fault Refusal := s.runOn (wardenOk w) (·.wardenRejoin w)

/-- R544: no heartbeat from either warden for 3 ms, as after the reference clock stops (R591). -/
def execSequencerForcedShoulder (s : State) : Host.Outcome State Fault Refusal :=
  s.runOn true fun d => if d.alive && d.sys.phase != .firmware then d.enterShoulder 0x20 else d

end Sys2Proof.Machine
end

