-- ==== Sys2Proof/Machine/Dispatch.lean ====
section
/-! DEFINITION. The commands to their meanings, one arm per constructor. -/

namespace Sys2Proof.Machine

def exec (i : Instr) (s : State) : Host.Outcome State Fault Refusal :=
  match i with
  | .resetNRelease hot => Sys2Proof.Machine.execResetNRelease hot s
  | .resetNAssert => Sys2Proof.Machine.execResetNAssert s
  | .pgInFall => Sys2Proof.Machine.execPgInFall s
  | .refclkLoss => Sys2Proof.Machine.execRefclkLoss s
  | .perstAssert p => Sys2Proof.Machine.execPerstAssert p s
  | .firmwareVerified okA okB okStaged => Sys2Proof.Machine.execFirmwareVerified okA okB okStaged s
  | .selfTestComplete f => Sys2Proof.Machine.execSelfTestComplete f s
  | .bookLoaded => Sys2Proof.Machine.execBookLoaded s
  | .lpddrTrainingComplete ms => Sys2Proof.Machine.execLpddrTrainingComplete ms s
  | .status tag => Sys2Proof.Machine.execStatus tag s
  | .readLog tag => Sys2Proof.Machine.execReadLog tag s
  | .writeFlash tag => Sys2Proof.Machine.execWriteFlash tag s
  | .stageBook tag => Sys2Proof.Machine.execStageBook tag s
  | .loadWardenFw tag => Sys2Proof.Machine.execLoadWardenFw tag s
  | .restart tag => Sys2Proof.Machine.execRestart tag s
  | .clearCause tag => Sys2Proof.Machine.execClearCause tag s
  | .enterShoulder tag => Sys2Proof.Machine.execEnterShoulder tag s
  | .fuseKey tag => Sys2Proof.Machine.execFuseKey tag s
  | .revokeKey tag => Sys2Proof.Machine.execRevokeKey tag s
  | .smbusWrite off bs => Sys2Proof.Machine.execSmbusWrite off bs s
  | .smbusRead n => Sys2Proof.Machine.execSmbusRead n s
  | .uartWrite off bs crc => Sys2Proof.Machine.execUartWrite off bs crc s
  | .uartRead off n crc => Sys2Proof.Machine.execUartRead off n crc s
  | .uartTimeout => Sys2Proof.Machine.execUartTimeout s
  | .amendmentSubmit => Sys2Proof.Machine.execAmendmentSubmit s
  | .amendmentDrainComplete lanes => Sys2Proof.Machine.execAmendmentDrainComplete lanes s
  | .amendmentDrainTimeout => Sys2Proof.Machine.execAmendmentDrainTimeout s
  | .registerWrite src space off n v wfi lanes => Sys2Proof.Machine.execRegisterWrite src space off n v wfi lanes s
  | .iadd k n w => Sys2Proof.Machine.execIadd k n w s
  | .isub k n w => Sys2Proof.Machine.execIsub k n w s
  | .imul k n w => Sys2Proof.Machine.execImul k n w s
  | .imulhi k n w => Sys2Proof.Machine.execImulhi k n w s
  | .imad k n w => Sys2Proof.Machine.execImad k n w s
  | .imin k n w => Sys2Proof.Machine.execImin k n w s
  | .imax k n w => Sys2Proof.Machine.execImax k n w s
  | .iabs k n w => Sys2Proof.Machine.execIabs k n w s
  | .and k n w => Sys2Proof.Machine.execAnd k n w s
  | .or k n w => Sys2Proof.Machine.execOr k n w s
  | .xor k n w => Sys2Proof.Machine.execXor k n w s
  | .not k n w => Sys2Proof.Machine.execNot k n w s
  | .shl k n w => Sys2Proof.Machine.execShl k n w s
  | .shr k n w => Sys2Proof.Machine.execShr k n w s
  | .sar k n w => Sys2Proof.Machine.execSar k n w s
  | .popc k n w => Sys2Proof.Machine.execPopc k n w s
  | .clz k n w => Sys2Proof.Machine.execClz k n w s
  | .brev k n w => Sys2Proof.Machine.execBrev k n w s
  | .bfe k n w => Sys2Proof.Machine.execBfe k n w s
  | .bfi k n w => Sys2Proof.Machine.execBfi k n w s
  | .isetp k n w => Sys2Proof.Machine.execIsetp k n w s
  | .sel k n w => Sys2Proof.Machine.execSel k n w s
  | .mov k n w => Sys2Proof.Machine.execMov k n w s
  | .movi k n w => Sys2Proof.Machine.execMovi k n w s
  | .iaddi k n w => Sys2Proof.Machine.execIaddi k n w s
  | .imuli k n w => Sys2Proof.Machine.execImuli k n w s
  | .andi k n w => Sys2Proof.Machine.execAndi k n w s
  | .ori k n w => Sys2Proof.Machine.execOri k n w s
  | .xori k n w => Sys2Proof.Machine.execXori k n w s
  | .shli k n w => Sys2Proof.Machine.execShli k n w s
  | .shri k n w => Sys2Proof.Machine.execShri k n w s
  | .fadd k n w => Sys2Proof.Machine.execFadd k n w s
  | .fmul k n w => Sys2Proof.Machine.execFmul k n w s
  | .ffma k n w => Sys2Proof.Machine.execFfma k n w s
  | .fmin k n w => Sys2Proof.Machine.execFmin k n w s
  | .fmax k n w => Sys2Proof.Machine.execFmax k n w s
  | .fsetp k n w => Sys2Proof.Machine.execFsetp k n w s
  | .fclass k n w => Sys2Proof.Machine.execFclass k n w s
  | .fabs k n w => Sys2Proof.Machine.execFabs k n w s
  | .faddi k n w => Sys2Proof.Machine.execFaddi k n w s
  | .fmuli k n w => Sys2Proof.Machine.execFmuli k n w s
  | .frnd k n w => Sys2Proof.Machine.execFrnd k n w s
  | .frcp k n w => Sys2Proof.Machine.execFrcp k n w s
  | .frsq k n w => Sys2Proof.Machine.execFrsq k n w s
  | .fsqrt k n w => Sys2Proof.Machine.execFsqrt k n w s
  | .fex2 k n w => Sys2Proof.Machine.execFex2 k n w s
  | .flg2 k n w => Sys2Proof.Machine.execFlg2 k n w s
  | .fsin k n w => Sys2Proof.Machine.execFsin k n w s
  | .fcos k n w => Sys2Proof.Machine.execFcos k n w s
  | .idivs k n w => Sys2Proof.Machine.execIdivs k n w s
  | .cvt k n w => Sys2Proof.Machine.execCvt k n w s
  | .cvtn k n w => Sys2Proof.Machine.execCvtn k n w s
  | .cvtw k n w => Sys2Proof.Machine.execCvtw k n w s
  | .shfl k n w => Sys2Proof.Machine.execShfl k n w s
  | .v2u k n w => Sys2Proof.Machine.execV2u k n w s
  | .plop k n w => Sys2Proof.Machine.execPlop k n w s
  | .voteAny k n w => Sys2Proof.Machine.execVoteAny k n w s
  | .voteAll k n w => Sys2Proof.Machine.execVoteAll k n w s
  | .ballot k n w => Sys2Proof.Machine.execBallot k n w s
  | .srv k n w => Sys2Proof.Machine.execSrv k n w s
  | .sru k n w => Sys2Proof.Machine.execSru k n w s
  | .uadd k n w => Sys2Proof.Machine.execUadd k n w s
  | .usub k n w => Sys2Proof.Machine.execUsub k n w s
  | .umul k n w => Sys2Proof.Machine.execUmul k n w s
  | .uand k n w => Sys2Proof.Machine.execUand k n w s
  | .uor k n w => Sys2Proof.Machine.execUor k n w s
  | .uxor k n w => Sys2Proof.Machine.execUxor k n w s
  | .ushl k n w => Sys2Proof.Machine.execUshl k n w s
  | .ushr k n w => Sys2Proof.Machine.execUshr k n w s
  | .usar k n w => Sys2Proof.Machine.execUsar k n w s
  | .uli k n w => Sys2Proof.Machine.execUli k n w s
  | .ulih k n w => Sys2Proof.Machine.execUlih k n w s
  | .nop k n w => Sys2Proof.Machine.execNop k n w s
  | .bra k n w => Sys2Proof.Machine.execBra k n w s
  | .brx k n w => Sys2Proof.Machine.execBrx k n w s
  | .call k n w => Sys2Proof.Machine.execCall k n w s
  | .callx k n w => Sys2Proof.Machine.execCallx k n w s
  | .ret k n w => Sys2Proof.Machine.execRet k n w s
  | .jsplit k n w => Sys2Proof.Machine.execJsplit k n w s
  | .jct k n w => Sys2Proof.Machine.execJct k n w s
  | .jpush k n w => Sys2Proof.Machine.execJpush k n w s
  | .jbrk k n w => Sys2Proof.Machine.execJbrk k n w s
  | .exit k n w => Sys2Proof.Machine.execExit k n w s
  | .jspill k n w => Sys2Proof.Machine.execJspill k n w s
  | .jfill k n w => Sys2Proof.Machine.execJfill k n w s
  | .bar k n w => Sys2Proof.Machine.execBar k n w s
  | .barF k n w => Sys2Proof.Machine.execBarF k n w s
  | .trap k n w => Sys2Proof.Machine.execTrap k n w s
  | .tret k n w => Sys2Proof.Machine.execTret k n w s
  | .bkpt k n w => Sys2Proof.Machine.execBkpt k n w s
  | .layby k n w => Sys2Proof.Machine.execLayby k n w s
  | .ld k n w => Sys2Proof.Machine.execLd k n w s
  | .st k n w => Sys2Proof.Machine.execSt k n w s
  | .prf k n w => Sys2Proof.Machine.execPrf k n w s
  | .movd k n w => Sys2Proof.Machine.execMovd k n w s
  | .atomAdd k n w => Sys2Proof.Machine.execAtomAdd k n w s
  | .atomMin k n w => Sys2Proof.Machine.execAtomMin k n w s
  | .atomMax k n w => Sys2Proof.Machine.execAtomMax k n w s
  | .atomAnd k n w => Sys2Proof.Machine.execAtomAnd k n w s
  | .atomOr k n w => Sys2Proof.Machine.execAtomOr k n w s
  | .atomXor k n w => Sys2Proof.Machine.execAtomXor k n w s
  | .atomExch k n w => Sys2Proof.Machine.execAtomExch k n w s
  | .atomCas k n w => Sys2Proof.Machine.execAtomCas k n w s
  | .atomFadd k n w => Sys2Proof.Machine.execAtomFadd k n w s
  | .xadd k n w => Sys2Proof.Machine.execXadd k n w s
  | .xrd k n w => Sys2Proof.Machine.execXrd k n w s
  | .xclr k n w => Sys2Proof.Machine.execXclr k n w s
  | .ldr k n w => Sys2Proof.Machine.execLdr k n w s
  | .stc k n w => Sys2Proof.Machine.execStc k n w s
  | .fence k n w => Sys2Proof.Machine.execFence k n w s
  | .msAdd k n w => Sys2Proof.Machine.execMsAdd k n w s
  | .msSet k n w => Sys2Proof.Machine.execMsSet k n w s
  | .msWaitge k n w => Sys2Proof.Machine.execMsWaitge k n w s
  | .msWaiteq k n w => Sys2Proof.Machine.execMsWaiteq k n w s
  | .msTest k n w => Sys2Proof.Machine.execMsTest k n w s
  | .stage k n w => Sys2Proof.Machine.execStage k n w s
  | .stageComplete k => Sys2Proof.Machine.execStageComplete k s
  | .mma k n w => Sys2Proof.Machine.execMma k n w s
  | .mmaComplete k dist => Sys2Proof.Machine.execMmaComplete k dist s
  | .mmaReplay k => Sys2Proof.Machine.execMmaReplay k s
  | .replayComplete k dist => Sys2Proof.Machine.execReplayComplete k dist s
  | .diversion k n => Sys2Proof.Machine.execDiversion k n s
  | .trd k n w => Sys2Proof.Machine.execTrd k n w s
  | .twr k n w => Sys2Proof.Machine.execTwr k n w s
  | .tzero k n w => Sys2Proof.Machine.execTzero k n w s
  | .tstat k n w => Sys2Proof.Machine.execTstat k n w s
  | .workgroupPlacement k => Sys2Proof.Machine.execWorkgroupPlacement k s
  | .cvyDbgHalt k slots => Sys2Proof.Machine.execCvyDbgHalt k slots s
  | .convoyHalted k n => Sys2Proof.Machine.execConvoyHalted k n s
  | .cvyDbgResume k slots => Sys2Proof.Machine.execCvyDbgResume k slots s
  | .cvyDbgStep k slots => Sys2Proof.Machine.execCvyDbgStep k slots s
  | .cvyRegRead k sel => Sys2Proof.Machine.execCvyRegRead k sel s
  | .cvyRegWrite k sel => Sys2Proof.Machine.execCvyRegWrite k sel s
  | .cvyMaskWrite k n which x => Sys2Proof.Machine.execCvyMaskWrite k n which x s
  | .cvyBarRelease k w m => Sys2Proof.Machine.execCvyBarRelease k w m s
  | .descriptorAccept m id => Sys2Proof.Machine.execDescriptorAccept m id s
  | .copy m id => Sys2Proof.Machine.execCopy m id s
  | .transpose m id => Sys2Proof.Machine.execTranspose m id s
  | .window m id => Sys2Proof.Machine.execWindow m id s
  | .gather m id => Sys2Proof.Machine.execGather m id s
  | .scatter m id => Sys2Proof.Machine.execScatter m id s
  | .fill m id => Sys2Proof.Machine.execFill m id s
  | .descriptorComplete m id => Sys2Proof.Machine.execDescriptorComplete m id s
  | .cvuGo u => Sys2Proof.Machine.execCvuGo u s
  | .cvuSuspend u => Sys2Proof.Machine.execCvuSuspend u s
  | .cvuAbort u => Sys2Proof.Machine.execCvuAbort u s
  | .cvuStop u n => Sys2Proof.Machine.execCvuStop u n s
  | .cvuScanDone u => Sys2Proof.Machine.execCvuScanDone u s
  | .cvuScanFault u => Sys2Proof.Machine.execCvuScanFault u s
  | .refresh v lost => Sys2Proof.Machine.execRefresh v lost s
  | .patrolScrub v line => Sys2Proof.Machine.execPatrolScrub v line s
  | .rowClose v bank => Sys2Proof.Machine.execRowClose v bank s
  | .getS a l key => Sys2Proof.Machine.execGetS a l key s
  | .getM a l key => Sys2Proof.Machine.execGetM a l key s
  | .upgrade a l key => Sys2Proof.Machine.execUpgrade a l key s
  | .notify a l => Sys2Proof.Machine.execNotify a l s
  | .writeBack a l => Sys2Proof.Machine.execWriteBack a l s
  | .forwardedRead l => Sys2Proof.Machine.execForwardedRead l s
  | .forwardedExclusiveRead l => Sys2Proof.Machine.execForwardedExclusiveRead l s
  | .invalidate l a => Sys2Proof.Machine.execInvalidate l a s
  | .acknowledgement l a => Sys2Proof.Machine.execAcknowledgement l a s
  | .snoopRead a l key => Sys2Proof.Machine.execSnoopRead a l key s
  | .invalidatingWrite a l key v => Sys2Proof.Machine.execInvalidatingWrite a l key v s
  | .forwardedSnoopRead l => Sys2Proof.Machine.execForwardedSnoopRead l s
  | .storeTrackerTimeout k t => Sys2Proof.Machine.execStoreTrackerTimeout k t s
  | .combiningIdleDrain k l => Sys2Proof.Machine.execCombiningIdleDrain k l s
  | .l2Prefetch c l key => Sys2Proof.Machine.execL2Prefetch c l key s
  | .l2Flush c => Sys2Proof.Machine.execL2Flush c s
  | .l2FlushComplete c => Sys2Proof.Machine.execL2FlushComplete c s
  | .milestoneAdd g => Sys2Proof.Machine.execMilestoneAdd g s
  | .milestoneSet g => Sys2Proof.Machine.execMilestoneSet g s
  | .milestoneTest a h => Sys2Proof.Machine.execMilestoneTest a h s
  | .waitRegistration r => Sys2Proof.Machine.execWaitRegistration r s
  | .waitSatisfied r => Sys2Proof.Machine.execWaitSatisfied r s
  | .waitPoll r => Sys2Proof.Machine.execWaitPoll r s
  | .coreGate k => Sys2Proof.Machine.execCoreGate k s
  | .creditReclaim k => Sys2Proof.Machine.execCreditReclaim k s
  | .watchdogHang r => Sys2Proof.Machine.execWatchdogHang r s
  | .msOpTest => Sys2Proof.Machine.execMsOpTest s
  | .msOpAdd => Sys2Proof.Machine.execMsOpAdd s
  | .msOpSet => Sys2Proof.Machine.execMsOpSet s
  | .msForceWake cluster slot n => Sys2Proof.Machine.execMsForceWake cluster slot n s
  | .responseTailWrite p tail => Sys2Proof.Machine.execResponseTailWrite p tail s
  | .map p => Sys2Proof.Machine.execMap p s
  | .retry p => Sys2Proof.Machine.execRetry p s
  | .unresolvable p => Sys2Proof.Machine.execUnresolvable p s
  | .decline p => Sys2Proof.Machine.execDecline p s
  | .pushVa p => Sys2Proof.Machine.execPushVa p s
  | .requestTimeout p tag => Sys2Proof.Machine.execRequestTimeout p tag s
  | .invalidationRange asid count => Sys2Proof.Machine.execInvalidationRange asid count s
  | .invalidationContext asid => Sys2Proof.Machine.execInvalidationContext asid s
  | .invalidationDevice => Sys2Proof.Machine.execInvalidationDevice s
  | .invalidationComplete => Sys2Proof.Machine.execInvalidationComplete s
  | .clearFault a => Sys2Proof.Machine.execClearFault a s
  | .kekLoad => Sys2Proof.Machine.execKekLoad s
  | .keyLoad slot => Sys2Proof.Machine.execKeyLoad slot s
  | .keyErase slot => Sys2Proof.Machine.execKeyErase slot s
  | .keyOpComplete => Sys2Proof.Machine.execKeyOpComplete s
  | .doorbell a q tail => Sys2Proof.Machine.execDoorbell a q tail s
  | .commandFetch a q => Sys2Proof.Machine.execCommandFetch a q s
  | .nopCommand a q => Sys2Proof.Machine.execNopCommand a q s
  | .launch a q => Sys2Proof.Machine.execLaunch a q s
  | .move a q => Sys2Proof.Machine.execMove a q s
  | .fenceCommand a q => Sys2Proof.Machine.execFenceCommand a q s
  | .commandCompletion a q seq => Sys2Proof.Machine.execCommandCompletion a q seq s
  | .eventTailWrite a q tail => Sys2Proof.Machine.execEventTailWrite a q tail s
  | .queueEnable a q => Sys2Proof.Machine.execQueueEnable a q s
  | .queueDisable a q => Sys2Proof.Machine.execQueueDisable a q s
  | .queueResume a q => Sys2Proof.Machine.execQueueResume a q s
  | .queueReset a q => Sys2Proof.Machine.execQueueReset a q s
  | .cancel a q seq => Sys2Proof.Machine.execCancel a q seq s
  | .abort a q seq => Sys2Proof.Machine.execAbort a q seq s
  | .contextConfigWrite a v => Sys2Proof.Machine.execContextConfigWrite a v s
  | .selfStart m => Sys2Proof.Machine.execSelfStart m s
  | .bar4Read port off n => Sys2Proof.Machine.execBar4Read port off n s
  | .bar4Write port off bs => Sys2Proof.Machine.execBar4Write port off bs s
  | .atomicop port off op n x y => Sys2Proof.Machine.execAtomicop port off op n x y s
  | .hostAccessFailure port bus => Sys2Proof.Machine.execHostAccessFailure port bus s
  | .sliceHandover p => Sys2Proof.Machine.execSliceHandover p s
  | .quantumExpiry p => Sys2Proof.Machine.execQuantumExpiry p s
  | .endNow p => Sys2Proof.Machine.execEndNow p s
  | .graceExpiry p => Sys2Proof.Machine.execGraceExpiry p s
  | .convoySave k n => Sys2Proof.Machine.execConvoySave k n s
  | .restore p x => Sys2Proof.Machine.execRestore p x s
  | .steal c x => Sys2Proof.Machine.execSteal c x s
  | .slowdownPeriod p active held floors => Sys2Proof.Machine.execSlowdownPeriod p active held floors s
  | .linkEnable k => Sys2Proof.Machine.execLinkEnable k s
  | .linkTrainingDone k bad => Sys2Proof.Machine.execLinkTrainingDone k bad s
  | .ident k node fabric link role digest credit0 credit1 => Sys2Proof.Machine.execIdent k node fabric link role digest credit0 credit1 s
  | .identRepeat k => Sys2Proof.Machine.execIdentRepeat k s
  | .data k f fec => Sys2Proof.Machine.execData k f fec s
  | .nak k f fec => Sys2Proof.Machine.execNak k f fec s
  | .nakResend k => Sys2Proof.Machine.execNakResend k s
  | .retrain k f fec => Sys2Proof.Machine.execRetrain k f fec s
  | .fastRetrain k => Sys2Proof.Machine.execFastRetrain k s
  | .fastRetrainComplete k lost => Sys2Proof.Machine.execFastRetrainComplete k lost s
  | .fullRetrain k => Sys2Proof.Machine.execFullRetrain k s
  | .linkDown k => Sys2Proof.Machine.execLinkDown k s
  | .linkRetry k => Sys2Proof.Machine.execLinkRetry k s
  | .putDoorbell k q tail => Sys2Proof.Machine.execPutDoorbell k q tail s
  | .put k q => Sys2Proof.Machine.execPut k q s
  | .signal k q => Sys2Proof.Machine.execSignal k q s
  | .padTimeout k => Sys2Proof.Machine.execPadTimeout k s
  | .putMessage k => Sys2Proof.Machine.execPutMessage k s
  | .signalMessage k => Sys2Proof.Machine.execSignalMessage k s
  | .entryComplete k q seq => Sys2Proof.Machine.execEntryComplete k q seq s
  | .ethDataFrame k f => Sys2Proof.Machine.execEthDataFrame k f s
  | .ethAck k f => Sys2Proof.Machine.execEthAck k f s
  | .ethNak k f => Sys2Proof.Machine.execEthNak k f s
  | .ethIdent k f => Sys2Proof.Machine.execEthIdent k f s
  | .ackTimer k x => Sys2Proof.Machine.execAckTimer k x s
  | .retransmitTimeout k x => Sys2Proof.Machine.execRetransmitTimeout k x s
  | .ethIdentRepeat k => Sys2Proof.Machine.execEthIdentRepeat k s
  | .pfcFrame k time => Sys2Proof.Machine.execPfcFrame k time s
  | .testGo k => Sys2Proof.Machine.execTestGo k s
  | .bitFlips k lane count => Sys2Proof.Machine.execBitFlips k lane count s
  | .crcInjection k count => Sys2Proof.Machine.execCrcInjection k count s
  | .withhold k count => Sys2Proof.Machine.execWithhold k count s
  | .delay k delay => Sys2Proof.Machine.execDelay k delay s
  | .captureGo k => Sys2Proof.Machine.execCaptureGo k s
  | .captureStop k => Sys2Proof.Machine.execCaptureStop k s
  | .retune mhz => Sys2Proof.Machine.execRetune mhz s
  | .retuneComplete => Sys2Proof.Machine.execRetuneComplete s
  | .powerMeasurement mw => Sys2Proof.Machine.execPowerMeasurement mw s
  | .creditArbiter p => Sys2Proof.Machine.execCreditArbiter p s
  | .sensorRead junctions harts layers => Sys2Proof.Machine.execSensorRead junctions harts layers s
  | .forcingStep => Sys2Proof.Machine.execForcingStep s
  | .marginCheck low => Sys2Proof.Machine.execMarginCheck low s
  | .c1Entry c => Sys2Proof.Machine.execC1Entry c s
  | .c2Entry c => Sys2Proof.Machine.execC2Entry c s
  | .c3Entry c => Sys2Proof.Machine.execC3Entry c s
  | .entryPhaseEnd dom => Sys2Proof.Machine.execEntryPhaseEnd dom s
  | .entryRefused dom => Sys2Proof.Machine.execEntryRefused dom s
  | .clusterWake c => Sys2Proof.Machine.execClusterWake c s
  | .exitComplete dom => Sys2Proof.Machine.execExitComplete dom s
  | .wakeTolWrite p us => Sys2Proof.Machine.execWakeTolWrite p us s
  | .vaultPowerDown v => Sys2Proof.Machine.execVaultPowerDown v s
  | .vaultSelfRefresh v => Sys2Proof.Machine.execVaultSelfRefresh v s
  | .vaultDeepPowerDown v => Sys2Proof.Machine.execVaultDeepPowerDown v s
  | .p2Entry => Sys2Proof.Machine.execP2Entry s
  | .p0Request => Sys2Proof.Machine.execP0Request s
  | .p4Request wfi => Sys2Proof.Machine.execP4Request wfi s
  | .p6Request => Sys2Proof.Machine.execP6Request s
  | .restoreStep => Sys2Proof.Machine.execRestoreStep s
  | .approveAtNextDrain n lanes => Sys2Proof.Machine.execApproveAtNextDrain n lanes s
  | .approveNow n lanes => Sys2Proof.Machine.execApproveNow n lanes s
  | .reject n => Sys2Proof.Machine.execReject n s
  | .heartbeat w => Sys2Proof.Machine.execHeartbeat w s
  | .wardenFailed w mismatch => Sys2Proof.Machine.execWardenFailed w mismatch s
  | .wardenReload w => Sys2Proof.Machine.execWardenReload w s
  | .wardenRejoin w => Sys2Proof.Machine.execWardenRejoin w s
  | .sequencerForcedShoulder => Sys2Proof.Machine.execSequencerForcedShoulder s
  | .counterAccumulate p active array valu mem => Sys2Proof.Machine.execCounterAccumulate p active array valu mem s
  | .freeze => Sys2Proof.Machine.execFreeze s
  | .freezeIn => Sys2Proof.Machine.execFreezeIn s
  | .freezeFlit k f fec => Sys2Proof.Machine.execFreezeFlit k f fec s
  | .thaw resume => Sys2Proof.Machine.execThaw resume s
  | .extest pins shift => Sys2Proof.Machine.execExtest pins shift s
  | .idcode => Sys2Proof.Machine.execIdcode s
  | .samplePreload pins shift => Sys2Proof.Machine.execSamplePreload pins shift s
  | .clamp => Sys2Proof.Machine.execClamp s
  | .highz => Sys2Proof.Machine.execHighz s
  | .bypass => Sys2Proof.Machine.execBypass s
  | .dbgAccessRead off wide => Sys2Proof.Machine.execDbgAccessRead off wide s
  | .dbgAccessWrite off wide v wfi lanes => Sys2Proof.Machine.execDbgAccessWrite off wide v wfi lanes s
  | .idleFlit k f fec => Sys2Proof.Machine.execIdleFlit k f fec s
  | .pgInHigh => Sys2Proof.Machine.execPgInHigh s
  | .perstDeassert p => Sys2Proof.Machine.execPerstDeassert p s
  | .hostPortTrained p width speed cxl => Sys2Proof.Machine.execHostPortTrained p width speed cxl s
  | .powerRemoval => Sys2Proof.Machine.execPowerRemoval s
  | .vddCoreExcursion => Sys2Proof.Machine.execVddCoreExcursion s
  | .causewayRowPortLoss r => Sys2Proof.Machine.execCausewayRowPortLoss r s
  | .shoulderDrainComplete lanes => Sys2Proof.Machine.execShoulderDrainComplete lanes s
  | .shoulderDrainLimit lanes => Sys2Proof.Machine.execShoulderDrainLimit lanes s
  | .flashWriteComplete mismatch => Sys2Proof.Machine.execFlashWriteComplete mismatch s
  | .trstNAssert => Sys2Proof.Machine.execTrstNAssert s
  | .prbsLock k l => Sys2Proof.Machine.execPrbsLock k l s
  | .prbsLockLoss k l errors => Sys2Proof.Machine.execPrbsLockLoss k l errors s
  | .injectionDelayEnd k => Sys2Proof.Machine.execInjectionDelayEnd k s
  | .ownershipHoldExpiry a l => Sys2Proof.Machine.execOwnershipHoldExpiry a l s
  | .pfcPauseExpiry k => Sys2Proof.Machine.execPfcPauseExpiry k s
  | .backInvalidateResponse l => Sys2Proof.Machine.execBackInvalidateResponse l s
  | .hostReadCompletion port bus bs => Sys2Proof.Machine.execHostReadCompletion port bus bs s
  | .illegalInstruction k n w => Sys2Proof.Machine.execIllegalInstruction k n w s

end Sys2Proof.Machine
end

