-- ==== Sys2Proof/Machine/Step.lean ====
section
/-! DEFINITION. One step of the block: the command at the front of the queue is run with the queue's rest; with no command
waiting the timestamp counts on (R30). -/

namespace Sys2Proof.Machine

/-- The queue replaced. -/
def State.setPending (s : State) (l : List Instr) : State := { s with pending := l }

/-- What the block does with no command waiting: its timestamp advances by one count (log entry 1). -/
def State.idle (s : State) : State := s.setDev s.dev.tick

/-- One step. -/
def step (s : State) : Host.Outcome State Fault Refusal :=
  match s.pending with
  | c :: rest => exec c (s.setPending rest)
  | [] => .next s.idle

/-- The command a table word spells put at the front of the queue. -/
def State.withFetchWord (s : State) (nbits w : Nat) : State :=
  match Sys2Proof.decodeTableWord nbits w with
  | some c => s.setPending (c :: s.pending)
  | none => s

end Sys2Proof.Machine
end

