-- ==== Sys2Proof/Safety.lean ====
section
/-! DEFINITION. The terms the statements use: when the device carries commands out, when a convoy issues, what a command
leaves alone, and the invariants that every step keeps. -/

namespace Sys2Proof.Machine

/-! ### The device between commands -/

/-- Nothing waits to be reported: no error record is unwritten, and no vault with a symbol at 64 corrections lacks its
proposal. Every command ends so (R288, R539). -/
def Dev.quiet (d : Dev) : Bool := d.errQ.isEmpty && d.vaults.all fun (_, s) => s.retrain || !s.over

/-- The device runs (R62, R516, R591) and nothing waits to be reported. -/
def State.live (s : State) : Bool := s.dev.awake && s.dev.quiet

/-- Outside an entry into P4 and outside P4, where a write through a BAR wakes nothing (R516). -/
def Dev.notP4 (d : Dev) : Bool :=
  (match NMap.find? d.pwr.entry pkgDomain with | some e => e.target != 2 | none => true) &&
    d.fld F.PWR_STATUS_pkg_state 0 != 2

/-- As `live`, with no package wake for a BAR write to begin. -/
def State.open_ (s : State) : Bool := s.live && s.dev.notP4

/-! ### A convoy that issues -/

/-- R80, R81, R178, R224: convoy `n` of core `k` is `v` and issues its next instruction now: it may issue, no MMA of it may
still divert, no array fault waits for it, its core is not gated and its cluster is in C0. -/
def State.ready (s : State) (k n : Nat) (v : Convoy) : Bool :=
  s.live && convoyOk k n && s.dev.convoy? k n == some v && v.canIssue && !s.dev.detourHold k n && !(s.dev.core k).gated &&
    s.dev.fld F.PWR_CLUSTER_STATUS_state (k / 8) == 0 && v.pendTrap.isNone

/-- R106, R75: a group of `n` registers from `r` that an instruction may read: aligned and within V0 to V127. -/
def groupReads (r n : Nat) : Bool := r % n == 0 && r + n ≤ 128

/-- One that it may write: within the declared count as well. -/
def Convoy.groupWrites (v : Convoy) (r n : Nat) : Bool := groupReads r n && r + n ≤ v.vRegs

/-- R102: a convoy being stepped halts once its instruction completes. -/
def Convoy.stepEnd (v : Convoy) : Convoy :=
  if v.stepping && v.state == .running && v.stall.isNone then
    { v with stepping := false, haltReq := false, state := .halted, resume := .running }
  else v

/-- The convoy an instruction leaves as `v`, gone on to the next word. -/
def Convoy.next (v : Convoy) : Convoy := { v with pc := v.pc + 8, stall := none }.stepEnd

/-- `u` is `v` after a per-lane result: register group `vd` of `n` registers holds `f l` in each lane `l` of the word's
effective set, and every other register and lane, and everything else of the convoy, is the same (R109). -/
def Convoy.laneResult (v u : Convoy) (x vd n : Nat) (f : Nat → Nat) : Prop :=
  { u with v := v.v } = v ∧
  (∀ l < 64, (v.effective x).getLsbD l = true → u.val n vd l = f l) ∧
  ∀ r l, l < 64 → (¬ (vd ≤ r ∧ r < vd + n) ∨ (v.effective x).getLsbD l = false) → u.vr r l = v.vr r l

/-- `u` is `v` with predicate `p` set lane by lane in the word's effective set, and nothing else changed. -/
def Convoy.predResult (v u : Convoy) (x p : Nat) (f : Nat → Bool) : Prop :=
  { u with p := v.p } = v ∧
  (∀ l < 64, (u.pr p).getLsbD l = if (v.effective x).getLsbD l then f l else (v.pr p).getLsbD l) ∧
  ∀ q, q ≠ p → u.pr q = v.pr q

/-- R112, R113, R75, R106: the word of a per-lane instruction of format V that raises nothing: its type is one of `types`,
no bit outside its fields is set, its second operand's form exists, and its register groups can be read and written. `used`
are further fields it has, and `m` the width of its result in registers. -/
def Convoy.vForm (v : Convoy) (x : Nat) (types : List Nat) (used : Nat) (useA useB useC : Bool) (m : Nat) : Bool :=
  let n := typeRegs (fType x)
  onlyUses x (used ||| fbits 17 14 ||| fbits 50 44 ||| (if useA then fbits 43 37 else 0) |||
    (if useB then fbits 36 30 ||| fbits 22 21 else 0) ||| (if useC then fbits 29 23 else 0)) &&
  types.contains (fType x) && (!useB || bselOk x) &&
  (!useA || groupReads (fVa x) n) && (!(useB && fBsel x = 0) || groupReads (fVb x) n) &&
  (!useC || groupReads (fVc x) n) && v.groupWrites (fVd x) m

/-- As `vForm`, for format I. -/
def Convoy.iForm (v : Convoy) (x : Nat) (types : List Nat) (useA : Bool) : Bool :=
  let n := typeRegs (fIType x)
  onlyUses x (fbits 50 44 ||| fbits 36 33 ||| fbits 31 0 ||| (if useA then fbits 43 37 else 0)) &&
  types.contains (fIType x) && (!useA || groupReads (fVa x) n) && v.groupWrites (fVd x) n

/-- As `vForm`, for a compare. -/
def cmpForm (x : Nat) (types : List Nat) (used : Nat) : Bool :=
  let n := typeRegs (fType x)
  onlyUses x (used ||| fbits 17 14 ||| fbits 43 37 ||| fbits 36 30 ||| fbits 22 21 ||| fbits 10 7 ||| fbits 6 4) &&
  types.contains (fType x) && bselOk x && groupReads (fVa x) n && (fBsel x != 0 || groupReads (fVb x) n)

/-- What is the same in two devices of which the second is the first after an instruction of convoy `n` of core `k` that
acts on the convoy alone: everything but that convoy, the programmable counters, which count its issue (R550), and the
tag. -/
def Dev.onlyConvoy (d e : Dev) (k n : Nat) : Prop :=
  { e with cores := d.cores, regs := d.regs, tag := d.tag } = d ∧
  (∀ r i, r ≠ .DBG_CORE_CNT → e.reg r i = d.reg r i) ∧
  (∀ j, j ≠ k → e.core j = d.core j) ∧
  (∀ m, m ≠ n → e.convoy? k m = d.convoy? k m) ∧
  { e.core k with convoys := (d.core k).convoys } = d.core k

/-- Instruction `i` of convoy `n` of core `k` completes and leaves the convoy as `u`: the next state differs in the convoy
alone. -/
def State.instrEnds (s : State) (i : Instr) (k n : Nat) (u : Convoy) : Prop :=
  ∃ t, exec i s = .next t ∧ t.fuses = s.fuses ∧ t.pending = s.pending ∧ s.dev.onlyConvoy t.dev k n ∧
    t.dev.convoy? k n = some u

/-- Command `i` completes with the device as `e` makes it, whose error records are then written out (R539). A device that
raised none stays as it is. -/
def State.ends (s : State) (i : Instr) (e : Dev) : Prop := exec i s = .next (s.setDev e.settle)

/-- R97, R98: convoy `v` as trap `c` at its instruction leaves it where a handler takes it: the trap recorded, the handler
entered with every lane that was active, reservations gone. -/
def Convoy.trapped (v : Convoy) (c : Nat) (lanes handler : Word) : Convoy :=
  { v with
    trap := some ⟨c, v.pc, lanes⟩, pendTrap := none, resv := [], stall := none, wait := none, pc := handler,
    inHandler := true, handlerMask := v.active, state := if v.stepping then .halted else .running, resume := .running,
    stepping := false }

/-- R98: a trap of the convoy goes to its launch's handler: there is one, the convoy is not in it, and the debugger does not
halt it instead. -/
def State.handles (s : State) (k : Nat) (v : Convoy) : Bool :=
  (s.dev.launchOf k v).trapHandler != 0 && !v.inHandler && !s.dev.flag F.CVY_DBG_CTRL_halt_on_trap k

/-- Instruction `i` raises cause `c` in `lanes`: the handler is entered, the trap registers of the slot hold the record, and
nothing else changes (R97, R98). -/
def State.instrTraps (s : State) (i : Instr) (k n : Nat) (v : Convoy) (c : Nat) (lanes : Word) : Prop :=
  ∃ t, exec i s = .next t ∧ t.fuses = s.fuses ∧ t.pending = s.pending ∧
    t.dev.convoy? k n = some (v.trapped c lanes (s.dev.launchOf k v).trapHandler) ∧
    t.dev.fld F.CVY_TRAP_INFO_valid (k * 16 + n) = 1 ∧ t.dev.fld F.CVY_TRAP_INFO_cause (k * 16 + n) = c ∧
    t.dev.reg .CVY_TRAP_LANES (k * 16 + n) = lanes.toNat ∧ t.dev.reg .CVY_TRAP_PC (k * 16 + n) = v.pc.toNat ∧
    { t.dev with cores := s.dev.cores, regs := s.dev.regs, tag := s.dev.tag } = s.dev ∧
    (∀ r j, r ≠ .DBG_CORE_CNT → ¬ (r ∈ [.CVY_TRAP_INFO, .CVY_TRAP_LANES, .CVY_TRAP_PC] ∧ j = k * 16 + n) →
      t.dev.reg r j = s.dev.reg r j) ∧
    (∀ j, j ≠ k → t.dev.core j = s.dev.core j) ∧ ∀ m, m ≠ n → t.dev.convoy? k m = s.dev.convoy? k m

/-- The convoy an instruction runs on: R137 takes its reservations for the memory and matrix pipes. -/
def Convoy.forPipe (v : Convoy) (pipe : Pipe) (keepResv : Bool) : Convoy :=
  if (pipe == .mem || pipe == .matrix) && !keepResv then { v with resv := [] } else v

/-- The device an instruction runs on: its issue counted, and the convoy as it runs. -/
def Dev.issued (d : Dev) (k n : Nat) (v v' : Convoy) : Dev :=
  (({ d with tag := some (d.launchOf k v).tag } : Dev).coreEvent k 1).setConvoy k n v'

/-- What is the same in two devices of which the second is the first after a command that writes the registers of a set. -/
def Dev.onlyRegs (d e : Dev) (rs : List Reg) : Prop :=
  { e with regs := d.regs } = d ∧ ∀ r i, r ∉ rs → e.reg r i = d.reg r i

/-- As `onlyRegs`, for the copies `i` of the registers of the set. -/
def Dev.onlyRegsAt (d e : Dev) (rs : List Reg) (i : Nat) : Prop :=
  { e with regs := d.regs } = d ∧ ∀ r j, ¬ (r ∈ rs ∧ j = i) → e.reg r j = d.reg r j

end Sys2Proof.Machine
end

