-- ==== Sys2Proof/WellFormed.lean ====
section
/-! DEFINITION. Which commands are well formed: those that name hardware that exists, with operands in their ranges. A meaning
runs on these alone. -/

namespace Sys2Proof

open Machine

/-- A command that the device can be given. -/
def Instr.wellFormed (i : Instr) : Bool :=
  match i with
  | .resetNRelease _ => true
  | .resetNAssert => true
  | .pgInFall => true
  | .refclkLoss => true
  | .perstAssert p => p < 2
  | .firmwareVerified _ _ _ => true
  | .selfTestComplete f => testOk f
  | .bookLoaded => true
  | .lpddrTrainingComplete ms => ms.length == 8 && ms.all fun x => x.shift < 3 && 1 ≤ x.ranks && x.ranks ≤ 2 && x.rate < 2 ^ 14
  | .status _ => true
  | .readLog _ => true
  | .writeFlash _ => true
  | .stageBook _ => true
  | .loadWardenFw _ => true
  | .restart _ => true
  | .clearCause _ => true
  | .enterShoulder _ => true
  | .fuseKey _ => true
  | .revokeKey _ => true
  | .smbusWrite off _ => off < 2 ^ 16
  | .smbusRead _ => true
  | .uartWrite off bs _ => off < 2 ^ 16 && 1 ≤ bs.length && bs.length ≤ 256
  | .uartRead off n _ => off < 2 ^ 16 && 1 ≤ n && n ≤ 256
  | .uartTimeout => true
  | .amendmentSubmit => true
  | .amendmentDrainComplete lanes => laneMapOk lanes
  | .amendmentDrainTimeout => true
  | .registerWrite src space off n _ wfi lanes => writeOk src space off n { wfi := wfi, lanes := lanes }
  | .iadd k n _ => convoyOk k n
  | .isub k n _ => convoyOk k n
  | .imul k n _ => convoyOk k n
  | .imulhi k n _ => convoyOk k n
  | .imad k n _ => convoyOk k n
  | .imin k n _ => convoyOk k n
  | .imax k n _ => convoyOk k n
  | .iabs k n _ => convoyOk k n
  | .and k n _ => convoyOk k n
  | .or k n _ => convoyOk k n
  | .xor k n _ => convoyOk k n
  | .not k n _ => convoyOk k n
  | .shl k n _ => convoyOk k n
  | .shr k n _ => convoyOk k n
  | .sar k n _ => convoyOk k n
  | .popc k n _ => convoyOk k n
  | .clz k n _ => convoyOk k n
  | .brev k n _ => convoyOk k n
  | .bfe k n _ => convoyOk k n
  | .bfi k n _ => convoyOk k n
  | .isetp k n _ => convoyOk k n
  | .sel k n _ => convoyOk k n
  | .mov k n _ => convoyOk k n
  | .movi k n _ => convoyOk k n
  | .iaddi k n _ => convoyOk k n
  | .imuli k n _ => convoyOk k n
  | .andi k n _ => convoyOk k n
  | .ori k n _ => convoyOk k n
  | .xori k n _ => convoyOk k n
  | .shli k n _ => convoyOk k n
  | .shri k n _ => convoyOk k n
  | .fadd k n _ => convoyOk k n
  | .fmul k n _ => convoyOk k n
  | .ffma k n _ => convoyOk k n
  | .fmin k n _ => convoyOk k n
  | .fmax k n _ => convoyOk k n
  | .fsetp k n _ => convoyOk k n
  | .fclass k n _ => convoyOk k n
  | .fabs k n _ => convoyOk k n
  | .faddi k n _ => convoyOk k n
  | .fmuli k n _ => convoyOk k n
  | .frnd k n _ => convoyOk k n
  | .frcp k n _ => convoyOk k n
  | .frsq k n _ => convoyOk k n
  | .fsqrt k n _ => convoyOk k n
  | .fex2 k n _ => convoyOk k n
  | .flg2 k n _ => convoyOk k n
  | .fsin k n _ => convoyOk k n
  | .fcos k n _ => convoyOk k n
  | .idivs k n _ => convoyOk k n
  | .cvt k n _ => convoyOk k n
  | .cvtn k n _ => convoyOk k n
  | .cvtw k n _ => convoyOk k n
  | .shfl k n _ => convoyOk k n
  | .v2u k n _ => convoyOk k n
  | .plop k n _ => convoyOk k n
  | .voteAny k n _ => convoyOk k n
  | .voteAll k n _ => convoyOk k n
  | .ballot k n _ => convoyOk k n
  | .srv k n _ => convoyOk k n
  | .sru k n _ => convoyOk k n
  | .uadd k n _ => convoyOk k n
  | .usub k n _ => convoyOk k n
  | .umul k n _ => convoyOk k n
  | .uand k n _ => convoyOk k n
  | .uor k n _ => convoyOk k n
  | .uxor k n _ => convoyOk k n
  | .ushl k n _ => convoyOk k n
  | .ushr k n _ => convoyOk k n
  | .usar k n _ => convoyOk k n
  | .uli k n _ => convoyOk k n
  | .ulih k n _ => convoyOk k n
  | .nop k n _ => convoyOk k n
  | .bra k n _ => convoyOk k n
  | .brx k n _ => convoyOk k n
  | .call k n _ => convoyOk k n
  | .callx k n _ => convoyOk k n
  | .ret k n _ => convoyOk k n
  | .jsplit k n _ => convoyOk k n
  | .jct k n _ => convoyOk k n
  | .jpush k n _ => convoyOk k n
  | .jbrk k n _ => convoyOk k n
  | .exit k n _ => convoyOk k n
  | .jspill k n _ => convoyOk k n
  | .jfill k n _ => convoyOk k n
  | .bar k n _ => convoyOk k n
  | .barF k n _ => convoyOk k n
  | .trap k n _ => convoyOk k n
  | .tret k n _ => convoyOk k n
  | .bkpt k n _ => convoyOk k n
  | .layby k n _ => convoyOk k n
  | .ld k n _ => convoyOk k n
  | .st k n _ => convoyOk k n
  | .prf k n _ => convoyOk k n
  | .movd k n _ => convoyOk k n
  | .atomAdd k n _ => convoyOk k n
  | .atomMin k n _ => convoyOk k n
  | .atomMax k n _ => convoyOk k n
  | .atomAnd k n _ => convoyOk k n
  | .atomOr k n _ => convoyOk k n
  | .atomXor k n _ => convoyOk k n
  | .atomExch k n _ => convoyOk k n
  | .atomCas k n _ => convoyOk k n
  | .atomFadd k n _ => convoyOk k n
  | .xadd k n _ => convoyOk k n
  | .xrd k n _ => convoyOk k n
  | .xclr k n _ => convoyOk k n
  | .ldr k n _ => convoyOk k n
  | .stc k n _ => convoyOk k n
  | .fence k n _ => convoyOk k n
  | .msAdd k n _ => convoyOk k n
  | .msSet k n _ => convoyOk k n
  | .msWaitge k n _ => convoyOk k n
  | .msWaiteq k n _ => convoyOk k n
  | .msTest k n _ => convoyOk k n
  | .stage k n _ => convoyOk k n
  | .stageComplete k => coreOk k
  | .mma k n _ => convoyOk k n
  | .mmaComplete k dist => coreOk k && disturbOk dist
  | .mmaReplay k => coreOk k
  | .replayComplete k dist => coreOk k && disturbOk dist
  | .diversion k n => convoyOk k n
  | .trd k n _ => convoyOk k n
  | .twr k n _ => convoyOk k n
  | .tzero k n _ => convoyOk k n
  | .tstat k n _ => convoyOk k n
  | .workgroupPlacement k => coreOk k
  | .cvyDbgHalt k _ => coreOk k
  | .convoyHalted k n => convoyOk k n
  | .cvyDbgResume k _ => coreOk k
  | .cvyDbgStep k _ => coreOk k
  | .cvyRegRead k _ => coreOk k
  | .cvyRegWrite k _ => coreOk k
  | .cvyMaskWrite k n which _ => convoyOk k n && which < 4
  | .cvyBarRelease k w _ => convoyOk k w
  | .descriptorAccept m _ => moverOk m
  | .copy m _ => moverOk m
  | .transpose m _ => moverOk m
  | .window m _ => moverOk m
  | .gather m _ => moverOk m
  | .scatter m _ => moverOk m
  | .fill m _ => moverOk m
  | .descriptorComplete m _ => moverOk m
  | .cvuGo u => cvuOk u
  | .cvuSuspend u => cvuOk u
  | .cvuAbort u => cvuOk u
  | .cvuStop u _ => cvuOk u
  | .cvuScanDone u => cvuOk u
  | .cvuScanFault u => cvuOk u
  | .refresh v lost => v < 200 && upsetsOk lost
  | .patrolScrub v line => v < 200 && line < 2 ^ 23
  | .rowClose v bank => v < 200 && bank < 64
  | .getS a l key => cachingOk a l key
  | .getM a l key => cachingOk a l key
  | .upgrade a l key => cachingOk a l key
  | .notify a l => cachingOk a l 0
  | .writeBack a l => cachingOk a l 0
  | .forwardedRead l => lineOk l
  | .forwardedExclusiveRead l => lineOk l
  | .invalidate l a => lineOk l && a < 224
  | .acknowledgement l a => lineOk l && a < 224
  | .snoopRead a l key => ioAgentOk a && lineOk l && key < 64
  | .invalidatingWrite a l key _ => ioAgentOk a && lineOk l && key < 64
  | .forwardedSnoopRead l => lineOk l
  | .storeTrackerTimeout k i => coreOk k && i < 4
  | .combiningIdleDrain k _ => coreOk k
  | .l2Prefetch c l key => c < 200 && lineOk l && key < 64
  | .l2Flush c => c < 200
  | .l2FlushComplete c => c < 200
  | .milestoneAdd _ => true
  | .milestoneSet _ => true
  | .milestoneTest _ h => handleOk h.toNat
  | .waitRegistration r => waitRefOk r
  | .waitSatisfied r => waitRefOk r
  | .waitPoll r => waitRefOk r
  | .coreGate k => coreOk k
  | .creditReclaim k => coreOk k
  | .watchdogHang r => hangRefOk r
  | .msOpTest => true
  | .msOpAdd => true
  | .msOpSet => true
  | .msForceWake cluster slot n => cluster < 256 && slot < 8 && n < 16
  | .responseTailWrite p _ => partOk p
  | .map p => partOk p
  | .retry p => partOk p
  | .unresolvable p => partOk p
  | .decline p => partOk p
  | .pushVa p => partOk p
  | .requestTimeout p tag => partOk p && tag < 2 ^ 16
  | .invalidationRange asid count => asid < 64 && 1 ≤ count && count ≤ 65536
  | .invalidationContext asid => asid < 64
  | .invalidationDevice => true
  | .invalidationComplete => true
  | .clearFault a => a < 64
  | .kekLoad => true
  | .keyLoad slot => slot < 64
  | .keyErase slot => slot < 64
  | .keyOpComplete => true
  | .doorbell a q _ => queueOk a q
  | .commandFetch a q => queueOk a q
  | .nopCommand a q => queueOk a q
  | .launch a q => queueOk a q
  | .move a q => queueOk a q
  | .fenceCommand a q => queueOk a q
  | .commandCompletion a q _ => queueOk a q
  | .eventTailWrite a q _ => queueOk a q
  | .queueEnable a q => queueOk a q
  | .queueDisable a q => queueOk a q
  | .queueResume a q => queueOk a q
  | .queueReset a q => queueOk a q
  | .cancel a q _ => queueOk a q
  | .abort a q _ => queueOk a q
  | .contextConfigWrite a _ => a < 64
  | .selfStart _ => true
  | .bar4Read port off n => bar4Ok port off n
  | .bar4Write port off bs => bar4Ok port off bs.length
  | .atomicop port off op n _ _ => bar4Ok port off n && op < 3 && (n = 4 || n = 8) && off % n = 0
  | .hostAccessFailure port bus => port < 2 && bus < 2 ^ 48
  | .sliceHandover p => partOk p
  | .quantumExpiry p => partOk p
  | .endNow p => partOk p
  | .graceExpiry p => partOk p
  | .convoySave k n => convoyOk k n
  | .restore p _ => partOk p
  | .steal c _ => c < 200
  | .slowdownPeriod p active held floors => partOk p && held ≤ active && floors < 8
  | .linkEnable k => linkOk k
  | .linkTrainingDone k bad => linkOk k && lanesOk bad
  | .ident k _ _ link role _ credit0 credit1 => linkOk k && link < 32 && role < 4 && credit0 ≤ 384 && credit1 ≤ 32
  | .identRepeat k => linkOk k
  | .data k f fec => linkOk k && flitIs 1 f fec
  | .nak k f fec => linkOk k && flitIs 2 f fec
  | .nakResend k => linkOk k
  | .retrain k f fec => linkOk k && flitIs 4 f fec
  | .fastRetrain k => linkOk k
  | .fastRetrainComplete k lost => linkOk k && lanesOk lost
  | .fullRetrain k => linkOk k
  | .linkDown k => linkOk k
  | .linkRetry k => linkOk k
  | .putDoorbell k q _ => putOk k q
  | .put k q => putOk k q
  | .signal k q => putOk k q
  | .padTimeout k => linkOk k
  | .putMessage k => linkOk k
  | .signalMessage k => linkOk k
  | .entryComplete k q _ => putOk k q
  | .ethDataFrame k f => frameOk k f
  | .ethAck k f => frameOk k f
  | .ethNak k f => frameOk k f
  | .ethIdent k f => frameOk k f
  | .ackTimer k i => linkOk k && i < 256
  | .retransmitTimeout k i => linkOk k && i < 256
  | .ethIdentRepeat k => linkOk k
  | .pfcFrame k _ => linkOk k
  | .testGo k => linkOk k
  | .bitFlips k lane count => linkOk k && lane < 5 && countOk count
  | .crcInjection k count => linkOk k && countOk count
  | .withhold k count => linkOk k && countOk count
  | .delay k t => linkOk k && 1 ≤ t && t < 32768
  | .captureGo k => linkOk k
  | .captureStop k => linkOk k
  | .retune mhz => mhz < 2 ^ 13
  | .retuneComplete => true
  | .powerMeasurement mw => mw < 65536000
  | .creditArbiter p => partOk p
  | .sensorRead junctions harts layers => sensorsOk junctions harts layers
  | .forcingStep => true
  | .marginCheck low => low.all coreOk
  | .c1Entry c => clusterOk c
  | .c2Entry c => clusterOk c
  | .c3Entry c => clusterOk c
  | .entryPhaseEnd dom => domainOk dom
  | .entryRefused dom => domainOk dom
  | .clusterWake c => clusterOk c
  | .exitComplete dom => domainOk dom
  | .wakeTolWrite p us => partOk p && us < 2 ^ 20
  | .vaultPowerDown v => v < 200
  | .vaultSelfRefresh v => v < 200
  | .vaultDeepPowerDown v => v < 200
  | .p2Entry => true
  | .p0Request => true
  | .p4Request _ => true
  | .p6Request => true
  | .restoreStep => true
  | .approveAtNextDrain n lanes => n < 32 && laneMapOk lanes
  | .approveNow n lanes => n < 32 && laneMapOk lanes
  | .reject n => n < 32
  | .heartbeat w => wardenOk w
  | .wardenFailed w _ => wardenOk w
  | .wardenReload w => wardenOk w
  | .wardenRejoin w => wardenOk w
  | .sequencerForcedShoulder => true
  | .counterAccumulate p _ _ _ _ => partOk p
  | .freeze => true
  | .freezeIn => true
  | .freezeFlit k f fec => linkOk k && flitIs 1 f fec
  | .thaw _ => true
  | .extest _ _ => true
  | .idcode => true
  | .samplePreload _ _ => true
  | .clamp => true
  | .highz => true
  | .bypass => true
  | .dbgAccessRead off _ => off < 2 ^ 26
  | .dbgAccessWrite off _ _ _ lanes => off < 2 ^ 26 && laneMapOk lanes
  | .idleFlit k f fec => linkOk k && flitIs 0 f fec
  | .pgInHigh => true
  | .perstDeassert p => p < 2
  | .hostPortTrained p width speed _ => p < 2 && [1, 4, 8, 16].contains width && 1 ≤ speed && speed ≤ 6
  | .powerRemoval => true
  | .vddCoreExcursion => true
  | .causewayRowPortLoss r => r < 10
  | .shoulderDrainComplete lanes => laneMapOk lanes
  | .shoulderDrainLimit lanes => laneMapOk lanes
  | .flashWriteComplete _ => true
  | .trstNAssert => true
  | .prbsLock k l => linkOk k && l < 5
  | .prbsLockLoss k l _ => linkOk k && l < 5
  | .injectionDelayEnd k => linkOk k
  | .ownershipHoldExpiry a _ => a < 224
  | .pfcPauseExpiry k => linkOk k
  | .backInvalidateResponse l => lineOk l
  | .hostReadCompletion port bus bs => port < 2 && bus < 2 ^ 48 && 1 ≤ bs.length && bus % 128 + bs.length ≤ 128
  | .illegalInstruction k n w => convoyOk k n && !opcodeListed (w.toNat / 2 ^ 56)

end Sys2Proof
end

