-- ==== Sys2Proof/Certificates/Slice0/Obligations.lean ====
section
/-! DEFINITION. The statements for the provers, family by family, and the tables of results that they speak of. -/

open Sys2Proof Sys2Proof.Machine

namespace Sys2Proof.Spec

/-! ### Results lane by lane, by the width and signedness of the type -/

/-- A per-lane instruction of two operands: opcode, constructor, types (R114's codes) and result at a width. -/
structure Lane2 where
  op : Nat
  con : Nat → Nat → BitVec 56 → Instr
  types : List Nat
  f : (w : Nat) → Bool → BitVec w → BitVec w → BitVec w

/-- R115: the two-operand integer instructions. -/
def int2Rows : List Lane2 := [
  ⟨0x10, .iadd, [0, 1, 2, 3], fun _ _ a b => a + b⟩,
  ⟨0x11, .isub, [0, 1, 2, 3], fun _ _ a b => a - b⟩,
  ⟨0x12, .imul, [0, 1], fun _ _ a b => a * b⟩,
  ⟨0x13, .imulhi, [0, 1], fun w sg a b =>
    if sg then (a.signExtend (2 * w) * b.signExtend (2 * w)).extractLsb' w w
    else (a.setWidth (2 * w) * b.setWidth (2 * w)).extractLsb' w w⟩,
  ⟨0x15, .imin, [0, 1, 2, 3], fun _ sg a b => if (if sg then b.slt a else b.ult a) then b else a⟩,
  ⟨0x16, .imax, [0, 1, 2, 3], fun _ sg a b => if (if sg then a.slt b else a.ult b) then b else a⟩,
  ⟨0x18, .and, [1, 3], fun _ _ a b => a &&& b⟩,
  ⟨0x19, .or, [1, 3], fun _ _ a b => a ||| b⟩,
  ⟨0x1a, .xor, [1, 3], fun _ _ a b => a ^^^ b⟩,
  ⟨0x1c, .shl, [0, 1, 2, 3], fun w _ a b => if b.toNat < w then a <<< b.toNat else 0⟩,
  ⟨0x1d, .shr, [0, 1, 2, 3], fun _ _ a b => a >>> b.toNat⟩,
  ⟨0x1e, .sar, [0, 1, 2, 3], fun _ _ a b => a.sshiftRight b.toNat⟩,
  ⟨0x22, .bfe, [0, 1], fun w sg a b =>
    let p := b.toNat % 256
    let n := min (b.toNat / 256 % 256) (32 - p)
    if n = 0 then 0 else if sg then (a.extractLsb' p n).signExtend w else (a.extractLsb' p n).setWidth w⟩]

/-- R115: the one-operand integer instructions. -/
def int1Rows : List Lane2 := [
  ⟨0x17, .iabs, [0], fun _ _ a _ => if a.msb then -a else a⟩,
  ⟨0x1b, .not, [1, 3], fun _ _ a _ => ~~~a⟩,
  ⟨0x1f, .popc, [1], fun w _ a _ => BitVec.ofNat w ((List.range w).countP a.getLsbD)⟩,
  ⟨0x20, .clz, [1], fun w _ a _ => BitVec.ofNat w ((List.range w).countP fun i => a.toNat < 2 ^ i)⟩,
  ⟨0x21, .brev, [1], fun _ _ a _ => a.reverse⟩]

/-- R115: the integer instructions of format I. -/
def intImmRows : List Lane2 := [
  ⟨0x29, .iaddi, [0, 1, 2, 3], fun _ _ a b => a + b⟩,
  ⟨0x2a, .imuli, [0, 1], fun _ _ a b => a * b⟩,
  ⟨0x2b, .andi, [1, 3], fun _ _ a b => a &&& b⟩,
  ⟨0x2c, .ori, [1, 3], fun _ _ a b => a ||| b⟩,
  ⟨0x2d, .xori, [1, 3], fun _ _ a b => a ^^^ b⟩,
  ⟨0x2e, .shli, [0, 1, 2, 3], fun w _ a b => if b.toNat < w then a <<< b.toNat else 0⟩,
  ⟨0x2f, .shri, [0, 1, 2, 3], fun _ sg a b => if sg then a.sshiftRight b.toNat else a >>> b.toNat⟩]

/-- R114: an integer condition. -/
def intCond (c : Nat) (sg : Bool) {w : Nat} (a b : BitVec w) : Bool :=
  match c with
  | 0 => a == b
  | 1 => a != b
  | 2 => if sg then a.slt b else a.ult b
  | 3 => if sg then a.sle b else a.ule b
  | 4 => if sg then b.slt a else b.ult a
  | _ => if sg then b.sle a else b.ule a

end Sys2Proof.Spec

open Sys2Proof.Spec

/-! ## Vector instructions -/

/-- (R115, R109, R79) IADD, ISUB, IMUL, IMULHI, IMIN, IMAX, AND, OR, XOR, SHL, SHR, SAR and BFE write, in every lane of the
effective set, the result the table gives at the type's width; no other lane, register, convoy or byte changes, and the
convoy goes on at the next word. -/
def Sys2Proof.Spec.integerTwoOperandResults : Prop :=
  ∀ r ∈ int2Rows, ∀ (s : State) (k n : Nat) (w : BitVec 56) (v : Convoy),
    let x := iword r.op w
    let ty := fType x
    let g := typeRegs ty
    s.ready k n v = true → v.vForm x r.types 0 true true false g = true →
    ∃ u, s.instrEnds (r.con k n w) k n u.next ∧ v.laneResult u x (fVd x) g fun l =>
      (r.f (typeWidth ty) (typeSigned ty) (BitVec.ofNat _ (v.val g (fVa x) l)) (BitVec.ofNat _ (v.opB x g l))).toNat

/-- (R115) IABS, NOT, POPC, CLZ and BREV, in the same way. -/
def Sys2Proof.Spec.integerOneOperandResults : Prop :=
  ∀ r ∈ int1Rows, ∀ (s : State) (k n : Nat) (w : BitVec 56) (v : Convoy),
    let x := iword r.op w
    let ty := fType x
    let g := typeRegs ty
    s.ready k n v = true → v.vForm x r.types 0 true false false g = true →
    ∃ u, s.instrEnds (r.con k n w) k n u.next ∧ v.laneResult u x (fVd x) g fun l =>
      (r.f (typeWidth ty) (typeSigned ty) (BitVec.ofNat _ (v.val g (fVa x) l)) 0).toNat

/-- (R113, R115) IADDI, IMULI, ANDI, ORI, XORI, SHLI and SHRI, with imm32 sign-extended for a 64-bit type. -/
def Sys2Proof.Spec.integerImmediateResults : Prop :=
  ∀ r ∈ intImmRows, ∀ (s : State) (k n : Nat) (w : BitVec 56) (v : Convoy),
    let x := iword r.op w
    let ty := fIType x
    let g := typeRegs ty
    s.ready k n v = true → v.iForm x r.types true = true →
    ∃ u, s.instrEnds (r.con k n w) k n u.next ∧ v.laneResult u x (fVd x) g fun l =>
      (r.f (typeWidth ty) (typeSigned ty) (BitVec.ofNat _ (v.val g (fVa x) l))
        ((BitVec.ofNat 32 (fImm32 x)).signExtend _)).toNat

/-- O1 (R115, R109, R79, R115, R113, R115): the integer instructions lane by lane. -/
def Obligations.IntegerResults : Prop := Spec.integerTwoOperandResults ∧ Spec.integerOneOperandResults ∧ Spec.integerImmediateResults

/-- O2 (R115): IMAD, BFI, SEL, MOV and MOVI write, lane by lane, the multiply-add, the inserted field, the operand that the predicate
selects, the operand and the immediate, and no other lane or register. -/
def Obligations.SelectMoveAndInsertResults : Prop :=
  ∀ (s : State) (k n : Nat) (w : BitVec 56) (v : Convoy), s.ready k n v = true →
    (let x := iword 0x14 w
     v.vForm x [0, 1] 0 true true true 1 = true →
     ∃ u, s.instrEnds (.imad k n w) k n u.next ∧ v.laneResult u x (fVd x) 1 fun l =>
      (BitVec.ofNat 32 (v.vr (fVa x) l) * BitVec.ofNat 32 (v.opB x 1 l) + BitVec.ofNat 32 (v.vr (fVc x) l)).toNat) ∧
    (let x := iword 0x23 w
     v.vForm x [1] 0 true true true 1 = true →
     ∃ u, s.instrEnds (.bfi k n w) k n u.next ∧ v.laneResult u x (fVd x) 1 fun l =>
      let p := v.opB x 1 l % 256
      let m := min (v.opB x 1 l / 256 % 256) (32 - p)
      ((BitVec.ofNat 32 (v.vr (fVc x) l) &&& ~~~(BitVec.ofNat 32 (2 ^ m - 1) <<< p)) |||
        ((BitVec.ofNat 32 (v.vr (fVa x) l) &&& BitVec.ofNat 32 (2 ^ m - 1)) <<< p)).toNat) ∧
    (let x := iword 0x25 w
     let g := typeRegs (fType x)
     v.vForm x [0, 1, 2, 3, 4, 5, 6, 7, 8] (fbits 25 23) true true false g = true →
     ∃ u, s.instrEnds (.sel k n w) k n u.next ∧ v.laneResult u x (fVd x) g fun l =>
      if (v.pr (bits x 25 23)).getLsbD l then v.val g (fVa x) l else v.opB x g l) ∧
    (let x := iword 0x26 w
     let g := typeRegs (fType x)
     v.vForm x [0, 1, 2, 3, 4, 5, 6, 7, 8] 0 false true false g = true →
     ∃ u, s.instrEnds (.mov k n w) k n u.next ∧ v.laneResult u x (fVd x) g fun l => v.opB x g l) ∧
    (let x := iword 0x28 w
     let g := typeRegs (fIType x)
     v.iForm x [0, 1, 2, 3, 4, 5, 6, 7, 8] false = true →
     ∃ u, s.instrEnds (.movi k n w) k n u.next ∧ v.laneResult u x (fVd x) g fun _ => immOperand (fIType x) (fImm32 x))

/-- O3 (R114, R115, R117): ISETP and FSETP write Pd in the effective set with the truth of their condition, and keep it in every
other lane. A NaN makes an ordered condition false and an unordered one true. -/
def Obligations.CompareWritesPredicate : Prop :=
  ∀ (s : State) (k n : Nat) (w : BitVec 56) (v : Convoy), s.ready k n v = true →
    (let x := iword 0x24 w
     let ty := fType x
     let g := typeRegs ty
     cmpForm x [0, 1, 2, 3] 0 = true → fCond x ≤ 5 →
     ∃ u, s.instrEnds (.isetp k n w) k n u.next ∧ v.predResult u x (fPd x) fun l =>
      intCond (fCond x) (typeSigned ty) (BitVec.ofNat (typeWidth ty) (v.val g (fVa x) l)) (BitVec.ofNat _ (v.opB x g l))) ∧
    (let x := iword 0x35 w
     let ty := fType x
     let g := typeRegs ty
     let f := typeFmt ty
     let cut (y : Nat) : Nat := if ty = 13 ∨ ty = 14 then y % 2 ^ 16 else y
     cmpForm x [4, 5, 13, 14] (fbits 12 12 ||| fbits 11 11) = true → fCond x ≤ 13 →
     ∃ u, s.instrEnds (.fsetp k n w) k n u.next ∧ v.predResult u x (fPd x) fun l =>
      let a := f.decode (f.flip (fNegA x) (cut (v.val g (fVa x) l)))
      let b := f.decode (f.flip (fNegBc x) (cut (v.opB x g l)))
      match a.cmp b with
      | none => decide (7 ≤ fCond x)
      | some o =>
        match fCond x % 8 with
        | 0 => o == .eq
        | 1 => o != .eq
        | 2 => o == .lt
        | 3 => o != .gt
        | 4 => o == .gt
        | 5 => o != .lt
        | 6 => true
        | _ => false)

namespace Sys2Proof.Spec

/-- A floating-point instruction of format V: opcode, constructor, fields beside the common ones, whether it reads vb and vc,
and its result on bit patterns of one element format. -/
structure LaneF where
  op : Nat
  con : Nat → Nat → BitVec 56 → Instr
  used : Nat
  useB : Bool
  useC : Bool
  f : Nat → FFmt → Nat → Nat → Nat → Nat

/-- R117: neg_a and neg_bc invert a sign, rnd names the rounding, and each result is rounded once from the exact one. -/
def fpRows : List LaneF := [
  ⟨0x30, .fadd, fbits 20 18 ||| fbits 12 12 ||| fbits 11 11, true, false, fun x f a b _ =>
    f.round (arithRnd x) ((f.decode (f.flip (fNegA x) a)).add (arithRnd x) (f.decode (f.flip (fNegBc x) b)))⟩,
  ⟨0x31, .fmul, fbits 20 18 ||| fbits 12 12 ||| fbits 11 11, true, false, fun x f a b _ =>
    f.round (arithRnd x) ((f.decode (f.flip (fNegA x) a)).mul (f.decode (f.flip (fNegBc x) b)))⟩,
  ⟨0x32, .ffma, fbits 20 18 ||| fbits 12 12 ||| fbits 11 11, true, true, fun x f a b c =>
    f.round (arithRnd x) (((f.decode (f.flip (fNegA x) a)).mul (f.decode b)).add (arithRnd x) (f.decode (f.flip (fNegBc x) c)))⟩,
  ⟨0x33, .fmin, fbits 12 12, true, false, fun x f a b _ => f.fminmax false (f.flip (fNegA x) a) b⟩,
  ⟨0x34, .fmax, fbits 12 12, true, false, fun x f a b _ => f.fminmax true (f.flip (fNegA x) a) b⟩,
  ⟨0x37, .fabs, 0, false, false, fun _ f a _ _ => a % 2 ^ (f.eb + f.fb)⟩]

/-- R118: the special functions of one FP32 operand, with what each gives for a NaN, +0, -0, +infinity and -infinity. -/
def sfuRows : List (Nat × (Nat → Nat → BitVec 56 → Instr) × (Nat → Nat) × List Nat) := [
  (0x50, .frcp, frcp32, [0x7fc00000, 0x7f800000, 0xff800000, 0, 0x80000000]),
  (0x51, .frsq, frsq32, [0x7fc00000, 0x7f800000, 0xff800000, 0, 0x7fc00000]),
  (0x53, .fex2, fex2_32, [0x7fc00000, 0x3f800000, 0x3f800000, 0x7f800000, 0]),
  (0x54, .flg2, flg2_32, [0x7fc00000, 0xff800000, 0xff800000, 0x7f800000, 0x7fc00000]),
  (0x55, .fsin, fsin32, [0x7fc00000, 0, 0x80000000, 0x7fc00000, 0x7fc00000]),
  (0x56, .fcos, fcos32, [0x7fc00000, 0x3f800000, 0x3f800000, 0x7fc00000, 0x7fc00000])]

/-- An FP32 pattern that is a NaN. -/
abbrev nan32 (a : Nat) : Prop := bits a 30 23 = 0xff ∧ bits a 22 0 ≠ 0

end Sys2Proof.Spec

/-- O4 (R116, R117, R204, R205): FADD, FMUL, FFMA, FMIN, FMAX and FABS, each half of a packed register on its own, and FADDI and
FMULI, which round to nearest even. -/
def Obligations.FloatArithmeticResults : Prop :=
  (∀ r ∈ fpRows, ∀ (s : State) (k n : Nat) (w : BitVec 56) (v : Convoy),
    let x := iword r.op w
    let ty := fType x
    let g := typeRegs ty
    s.ready k n v = true → v.vForm x [4, 5, 6, 7] r.used true r.useB r.useC g = true → (r.op ≤ 0x32 → fRnd x ≤ 3) →
    ∃ u, s.instrEnds (r.con k n w) k n u.next ∧ v.laneResult u x (fVd x) g fun l =>
      fpApply ty (r.f x) (v.val g (fVa x) l) (v.opB x g l) (v.val g (fVc x) l) % 2 ^ (32 * g)) ∧
  ∀ (s : State) (k n : Nat) (w : BitVec 56) (v : Convoy), s.ready k n v = true →
    (let x := iword 0x38 w
     let ty := fIType x
     v.iForm x [4, 5, 6, 7] true = true →
     ∃ u, s.instrEnds (.faddi k n w) k n u.next ∧ v.laneResult u x (fVd x) (typeRegs ty) fun l =>
      fpApply ty (fun f a b _ => f.round .rne ((f.decode a).add .rne (f.decode b)))
        (v.val (typeRegs ty) (fVa x) l) (immOperand ty (fImm32 x)) 0 % 2 ^ (32 * typeRegs ty)) ∧
    (let x := iword 0x39 w
     let ty := fIType x
     v.iForm x [4, 5, 6, 7] true = true →
     ∃ u, s.instrEnds (.fmuli k n w) k n u.next ∧ v.laneResult u x (fVd x) (typeRegs ty) fun l =>
      fpApply ty (fun f a b _ => f.round .rne ((f.decode a).mul (f.decode b)))
        (v.val (typeRegs ty) (fVa x) l) (immOperand ty (fImm32 x)) 0 % 2 ^ (32 * typeRegs ty))

/-- O5 (R117, R118): the special functions of FP32, FSQRT, FRND, FCLASS and IDIVS: they complete for every operand, a NaN, a zero
and an infinity give what the table names, a class mask has one bit, and a division by b ≠ 0 leaves a = q × b + r. -/
def Obligations.SpecialFunctionResults : Prop :=
  (∀ r ∈ sfuRows, (∀ a < 2 ^ 32, nan32 a → r.2.2.1 a = 0x7fc00000) ∧
    [0x7fc00000, 0, 0x80000000, 0x7f800000, 0xff800000].map r.2.2.1 = r.2.2.2 ∧
    ∀ (s : State) (k n : Nat) (w : BitVec 56) (v : Convoy),
      let x := iword r.1 w
      s.ready k n v = true → v.vForm x [4] 0 true false false 1 = true →
      ∃ u, s.instrEnds (r.2.1 k n w) k n u.next ∧ v.laneResult u x (fVd x) 1 fun l => r.2.2.1 (v.vr (fVa x) l) % 2 ^ 32) ∧
  ∀ (s : State) (k n : Nat) (w : BitVec 56) (v : Convoy), s.ready k n v = true →
    (let x := iword 0x52 w
     v.vForm x [4] (fbits 20 18) true false false 1 = true → fRnd x ≤ 3 →
     ∃ u, s.instrEnds (.fsqrt k n w) k n u.next ∧
      v.laneResult u x (fVd x) 1 fun l => fsqrt32 (arithRnd x) (v.vr (fVa x) l) % 2 ^ 32) ∧
    (let x := iword 0x3a w
     let g := typeRegs (fType x)
     v.vForm x [4, 5] (fbits 20 18) true false false g = true → fRnd x ≤ 3 →
     ∃ u, s.instrEnds (.frnd k n w) k n u.next ∧
      v.laneResult u x (fVd x) g fun l => (typeFmt (fType x)).frnd (arithRnd x) (v.val g (fVa x) l) % 2 ^ (32 * g)) ∧
    (let x := iword 0x36 w
     v.vForm x [4, 5] 0 true false false 1 = true →
     ∃ u, s.instrEnds (.fclass k n w) k n u.next ∧
      (v.laneResult u x (fVd x) 1 fun l => (typeFmt (fType x)).fclass (v.val (typeRegs (fType x)) (fVa x) l)) ∧
      ∀ a, ∃ b ≤ 9, (typeFmt (fType x)).fclass a = 2 ^ b) ∧
    (let x := iword 0x57 w
     v.vForm x [0, 1] 0 true true false 2 = true →
     ∃ u : Convoy, s.instrEnds (.idivs k n w) k n u.next ∧ { u with v := v.v } = v ∧
      ∀ l < 64, (v.effective x).getLsbD l = true →
        let a := BitVec.ofNat 32 (v.vr (fVa x) l)
        let b := BitVec.ofNat 32 (v.opB x 1 l)
        let q := BitVec.ofNat 32 (u.vr (fVd x) l)
        let r := BitVec.ofNat 32 (u.vr (fVd x + 1) l)
        if b = 0 then q = BitVec.allOnes 32 ∧ r = a
        else a = q * b + r ∧ if fType x = 0 then q = a.sdiv b ∧ r = a.srem b else q = a.udiv b ∧ r = a.umod b)

/-- O6 (R119 to R121): CVT, CVTN and CVTW write, lane by lane, the converted value, and no other lane or register. -/
def Obligations.ConversionResults : Prop :=
  ∀ (s : State) (k n : Nat) (w : BitVec 56) (v : Convoy), s.ready k n v = true →
    (let x := iword 0x58 w
     let g := typeRegs (fType2 x)
     let m := typeRegs (fType x)
     onlyUses x (fbits 50 44 ||| fbits 43 37 ||| fbits 20 18 ||| fbits 17 14 ||| fbits 13 13 ||| fbits 3 0) = true →
     fType x ∈ [0, 1, 2, 3, 4, 5, 8, 9, 10, 11, 12, 13, 14] → fType2 x ∈ [0, 1, 2, 3, 4, 5, 8, 9, 10, 11, 12, 13, 14] →
     fRnd x ≤ 4 → groupReads (fVa x) g = true → v.groupWrites (fVd x) m = true →
     ∃ u, s.instrEnds (.cvt k n w) k n u.next ∧ v.laneResult u x (fVd x) m fun l =>
      cvtResult (fType x) ((Rnd.ofCode (fRnd x)).getD .rne) (fSat x) (cvtSource (fType2 x) (v.val g (fVa x) l)) %
        2 ^ (32 * m)) ∧
    (let x := iword 0x59 w
     let i := fFmt x
     let sr : Bool := fRnd x = 5
     onlyUses x (fbits 50 44 ||| fbits 43 37 ||| fbits 36 32 ||| fbits 20 18 ||| fbits 13 13 ||| fbits 11 11 |||
      (if sr then fbits 29 23 ||| fbits 9 4 else 0)) = true →
     fRnd x ≤ 5 → (s.dev.fmtDesc i).used = true → cvtnOk i = true → v.groupWrites (fVd x) 1 = true →
     ∃ u, s.instrEnds (.cvtn k n w) k n u.next ∧ v.laneResult u x (fVd x) 1 fun l =>
      encodeElem i (s.dev.fmtDesc i).codebook ((Rnd.ofCode (fRnd x)).getD .rne) (fSat x) (fNegBc x)
        (sr16 (v.ur (bits x 9 4)) (v.vr (fVc x) l)) (bitAt (v.vr (fVa x) l) 31) (fmtF32.decode (v.vr (fVa x) l)) % 2 ^ 32) ∧
    (let x := iword 0x5a w
     let i := fFmt x
     onlyUses x (fbits 50 44 ||| fbits 43 37 ||| fbits 36 32) = true →
     (s.dev.fmtDesc i).used = true → cvtwOk i = true → v.groupWrites (fVd x) 1 = true →
     ∃ u, s.instrEnds (.cvtw k n w) k n u.next ∧ v.laneResult u x (fVd x) 1 fun l =>
      fmtF32.round .rne (elemVal i (s.dev.fmtDesc i).codebook (v.vr (fVa x) l % 2 ^ fmtWidth i)) % 2 ^ 32)

/-! ## Lanes, predicates and special registers -/

/-- O7 (R122, R123): SHFL takes the source lane's register whatever the state of that lane, PLOP applies its truth table, VOTE.ANY,
VOTE.ALL and BALLOT combine the predicate over the effective set, and V2U takes one lane; nothing else changes. -/
def Obligations.LaneCrossingResults : Prop :=
  ∀ (s : State) (k n : Nat) (w : BitVec 56) (v : Convoy), s.ready k n v = true →
    (let x := iword 0x60 w
     onlyUses x (fbits 50 44 ||| fbits 43 37 ||| fbits 36 30 ||| fbits 22 21 ||| fbits 8 7) = true → bselOk x = true →
     v.groupWrites (fVd x) 1 = true →
     ∃ u, s.instrEnds (.shfl k n w) k n u.next ∧ v.laneResult u x (fVd x) 1 fun l =>
      let b := v.opB x 1 l
      v.vr (fVa x) (match bits x 8 7 with
        | 0 => b % 64
        | 1 => if b ≤ l then l - b else l
        | 2 => if l + b ≤ 63 then l + b else l
        | _ => l ^^^ (b % 64))) ∧
    (let x := iword 0x63 w
     onlyUses x (fbits 50 31) = true →
     ∃ u, s.instrEnds (.plop k n w) k n u.next ∧ v.predResult u x (bits x 50 48) fun l =>
      bitAt (bits x 38 31) (4 * b2n ((v.pr (bits x 47 45)).getLsbD l) + 2 * b2n ((v.pr (bits x 44 42)).getLsbD l) +
        b2n ((v.pr (bits x 41 39)).getLsbD l))) ∧
    (let x := iword 0x64 w
     onlyUses x (fbits 50 45) = true →
     ∃ u, s.instrEnds (.voteAny k n w) k n u.next ∧ v.predResult u x (bits x 50 48) fun _ =>
      (List.range 64).any fun l => (v.effective x).getLsbD l && (v.pr (bits x 47 45)).getLsbD l) ∧
    (let x := iword 0x65 w
     onlyUses x (fbits 50 45) = true →
     ∃ u, s.instrEnds (.voteAll k n w) k n u.next ∧ v.predResult u x (bits x 50 48) fun _ =>
      (List.range 64).all fun l => !(v.effective x).getLsbD l || (v.pr (bits x 47 45)).getLsbD l) ∧
    (let x := iword 0x66 w
     onlyUses x (fbits 47 45 ||| fbits 30 25) = true →
     ∃ u : Convoy, s.instrEnds (.ballot k n w) k n u.next ∧ { u with u := v.u } = v ∧
      u.ur (bits x 30 25) = (v.effective x &&& v.pr (bits x 47 45)).toNat ∧ ∀ r, r ≠ bits x 30 25 → u.ur r = v.ur r) ∧
    (let x := iword 0x61 w
     onlyUses x (fbits 49 44 ||| fbits 43 37 ||| fbits 5 0) = true →
     ∃ u : Convoy, s.instrEnds (.v2u k n w) k n u.next ∧ { u with u := v.u } = v ∧
      (v.effective x ≠ 0 → u.ur (bits x 49 44) = v.vr (fVa x) (bits x 5 0)) ∧ (v.effective x = 0 → u = v) ∧
      ∀ r, r ≠ bits x 49 44 → u.ur r = v.ur r)

/-- (R76, R107) SRV and SRU read a special register into a V register of each lane and into a U register. A register of
thread scope has no uniform value. -/
def Sys2Proof.Spec.specialRegisterReads : Prop :=
  ∀ (s : State) (k n : Nat) (w : BitVec 56) (v : Convoy), s.ready k n v = true →
    (let x := iword 0x67 w
     onlyUses x (fbits 50 44 ||| fbits 7 0) = true → bits x 7 0 ≤ 0x16 → v.groupWrites (fVd x) 1 = true →
     ∃ u, s.instrEnds (.srv k n w) k n u.next ∧ v.laneResult u x (fVd x) 1 fun l =>
      srValue s.dev.time v (s.dev.convoyWg k v) (bits x 7 0) l % 2 ^ 32) ∧
    (let x := iword 0x68 w
     noGuard x = true → onlyUses x (fbits 50 45 ||| fbits 7 0) = true → bits x 7 0 ≤ 0x16 → bits x 7 0 ∉ [0, 2, 3, 4] →
     ∃ u : Convoy, s.instrEnds (.sru k n w) k n u.next ∧ { u with u := v.u } = v ∧
      u.ur (fUd x) = srValue s.dev.time v (s.dev.convoyWg k v) (bits x 7 0) 0 % 2 ^ 64 ∧ ∀ r, r ≠ fUd x → u.ur r = v.ur r)

/-! ## Uniform and control instructions -/

namespace Sys2Proof.Spec

/-- R124: the uniform instructions on two 64-bit values. -/
def uniRows : List (Nat × (Nat → Nat → BitVec 56 → Instr) × (BitVec 64 → BitVec 64 → BitVec 64)) := [
  (0x70, .uadd, fun a b => a + b), (0x71, .usub, fun a b => a - b), (0x72, .umul, fun a b => a * b),
  (0x73, .uand, fun a b => a &&& b), (0x74, .uor, fun a b => a ||| b), (0x75, .uxor, fun a b => a ^^^ b),
  (0x76, .ushl, fun a b => if b.toNat < 64 then a <<< b.toNat else 0),
  (0x77, .ushr, fun a b => if b.toNat < 64 then a >>> b.toNat else 0),
  (0x78, .usar, fun a b => a.sshiftRight b.toNat)]

/-- `u` is `v` with U register `r` holding `y`, and nothing else changed. -/
def setU (v u : Convoy) (r : Nat) (y : Word) : Prop :=
  { u with u := v.u } = v ∧ u.ur r = y.toNat ∧ ∀ q, q ≠ r → u.ur q = v.ur q

end Sys2Proof.Spec

/-- (R113, R124) UADD, USUB, UMUL, UAND, UOR, UXOR, USHL, USHR, USAR, ULI and ULIH write U[ud] alone, whatever lanes are
active. -/
def Sys2Proof.Spec.uniformResults : Prop :=
  (∀ r ∈ uniRows, ∀ (s : State) (k n : Nat) (w : BitVec 56) (v : Convoy),
    let x := iword r.1 w
    s.ready k n v = true → noGuard x = true → (fIsel x = true → fUb x = 0) →
    ∃ u, s.instrEnds (r.2.1 k n w) k n u.next ∧
      setU v u (fUd x) (r.2.2 (BitVec.ofNat 64 (v.ur (fUa x)))
        (if fIsel x then (BitVec.ofNat 32 (fImm32 x)).signExtend 64 else BitVec.ofNat 64 (v.ur (fUb x))))) ∧
  ∀ (s : State) (k n : Nat) (w : BitVec 56) (v : Convoy), s.ready k n v = true →
    (let x := iword 0x79 w
     noGuard x = true → fIsel x = true → fUa x = 0 → fUb x = 0 →
     ∃ u, s.instrEnds (.uli k n w) k n u.next ∧ setU v u (fUd x) ((BitVec.ofNat 32 (fImm32 x)).signExtend 64)) ∧
    (let x := iword 0x7a w
     noGuard x = true → fIsel x = true → fUa x = 0 → fUb x = 0 →
     ∃ u, s.instrEnds (.ulih k n w) k n u.next ∧
      setU v u (fUd x) (BitVec.ofNat 32 (fImm32 x) ++ (BitVec.ofNat 64 (v.ur (fUd x))).setWidth 32))

/-- O8 (R76, R107, R113, R124): SRV and SRU, and the uniform instructions. -/
def Obligations.SpecialAndUniformRegisters : Prop := Spec.specialRegisterReads ∧ Spec.uniformResults

/-- (R113, R125 to R127) NOP, BRA, BRX, CALL, CALLX and RET. A target is in words from the instruction. BRA is taken when its
guard holds in every active lane and falls through when in none; CALL and CALLX leave the next word's address in their link
register; RET through U63 ends the detouring state. -/
def Sys2Proof.Spec.branchAndCallTargets : Prop :=
  ∀ (s : State) (k n : Nat) (w : BitVec 56) (v : Convoy), s.ready k n v = true →
    (noGuard (iword 0x80 w) = true → onlyUses (iword 0x80 w) 0 = true → s.instrEnds (.nop k n w) k n v.next) ∧
    (let x := iword 0x81 w
     onlyUses x (fbits 40 21) = true →
     (bitAt x 55 = false ∨ v.effective x = v.active →
      s.instrEnds (.bra k n w) k n { v with pc := v.pc + 8 * (BitVec.ofNat 20 (bits x 40 21)).signExtend 64 }.stepEnd) ∧
     (bitAt x 55 = true → v.effective x = 0 → v.active ≠ 0 →
      s.instrEnds (.bra k n w) k n { v with pc := v.pc + 8 }.stepEnd)) ∧
    (let x := iword 0x82 w
     noGuard x = true → onlyUses x (fbits 46 41) = true → v.ur (fBUa x) % 8 = 0 →
     s.instrEnds (.brx k n w) k n { v with pc := BitVec.ofNat 64 (v.ur (fBUa x)) }.stepEnd) ∧
    (let x := iword 0x83 w
     noGuard x = true → onlyUses x (fbits 40 21 ||| fbits 46 41) = true →
     ∃ u, s.instrEnds (.call k n w) k n
        { u with pc := v.pc + 8 * (BitVec.ofNat 20 (bits x 40 21)).signExtend 64 }.stepEnd ∧ setU v u (fBUa x) (v.pc + 8)) ∧
    (let x := iword 0x84 w
     noGuard x = true → onlyUses x (fbits 40 35 ||| fbits 46 41) = true → v.ur (fBUa x) % 8 = 0 →
     ∃ u, s.instrEnds (.callx k n w) k n { u with pc := BitVec.ofNat 64 (v.ur (fBUa x)) }.stepEnd ∧
      setU v u (bits x 40 35) (v.pc + 8)) ∧
    (let x := iword 0x85 w
     noGuard x = true → onlyUses x (fbits 46 41) = true → v.ur (fBUa x) % 8 = 0 →
     s.instrEnds (.ret k n w) k n
      { v with pc := BitVec.ofNat 64 (v.ur (fBUa x)), detouring := if fBUa x = 63 then false else v.detouring }.stepEnd)

/-- (R84, R85) JSPLIT, JPUSH, JBRK, EXIT of some lanes, and JCT, with the mask stack and the active mask each leaves. -/
def Sys2Proof.Spec.maskStackOperations : Prop :=
  ∀ (s : State) (k n : Nat) (w : BitVec 56) (v : Convoy), s.ready k n v = true →
    (let x := iword 0x86 w
     let t := v.active &&& v.splitPred x
     let m := v.active &&& ~~~v.splitPred x
     let tgt := v.pc + 8 * (BitVec.ofNat 20 (bits x 40 21)).signExtend 64
     noGuard x = true → onlyUses x (fbits 50 47 ||| fbits 40 1) = true →
     (m = 0 → s.instrEnds (.jsplit k n w) k n { v with pc := tgt }.stepEnd) ∧
     (m ≠ 0 → t = 0 → s.instrEnds (.jsplit k n w) k n { v with pc := v.pc + 8 }.stepEnd) ∧
     (m ≠ 0 → t ≠ 0 → v.stack.length < 32 →
      s.instrEnds (.jsplit k n w) k n
        { v with active := t, pc := tgt, stack :=
            { mask := m, path := v.pc + 8, junction := v.pc + 8 * (BitVec.ofNat 20 (bits x 20 1)).signExtend 64,
              rejoin := false, path0 := t } :: v.stack }.stepEnd)) ∧
    (let x := iword 0x88 w
     noGuard x = true → onlyUses x (fbits 20 1) = true → v.stack.length < 32 →
     s.instrEnds (.jpush k n w) k n
      { v with pc := v.pc + 8, stack :=
          { mask := v.active, path := 0, junction := v.pc + 8 * (BitVec.ofNat 20 (bits x 20 1)).signExtend 64,
            rejoin := true, path0 := v.active } :: v.stack }.stepEnd) ∧
    (let x := iword 0x89 w
     let a := v.active &&& ~~~v.splitPred x
     noGuard x = true → onlyUses x (fbits 50 47) = true → a ≠ 0 →
     s.instrEnds (.jbrk k n w) k n { v with active := a, pc := v.pc + 8 }.stepEnd) ∧
    (let x := iword 0x8a w
     let e := v.effective x
     onlyUses x 0 = true → v.active &&& ~~~e ≠ 0 → v.live &&& ~~~e ≠ 0 →
     s.instrEnds (.exit k n w) k n
      { v with active := v.active &&& ~~~e, live := v.live &&& ~~~e, pc := v.pc + 8 }.stepEnd) ∧
    (let x := iword 0x87 w
     noGuard x = true → onlyUses x 0 = true →
     ((∀ e ∈ v.stack.head?, e.junction ≠ v.pc) →
      s.instrEnds (.jct k n w) k n { v with pc := v.pc + 8 }.stepEnd) ∧
     ∀ e st, v.stack = e :: st → e.junction = v.pc →
      (e.rejoin = false → e.path.toNat % 8 = 0 → e.mask &&& v.live &&& ~~~v.parked ≠ 0 →
        s.instrEnds (.jct k n w) k n
          { v with active := e.mask &&& v.live &&& ~~~v.parked, pc := e.path, stack :=
              { e with rejoin := true, mask := e.mask ||| ((e.path0 &&& v.live) ||| v.active), path0 := e.mask } :: st }.stepEnd) ∧
      (e.rejoin = true → e.mask &&& v.parked = 0 → e.junction.toNat % 8 = 0 → e.mask &&& v.live ≠ 0 →
        s.instrEnds (.jct k n w) k n
          { v with active := e.mask &&& v.live, pc := e.junction + 8, stack := st }.stepEnd))

/-- (R97, R98, R111, R125) TRAP raises 0x40 + n, BKPT breakpoint and a word of an unlisted opcode illegal instruction, each in
every lane of the effective set or every active lane; the handler is entered with the trap recorded. TRET leaves it. -/
def Sys2Proof.Spec.softwareTrapsEnterHandler : Prop :=
  ∀ (s : State) (k n : Nat) (v : Convoy), s.ready k n v = true →
    (s.handles k v = true →
      (∀ w : BitVec 56, noGuard (iword 0x8f w) = true → onlyUses (iword 0x8f w) (fbits 26 21) = true →
        s.instrTraps (.trap k n w) k n v (0x40 + bits (iword 0x8f w) 26 21) v.active) ∧
      (∀ w : BitVec 56, noGuard (iword 0x91 w) = true → onlyUses (iword 0x91 w) 0 = true →
        s.instrTraps (.bkpt k n w) k n v 0x0a v.active) ∧
      ∀ w : Word, opcodeListed (w.toNat / 2 ^ 56) = false →
        s.instrTraps (.illegalInstruction k n w) k n v 0x01 (v.allLanes w.toNat)) ∧
    ∀ w : BitVec 56,
      let x := iword 0x90 w
      noGuard x = true → onlyUses x (fbits 46 41) = true → v.inHandler = true → v.ur (fBUa x) % 8 = 0 →
      v.handlerMask &&& v.live &&& ~~~v.parked ≠ 0 →
      s.instrEnds (.tret k n w) k n
        { v with inHandler := false, handlerMask := 0, pc := BitVec.ofNat 64 (v.ur (fBUa x)),
                 active := v.handlerMask &&& v.live &&& ~~~v.parked }.stepEnd

/-- (R111, R126) A divergent BRA, and a NOP with a bit set that it does not use, trap with no other effect. -/
def Sys2Proof.Spec.illegalFormsTrap : Prop :=
  ∀ (s : State) (k n : Nat) (w : BitVec 56) (v : Convoy), s.ready k n v = true → s.handles k v = true →
    (let x := iword 0x81 w
     onlyUses x (fbits 40 21) = true → bitAt x 55 = true → v.effective x ≠ v.active → v.effective x ≠ 0 →
     s.instrTraps (.bra k n w) k n v 0x04 v.active) ∧
    (let x := iword 0x80 w
     (noGuard x = false ∨ onlyUses x 0 = false) → s.instrTraps (.nop k n w) k n v 0x01 (v.allLanes x)) ∧
    (let x := iword 0x10 w
     fType x ∉ [0, 1, 2, 3] → s.instrTraps (.iadd k n w) k n v 0x01 (v.allLanes x))

/-- O9 (R97, R98, R111, R125, R111, R126): TRAP, BRK and what raises a trap. -/
def Obligations.TrapsAndIllegalForms : Prop := Spec.softwareTrapsEnterHandler ∧ Spec.illegalFormsTrap

/-- (R145) LAYBY with no request pending goes on; with one it stops the convoy, to be saved with the register groups and
tiles that it names. -/
def Sys2Proof.Spec.laybyStopsOnRequest : Prop :=
  ∀ (s : State) (k n : Nat) (w : BitVec 56) (v : Convoy),
    let x := iword 0x92 w
    s.ready k n v = true → noGuard x = true → onlyUses x (fbits 50 27) = true →
    (v.preempt = false → s.instrEnds (.layby k n w) k n { v with pc := v.pc + 8 }.stepEnd) ∧
    (v.preempt = true → s.instrEnds (.layby k n w) k n
      { v with pc := v.pc + 8, saveForm := 1, vGroups := bits x 50 35, keepTiles := bits x 34 27 }.stepEnd)

/-- O10 (R113, R125 to R127, R145): branches, calls and LAYBY. -/
def Obligations.BranchesCallsAndLayby : Prop := Spec.branchAndCallTargets ∧ Spec.laybyStopsOnRequest

/-! ## Memory instructions -/

namespace Sys2Proof.Spec

/-- The instructions of the memory pipe: opcode, constructor, meaning on the device and the convoy, what its range-tracker
entry asks (R337), and whether the convoy keeps its reservations (R137). -/
def memRows : List (Nat × (Nat → Nat → BitVec 56 → Instr) × (Nat → Nat → Nat → Dev → Convoy → Eff) ×
    (Nat → Nat → Dev → Convoy → Bool) × Bool) :=
  [(0xa0, .ld, memLd, fun k x d v => d.mEligible k v x false, false),
   (0xa1, .st, memSt, fun k x d v => d.mEligible k v x true, false),
   (0xa2, .movd, memMovd, fun _ _ _ _ => true, false),
   (0xa3, .prf, memPrf, fun k x d v => d.mEligible k v x false, false),
   (0x8b, .jspill, memJspill, fun k x d v =>
    d.rangeFree k v (fPp x) (lineSpan [v.stackAddr x] (32 + 32 * v.stack.length)) true, false),
   (0x8c, .jfill, memJfill, fun k x d v => d.rangeFree k v (fPp x) (lineSpan [v.stackAddr x] 1056) false, false),
   (0xc0, .ldr, memLdr, fun k x d v => d.aEligible k v x false, false),
   (0xc1, .stc, memStc, fun k x d v => d.aEligible k v x true, true),
   (0xc4, .fence, memFence, fun _ _ _ _ => true, false)] ++
  ([(0xb0, .atomAdd), (0xb1, .atomMin), (0xb2, .atomMax), (0xb3, .atomAnd), (0xb4, .atomOr), (0xb5, .atomXor),
    (0xb6, .atomExch), (0xb7, .atomCas), (0xb8, .atomFadd), (0xb9, .xadd), (0xba, .xrd), (0xbb, .xclr)] :
      List (Nat × (Nat → Nat → BitVec 56 → Instr))).map fun r =>
    (r.1, r.2, fun k n x => (atomDesc r.1 x).run k n x, fun k x d v => d.aEligible k v x (atomDesc r.1 x).writes, false)

/-- Where byte `a` of LOCAL (space 1) or CLUSTER (space 2) lies for a convoy (R305, R307), and the byte at a place. -/
def spacePlace (d : Dev) (k : Nat) (v : Convoy) (sp a : Nat) : Nat :=
  if sp = 1 then (d.localRange k v).1 + a else coreCluster k * 2 ^ 20 + a
def spaceByte (d : Dev) (k sp p : Nat) : Byte :=
  NMap.getD (α := Byte) (if sp = 1 then (d.core k).localMem else d.stores) p 0

/-- The bytes at an address of LOCAL or CLUSTER. -/
def spaceBytes (d : Dev) (k : Nat) (v : Convoy) (sp a n : Nat) : List Byte :=
  (List.range n).map fun i => spaceByte d k sp (spacePlace d k v sp a + i)

/-- A convoy with a per-lane address instruction that may go to LOCAL or CLUSTER: every lane's address is aligned and inside
the space (R129, R130), and the cluster's store belongs to the convoy's context already (R306). -/
abbrev spaceOk (d : Dev) (k : Nat) (v : Convoy) (x sp size : Nat) (addr : Nat → Nat) : Prop :=
  (sp = 1 ∨ sp = 2 ∧ NMap.find? d.storeAsid (coreCluster k) = some (d.launchOf k v).asid) ∧
  ∀ l ∈ lanesOf (v.effective x), addr l % size = 0 ∧ addr l + size ≤ d.spaceSize k v sp

/-- `u` is `v` with the registers `vd` to `vd + n - 1` holding `f l` in each lane `l` of the effective set, lowest word first. -/
def laneWords (v u : Convoy) (x vd n : Nat) (f : Nat → Nat) : Prop :=
  { u with v := v.v } = v ∧
  (∀ l < 64, (v.effective x).getLsbD l = true → ∀ j < n, u.vr (vd + j) l = f l / 2 ^ (32 * j) % 2 ^ 32) ∧
  ∀ r l, l < 64 → (¬ (vd ≤ r ∧ r < vd + n) ∨ (v.effective x).getLsbD l = false) → u.vr r l = v.vr r l

/-- What a memory instruction on the core's or the cluster's store leaves alone: all but its convoy, the store named, the
reservations that the cluster's convoys hold on the lines it writes of the cluster store (R137), the counters of its issue
and the peak of the range tracker (R362). -/
def onlyStore (d e : Dev) (k n sp : Nat) (lost : List Nat) : Prop :=
  { e with cores := d.cores, regs := d.regs, stores := d.stores, tag := d.tag } = d ∧
  (∀ r i, r ≠ .DBG_CORE_CNT → r ≠ .CVY_RT_STATUS → e.reg r i = d.reg r i) ∧
  (∀ j m, ¬ (j = k ∧ m = n) → e.convoy? j m = (d.convoy? j m).map fun u =>
    { u with resv := u.resv.filter fun x => !(sp == 2 && j / 8 == k / 8 && lost.contains x.2) }) ∧
  (∀ j, j ≠ k → { e.core j with convoys := (d.core j).convoys } = d.core j) ∧
  { e.core k with convoys := (d.core k).convoys, localMem := (d.core k).localMem } = d.core k ∧
  (sp = 1 → e.stores = d.stores) ∧ (sp ≠ 1 → (e.core k).localMem = (d.core k).localMem)

/-- Convoy `n` of core `k` issues memory instruction `i` and goes on as `u`; of the rest only the store `sp` may change, and
its byte at place `p` becomes `b p`. `lost` are the lines it stores to. -/
def memEnds (s : State) (i : Instr) (k n sp : Nat) (lost : List Nat) (u : Convoy) (b : Nat → Byte) : Prop :=
  ∃ t, exec i s = .next t ∧ t.fuses = s.fuses ∧ t.pending = s.pending ∧ onlyStore s.dev t.dev k n sp lost ∧
    t.dev.convoy? k n = some u.next ∧ ∀ p, spaceByte t.dev k sp p = b p

end Sys2Proof.Spec

/-- O11 (R80, R97, R137): a ready convoy's memory instruction whose entry is free is carried out once on the device as issued,
its reservations taken unless it is STC: it ends, or raises the trap it meets, at its own address. -/
def Obligations.MemoryInstructionsIssue : Prop :=
  ∀ r ∈ memRows, ∀ (s : State) (k n : Nat) (w : BitVec 56) (v : Convoy),
    let x := iword r.1 w
    let v' : Convoy := if r.2.2.2.2 then v else { v with resv := [] }
    s.ready k n v = true → s.dev.roomOutstanding k n = true → r.2.2.2.1 k x s.dev v = true →
    s.ends (r.2.1 k n w)
      { Dev.conclude k n v.pc (r.2.2.1 k n x (s.dev.issued k n v v') v') with tag := none }

/-- O12 (R128, R129, R130, R338): LD and ST in LOCAL and CLUSTER space. A load gives each lane the bytes at its address, low byte
first, and a store writes each lane's bytes there, the highest lane winning; no other byte, register or convoy changes. -/
def Obligations.StoreSpaceLoadsAndStores : Prop :=
  ∀ (s : State) (k n : Nat) (w : BitVec 56) (v : Convoy), s.ready k n v = true → s.dev.roomOutstanding k n = true →
    (let x := iword 0xa0 w
     let v' : Convoy := { v with resv := [] }
     let addr (l : Nat) : Nat := v.laneAddr x (toSigned 20 (fImm20 x)) l
     s.dev.mEligible k v x false = true → formMOk x = true → v.groupWrites (fVd x) (sizeRegs x) = true →
     spaceOk s.dev k v x (fSpace x) (sizeBytes x) addr →
     ∃ u, laneWords v' u x (fVd x) (sizeRegs x)
        (fun l => loadValue x (spaceBytes s.dev k v (fSpace x) (addr l) (sizeBytes x))) ∧
      memEnds s (.ld k n w) k n (fSpace x) [] u (spaceByte s.dev k (fSpace x))) ∧
    (let x := iword 0xa1 w
     let addr (l : Nat) : Nat := v.laneAddr x (toSigned 20 (fImm20 x)) l
     let sp := fSpace x
     s.dev.mEligible k v x true = true → formMOk x = true → fSext x = false → groupReads (fVd x) (sizeRegs x) = true →
     spaceOk s.dev k v x sp (sizeBytes x) addr →
     memEnds s (.st k n w) k n sp ((lanesOf (v.effective x)).map fun l => storeLine (coreCluster k) (addr l))
      { v with resv := [] } fun p =>
      let at_ (l : Nat) : Nat := spacePlace s.dev k v sp (addr l)
      match ((lanesOf (v.effective x)).filter fun l => at_ l ≤ p && p < at_ l + sizeBytes x).getLast? with
      | some l => BitVec.ofNat 8 (v.vrs (fVd x) l (sizeRegs x) / 2 ^ (8 * (p - at_ l)))
      | none => spaceByte s.dev k sp p)

/-- O13 (R128, R315, R323, R393): LD, ST and PRF in GLOBAL space. When every lane's address translates, a load gives each lane its
bytes as the L1 answers them, poison raising cause 0x15, and a store writes the lanes' bytes; otherwise the convoy stalls at
the instruction with the pages it waits for. A prefetch brings in the lines that translate and never traps. -/
def Obligations.GlobalLoadsAndStores : Prop :=
  ∀ (s : State) (k n : Nat) (w : BitVec 56) (v : Convoy), s.ready k n v = true → s.dev.roomOutstanding k n = true →
    let v' : Convoy := { v with resv := [] }
    let d0 := (s.dev.issued k n v v').takeEntry k
    (let x := iword 0xa0 w
     let as := v'.mLanes x
     s.dev.mEligible k v x false = true → formMOk x = true → fSpace x = 0 →
     v.groupWrites (fVd x) (sizeRegs x) = true → (∀ a ∈ as, a.2 % sizeBytes x = 0) →
     (∀ d1 ps, d0.translateAll (d0.convoyReq k n v') [] (as.map (·.2)) ⟨false, false, false⟩ = (d1, .ok ps) →
      let rs := d1.globalRead k (fHint x) (sizeBytes x) ((as.zip ps).map fun a => (a.1.2, a.2))
      ((∀ r ∈ rs.2, r.2 = false) →
        ∃ u : Convoy, laneWords v' u x (fVd x) (sizeRegs x)
            (fun l => ((as.zip rs.2).find? fun a => a.1.1 == l).elim 0 fun a => loadValue x a.2.1) ∧
          s.ends (.ld k n w) { rs.1.setConvoy k n u.next with tag := none }) ∧
      (poisonLanes as rs.2 ≠ 0 →
        s.ends (.ld k n w) { rs.1.deliverTrap k n 0x15 v.pc (poisonLanes as rs.2) with tag := none })) ∧
     ∀ d1 pages got, d0.translateAll (d0.convoyReq k n v') [] (as.map (·.2)) ⟨false, false, false⟩ = (d1, .error (pages, got)) →
      ∃ st : Stall, st.word = BitVec.ofNat 64 x ∧ st.pages = pages ∧ st.got = got ∧
        s.ends (.ld k n w) { d1.setConvoy k n { v' with stall := some st } with tag := none }) ∧
    (let x := iword 0xa1 w
     let as := v'.mLanes x
     s.dev.mEligible k v x true = true → formMOk x = true → fSext x = false → fSpace x = 0 →
     groupReads (fVd x) (sizeRegs x) = true → (∀ a ∈ as, a.2 % sizeBytes x = 0) →
     ∀ d1 ps, d0.translateAll (d0.convoyReq k n v') [] (as.map (·.2)) ⟨true, false, false⟩ = (d1, .ok ps) →
      s.ends (.st k n w)
        { (d1.globalWrite k n (fHint x) ((as.zip ps).map fun a =>
            (a.1.2, a.2, leBytes (v.vrs (fVd x) a.1.1 (sizeRegs x)) (sizeBytes x)))).setConvoy k n v'.next with tag := none }) ∧
    (let x := iword 0xa3 w
     s.dev.mEligible k v x false = true → formMOk x = true → fSext x = false → fVd x = 0 →
     (fSpace x ≠ 0 → s.ends (.prf k n w) { d0.setConvoy k n v'.next with tag := none }) ∧
     (fSpace x = 0 → ∃ d1 : Dev, d1.convoy? k n = some v'.next ∧ s.ends (.prf k n w) d1))

namespace Sys2Proof.Spec

/-- An atomic of R133 on memory content m with lane operands s and c: opcode, constructor, types, whether it reads vc, and the
new content by type. -/
structure AtomRow where
  op : Nat
  con : Nat → Nat → BitVec 56 → Instr
  types : List Nat
  useC : Bool
  f : Nat → Nat → Nat → Nat → Nat

/-- A function of bit vectors of the type's width. -/
def onWidth (f : (w : Nat) → Bool → BitVec w → BitVec w → BitVec w → BitVec w) (ty m s c : Nat) : Nat :=
  (f (typeWidth ty) (typeSigned ty) (BitVec.ofNat _ m) (BitVec.ofNat _ s) (BitVec.ofNat _ c)).toNat

/-- R133: the atomics that work on an operand of their type. -/
def atomRows : List AtomRow := [
  ⟨0xb0, .atomAdd, [0, 1, 2, 3], false, onWidth fun _ _ m s _ => m + s⟩,
  ⟨0xb1, .atomMin, [0, 1, 2, 3], false, onWidth fun _ sg m s _ => if (if sg then s.slt m else s.ult m) then s else m⟩,
  ⟨0xb2, .atomMax, [0, 1, 2, 3], false, onWidth fun _ sg m s _ => if (if sg then m.slt s else m.ult s) then s else m⟩,
  ⟨0xb3, .atomAnd, [1, 3], false, onWidth fun _ _ m s _ => m &&& s⟩,
  ⟨0xb4, .atomOr, [1, 3], false, onWidth fun _ _ m s _ => m ||| s⟩,
  ⟨0xb5, .atomXor, [1, 3], false, onWidth fun _ _ m s _ => m ^^^ s⟩,
  ⟨0xb6, .atomExch, [1, 3], false, onWidth fun _ _ _ s _ => s⟩,
  ⟨0xb7, .atomCas, [1, 3], true, onWidth fun _ _ m s c => if m = c then s else m⟩,
  ⟨0xb8, .atomFadd, [4, 5], false, fun ty m s _ => (typeFmt ty).fadd .rne m s⟩]

/-- What a group of lanes at one address leaves of its content, the lanes acting in ascending order (R135). -/
def atomFold (v : Convoy) (x : Nat) (f : Nat → Nat → Nat → Nat → Nat) (ls : List Nat) (m : Nat) : Nat :=
  let ty := fAType x
  ls.foldl (fun m l => f ty m (v.val (typeRegs ty) (fVs x) l) (v.val (typeRegs ty) (fAVc x) l)) m

/-- The lanes of an atomic whose address is lane `l`'s. -/
def atomGroup (v : Convoy) (x l : Nat) : List Nat :=
  (lanesOf (v.effective x)).filter fun t => v.laneAddr x 0 t == v.laneAddr x 0 l

/-- The content of a lane's cell in LOCAL or CLUSTER before the atomic. -/
def atomOld (d : Dev) (k : Nat) (v : Convoy) (x l : Nat) : Nat :=
  leNat (spaceBytes d k v (fSpace x) (v.laneAddr x 0 l) (asizeBytes x))

/-- The byte at a place of the store after an atomic that leaves `new l` in lane `l`'s cell. -/
def atomByte (d : Dev) (k : Nat) (v : Convoy) (x : Nat) (new : Nat → Nat) (p : Nat) : Byte :=
  let at_ (l : Nat) : Nat := spacePlace d k v (fSpace x) (v.laneAddr x 0 l)
  match (lanesOf (v.effective x)).find? fun l => at_ l ≤ p && p < at_ l + asizeBytes x with
  | some l => BitVec.ofNat 8 (new l / 2 ^ (8 * (p - at_ l)))
  | none => spaceByte d k (fSpace x) p

/-- The lines of the cluster store that an atomic's lanes reach. -/
def atomLines (k : Nat) (v : Convoy) (x : Nat) : List Nat :=
  (lanesOf (v.effective x)).map fun l => storeLine (coreCluster k) (v.laneAddr x 0 l)

/-- A ready convoy whose relaxed atomic goes to LOCAL or CLUSTER, its fields in `used` beside the common ones. -/
abbrev atomReady (s : State) (k n : Nat) (v : Convoy) (x used : Nat) (write : Bool) : Prop :=
  s.ready k n v = true ∧ s.dev.roomOutstanding k n = true ∧ s.dev.aEligible k v x write = true ∧
  onlyUses x (atomFields ||| used) = true ∧ formAOk x = true ∧ fOrder x = 0 ∧
  spaceOk s.dev k v x (fSpace x) (asizeBytes x) fun l => v.laneAddr x 0 l

end Sys2Proof.Spec

/-- O14 (R133 to R135): the nine atomics of an operand's width in LOCAL and CLUSTER space. The lanes of one address act in ascending
order, each returning what stood there before it; memory holds what the last leaves, and no other byte changes. -/
def Obligations.AtomicResults : Prop :=
  ∀ r ∈ atomRows, ∀ (s : State) (k n : Nat) (w : BitVec 56) (v : Convoy),
    let x := iword r.op w
    let g := typeRegs (fAType x)
    let v' : Convoy := { v with resv := [] }
    atomReady s k n v x (fbits 21 15 ||| (if r.useC then fbits 14 8 else 0) ||| (if fRet x then fbits 50 44 else 0)) true →
    fAType x ∈ r.types → fAsize x + 1 = g → groupReads (fVs x) g = true → (r.useC = true → groupReads (fAVc x) g = true) →
    (fRet x = true → v.groupWrites (fVd x) g = true) →
    ∃ u, (if fRet x then
        laneWords v' u x (fVd x) g fun l =>
          atomFold v x r.f ((atomGroup v x l).filter (· < l)) (atomOld s.dev k v x l)
      else u = v') ∧
      memEnds s (r.con k n w) k n (fSpace x) (atomLines k v x) u
        (atomByte s.dev k v x fun l => atomFold v x r.f (atomGroup v x l) (atomOld s.dev k v x l))

/-- O15 (R134, R136, R137, R208 to R213): in CLUSTER space, XADD adds each lane's operand to its 512-bit cell exactly, XRD reads a
cell rounded once, XCLR zeroes it; LDR loads and reserves each lane's line, and STC stores where the reservation is intact
and no lower lane has taken it, says so in its predicate, and leaves no reservation. -/
def Obligations.CellAndReservationResults : Prop :=
  ∀ (s : State) (k n : Nat) (w : BitVec 56) (v : Convoy),
    let v' : Convoy := { v with resv := [] }
    (let x := iword 0xb9 w
     atomReady s k n v x (fbits 21 15) true → fAType x ∈ [4, 13, 14] → fAsize x = 2 → fSpace x = 2 → fRet x = false →
     memEnds s (.xadd k n w) k n 2 (atomLines k v x) v' (atomByte s.dev k v x fun l =>
      atomFold v x (fun ty m a _ =>
        (cellAdd (BitVec.ofNat 512 m) (cellOf (match ty with
          | 13 => fmtF16.decode (a % 2 ^ 16)
          | 14 => fmtBF16.decode (a % 2 ^ 16)
          | _ => fmtF32.decode a))).toNat) (atomGroup v x l) (atomOld s.dev k v x l))) ∧
    (let x := iword 0xba w
     let g := typeRegs (fAType x)
     atomReady s k n v x (fbits 50 44) false → fAType x ∈ [4, 5] → fAsize x = 2 → fSpace x = 2 → fRet x = true →
     v.groupWrites (fVd x) g = true →
     ∃ u, (laneWords v' u x (fVd x) g fun l => cellRead (typeFmt (fAType x)) (BitVec.ofNat 512 (atomOld s.dev k v x l))) ∧
      memEnds s (.xrd k n w) k n 2 [] u (spaceByte s.dev k 2)) ∧
    (let x := iword 0xbb w
     atomReady s k n v x 0 true → fAType x = 0 → fAsize x = 2 → fSpace x = 2 → fRet x = false →
     memEnds s (.xclr k n w) k n 2 (atomLines k v x) v' (atomByte s.dev k v x fun _ => 0)) ∧
    (let x := iword 0xc0 w
     let g := fAsize x + 1
     let line (l : Nat) : Nat := storeLine (coreCluster k) (v.laneAddr x 0 l)
     atomReady s k n v x (fbits 50 44) false → bitAt x 7 = false → fAType x ≤ 14 → fSpace x = 2 →
     asizeBytes x = max 4 (typeWidth (fAType x) / 8) → v.groupWrites (fVd x) g = true →
     ∃ u, (laneWords v' u x (fVd x) g (atomOld s.dev k v x)) ∧
      memEnds s (.ldr k n w) k n 2 []
        { u with resv := (lanesOf (v.effective x)).foldl (fun m l => NMap.insert m l (line l)) [] }
        (spaceByte s.dev k 2)) ∧
    (let x := iword 0xc1 w
     let g := fAsize x + 1
     let line (l : Nat) : Nat := storeLine (coreCluster k) (v.laneAddr x 0 l)
     let intact (l : Nat) : Bool := NMap.find? v.resv l == some (line l)
     let wins (l : Nat) : Bool := intact l &&
      !(lanesOf (v.effective x)).any fun t => t < l && line t == line l && intact t
     let won := (lanesOf (v.effective x)).filter wins
     atomReady s k n v x (fbits 21 15 ||| fbits 10 8) true → bitAt x 7 = false → fAType x ≤ 14 → fSpace x = 2 →
     asizeBytes x = max 4 (typeWidth (fAType x) / 8) → groupReads (fVs x) g = true →
     ∃ u : Convoy, v.predResult u x (fAVc x) wins ∧
      memEnds s (.stc k n w) k n 2 (won.map line) { u with resv := [] } fun p =>
        let at_ (l : Nat) : Nat := spacePlace s.dev k v 2 (v.laneAddr x 0 l)
        match won.find? fun l => at_ l ≤ p && p < at_ l + asizeBytes x with
        | some l => BitVec.ofNat 8 (v.vrs (fVs x) l g / 2 ^ (8 * (p - at_ l)))
        | none => spaceByte s.dev k 2 p)

namespace Sys2Proof.Spec

/-- The keys of a map rise strictly. -/
abbrev rising {α : Type} (m : NMap α) : Prop := m.Pairwise fun a b => a.1 < b.1

/-- The convoys of a workgroup other than the one in slot `n`. -/
def otherConvoys (d : Dev) (k n w : Nat) : List (Nat × Convoy) := (d.wgConvoys k w).filter fun x => x.1 != n

/-- The convoy that has parked all its live lanes at barrier `b`. -/
def parkedAt (v : Convoy) (b : Nat) (fence : Bool) : Convoy :=
  { v with parked := v.live, active := 0, barIdx := b, barAddr := v.pc, barFence := fence, state := .arrived }

end Sys2Proof.Spec

/-- O16 (R89 to R92, R96, R341): a BAR or BAR.F of a convoy whose every live lane then waits. Until the workgroup's other convoys
have arrived it waits, arrived; with the last arrival each goes on after its barrier, all its lanes active. BAR.F's release
has nothing to do where the convoy has no signal and its core no combined store on the way. A FENCE of a kind that releases
performs the convoy's signals, and at CORE scope or wider drains the core's combining buffer. -/
def Obligations.BarriersAndFences : Prop :=
  (∀ (fence : Bool) (s : State) (k n : Nat) (w : BitVec 56) (v : Convoy) (y : WG),
    let x := iword (if fence then 0x8e else 0x8d) w
    let i : Instr := if fence then .barF k n w else .bar k n w
    let b := fPp x
    let v1 : Convoy := if fence then { v with resv := [] } else v
    s.ready k n v = true → noGuard x = true → onlyUses x (fbits 50 48) = true → v.stack = [] → v.active ≠ 0 →
    v.parked ||| v.active = v.live → (v.parked ≠ 0 → v.barIdx = b ∧ v.barAddr = v.pc) →
    s.dev.wg? k v.wg = some y → bitAt (s.dev.reg .DBG_TRACE_CTRL y.launch.part) 63 = false →
    rising (s.dev.core k).convoys →
    (fence = true → (∀ g ∈ s.dev.signals, g.agent ≠ convoyAgent k n) ∧ (s.dev.core k).l1.combining = []) →
    ((∃ o ∈ otherConvoys s.dev k n v.wg, o.2.arrivedAt b = false) →
      ∃ t, exec i s = .next t ∧ t.dev.convoy? k n = some (parkedAt v1 b fence) ∧
        (t.dev.wg? k v.wg).map (fun z => z.arrivedAt.find? b) =
          some (some ((y.arrivedAt.find? b).getD s.dev.time)) ∧
        (∀ m, m ≠ n → t.dev.convoy? k m = s.dev.convoy? k m) ∧ ∀ j, j ≠ k → t.dev.core j = s.dev.core j) ∧
    ((∀ o ∈ otherConvoys s.dev k n v.wg, o.2.arrivedAt b = true ∧ o.2.state = .arrived) →
      ∃ t, exec i s = .next t ∧ t.dev.convoy? k n = some (parkedAt v1 b fence).release ∧
        (∀ m u, m ≠ n → s.dev.convoy? k m = some u → t.dev.convoy? k m = some (if u.wg = v.wg then u.release else u)) ∧
        ∀ j, j ≠ k → t.dev.core j = s.dev.core j)) ∧
  (∀ (s : State) (k n : Nat) (w : BitVec 56) (v : Convoy),
    let x := iword 0xc4 w
    let v' : Convoy := { v with resv := [] }
    let kind := bits x 47 45
    let scope := bits x 50 48
    s.ready k n v = true → s.dev.roomOutstanding k n = true → noGuard x = true → onlyUses x (fbits 50 45) = true →
    scope ≤ 4 → kind ≤ 3 →
    let d0 := s.dev.issued k n v v'
    let d1 := if kind = 0 then d0 else d0.release k n scope
    let d2 := if kind = 1 then d1 else d1.acquire k scope
    s.ends (.fence k n w) { (d2.countFence k).setConvoy k n v'.next with tag := none }) ∧
  ∀ (d : Dev) (k n scope : Nat),
    (∀ g ∈ (d.release k n scope).signals, g.agent ≠ convoyAgent k n) ∧
    (1 ≤ scope → ((d.release k n scope).core k).l1.combining = []) ∧
    ∀ g ∈ d.signals, g.agent ≠ convoyAgent k n → g ∈ (d.release k n scope).signals

/-- O17 (R132, R140, R364, R366): MS.ADD and MS.SET send their signal behind the others; MS.WAITGE and MS.WAITEQ go on where the
value meets the target and else put the convoy to sleep on the wait; MS.TEST reads the value after the convoy's own signals
to it; MOVD hands a descriptor to the cluster's mover. A handle the convoy may not use traps with cause 0x16. -/
def Obligations.MilestoneInstructionResults : Prop :=
  ∀ (s : State) (k n : Nat) (w : BitVec 56) (v : Convoy),
    s.ready k n v = true → s.dev.roomOutstanding k n = true →
    let v' : Convoy := { v with resv := [] }
    let d0 := s.dev.issued k n v v'
    let part := (s.dev.launchOf k v).part
    let uses (x used : Nat) : Prop := noGuard x = true ∧ onlyUses x used = true
    let h (x : Nat) : Nat := v.ur (bits x 44 39)
    let y (x : Nat) : Nat := v.ur (bits x 38 33)
    (∀ set : Bool, ∀ x, x = iword (if set then 0xc9 else 0xc8) w → uses x (fbits 44 33) →
      s.dev.msUsable part (h x) = true →
      s.ends (if set then .msSet k n w else .msAdd k n w)
        { d0.setConvoy k n v'.next with
          signals := s.dev.signals ++ [⟨convoyAgent k n, BitVec.ofNat 64 (h x), set, BitVec.ofNat 64 (y x)⟩], tag := none }) ∧
    (∀ eq : Bool, ∀ x, x = iword (if eq then 0xcb else 0xca) w → uses x (fbits 44 33) →
      s.dev.msUsable part (h x) = true →
      let i : Instr := if eq then .msWaiteq k n w else .msWaitge k n w
      let r : WaitRec := { handle := BitVec.ofNat 64 (h x), target := BitVec.ofNat 64 (y x), eq := eq, since := s.dev.time }
      ((if eq then s.dev.msVal (h x) = y x else s.dev.msVal (h x) ≥ y x) → s.instrEnds i k n v'.next) ∧
      (¬ (if eq then s.dev.msVal (h x) = y x else s.dev.msVal (h x) ≥ y x) →
        s.instrEnds i k n { v' with state := .sleeping, wait := some r })) ∧
    (∀ x, x = iword 0xcc w → uses x (fbits 50 39) → s.dev.msUsable part (h x) = true →
      let d1 := d0.flushSignals fun g => g.agent == convoyAgent k n && g.handle.toNat == h x
      ∃ u : Convoy, setU v' u (bits x 50 45) (BitVec.ofNat 64 (d1.msVal (h x))) ∧
        s.ends (.msTest k n w) { d1.setConvoy k n u.next with tag := none }) ∧
    (∀ x, x = iword 0xc8 w → uses x (fbits 44 33) → s.dev.msUsable part (h x) = false → v.active ≠ 0 →
      s.handles k v = true →
      s.instrTraps (.msAdd k n w) k n v 0x16 (v.allLanes x)) ∧
    ∀ x, x = iword 0xa2 w → uses x (fbits 50 45 ||| fbits 44 42) → bits x 44 42 ≤ 2 → v.ur (bits x 50 45) % 128 = 0 →
      let m := coreCluster k
      let q := s.dev.mover m
      s.ends (.movd k n w)
        { (d0.setMover m { q with nextId := q.nextId + 1, offers := q.offers ++ [
            { id := q.nextId, issuer := .convoy k n v.wg, ctx := s.dev.descCtx k v,
              addr := BitVec.ofNat 64 (v.ur (bits x 50 45)), space := bits x 44 42 }] }).setConvoy k n v'.next with tag := none }

/-- (R86) JSPILL in LOCAL space writes the depth and the entries, bottom first, and empties the stack; JFILL takes a stack back
from such an image, and traps where the stored depth is above 32. -/
def Sys2Proof.Spec.maskStackImages : Prop :=
  ∀ (s : State) (k n : Nat) (w : BitVec 56) (v : Convoy),
    s.ready k n v = true → s.dev.roomOutstanding k n = true →
    let v' : Convoy := { v with resv := [] }
    (let x := iword 0x8b w
     let a := v.stackAddr x
     stackForm x = true → fPp x = 1 → a % 32 = 0 → a + 32 * (v.stack.length + 1) ≤ s.dev.spaceSize k v 1 →
     s.dev.rangeFree k v 1 (lineSpan [a] (32 + 32 * v.stack.length)) true = true →
     memEnds s (.jspill k n w) k n 1 [] { v' with stack := [], spilled := v.stack } fun p =>
      match (stackBytes v.stack)[p - spacePlace s.dev k v 1 a]? with
      | some b => if spacePlace s.dev k v 1 a ≤ p then b else spaceByte s.dev k 1 p
      | none => spaceByte s.dev k 1 p) ∧
    (∀ st : List StackEntry, (stackBytes st).length = 32 * (st.length + 1) ∧
      leNat ((stackBytes st).take 8) = st.length % 2 ^ 64 ∧
      ∀ i e, st.reverse[i]? = some e → ((stackBytes st).drop (32 * (i + 1))).take 32 =
        leBytes e.mask.toNat 8 ++ leBytes e.path.toNat 8 ++ leBytes e.junction.toNat 8 ++ leBytes (if e.rejoin then 1 else 0) 8) ∧
    let x := iword 0x8c w
    let a := v.stackAddr x
    stackForm x = true → fPp x = 1 → a % 32 = 0 → s.dev.rangeFree k v 1 (lineSpan [a] 1056) false = true →
    (∀ st : List StackEntry, st.length ≤ 32 → (∀ e ∈ st, e.path0 = 0) →
      spaceBytes s.dev k v 1 a (32 * (st.length + 1)) = stackBytes st →
      a + 32 * (st.length + 1) ≤ s.dev.spaceSize k v 1 →
      ∃ st' : List StackEntry, st'.map (fun e => { e with path0 := 0 }) = st ∧
        memEnds s (.jfill k n w) k n 1 [] { v' with stack := st' } (spaceByte s.dev k 1)) ∧
    (leNat (spaceBytes s.dev k v 1 a 8) > 32 → a + 32 ≤ s.dev.spaceSize k v 1 → s.handles k v = true →
      ∃ t, exec (.jfill k n w) s = .next t ∧
        t.dev.convoy? k n = some (v.trapped 7 (v.allLanes x) (s.dev.launchOf k v).trapHandler))

/-- O18 (R84, R85, R86): the mask-stack instructions. -/
def Obligations.MaskStack : Prop := Spec.maskStackOperations ∧ Spec.maskStackImages

/-! ## The matrix array -/

namespace Sys2Proof.Spec

/-- What a matrix instruction leaves alone: all but its convoy, the array of its core and the counters of its issue. -/
def onlyArray (d e : Dev) (k n : Nat) : Prop :=
  { e with cores := d.cores, regs := d.regs, tag := d.tag } = d ∧
  (∀ r i, r ≠ .DBG_CORE_CNT → r ≠ .ARR_MMA_COUNT → e.reg r i = d.reg r i) ∧
  (∀ j, j ≠ k → e.core j = d.core j) ∧ (∀ m, m ≠ n → e.convoy? k m = d.convoy? k m) ∧
  { e.core k with convoys := (d.core k).convoys, arr := (d.core k).arr } = d.core k

/-- A matrix instruction of a ready convoy completes, the convoy as `u` and the array as `a`. -/
def arrayEnds (s : State) (i : Instr) (k n : Nat) (u : Convoy) (a : ArrayState) : Prop :=
  ∃ t, exec i s = .next t ∧ t.fuses = s.fuses ∧ t.pending = s.pending ∧ onlyArray s.dev t.dev k n ∧
    t.dev.convoy? k n = some u.next ∧ t.dev.arr k = a

/-- An element of the array's product d = A × B for row `r` and column `c`: the sum over the stored elements of the column of
their scaled values times those of the row at their positions (R163, R164, R168). -/
def dotProduct (d : Dev) (m : MmaRec) (r c : Nat) : FV :=
  fvSum ((d.colElems m c).map fun x => ((d.rowElems m r).getD x.1 (.fin false 0 0)).mul x.2)

/-- R165: element (r, c) that an MMA leaves in its tile: its product, negated by neg and divided by two to the power of the shift,
added to what stood there when it accumulates, and rounded once. -/
def mmaElement (d : Dev) (m : MmaRec) (r c : Nat) (old : Nat) : Nat :=
  let x := dotProduct d m r c
  let x := FV.unsignedZero (if bitAt m.word.toNat 27 then x.neg else x)
  let x : FV := match x with | .fin g i e => .fin g i (e - bits m.word.toNat 17 12) | y => y
  fmtF32.round .rne ((if bitAt m.word.toNat 29 then fmtF32.decode old else .fin false 0 0).add .rne x) % 2 ^ 32

end Sys2Proof.Spec

/-- O19 (R154 to R158, R143): STAGE reads an image into the back buffer, which STAGE_COMPLETE makes complete; MMA takes the buffers'
swap it asks for, reads its rows of A, and goes in flight on its physical tile. -/
def Obligations.StageAndMmaIssue : Prop :=
  (∀ (s : State) (k n : Nat) (w : BitVec 56) (v : Convoy),
    let x := iword 0xd0 w
    let v' : Convoy := { v with resv := [] }
    let fmt := bits x 41 37
    let sp := bits x 44 42
    let len := imageBytes fmt (bitAt x 36) (bitAt x 35)
    let a := s.dev.arr k
    s.ready k n v = true → s.dev.stageEligible k v x = true → noGuard x = true →
    onlyUses x (fbits 50 35 ||| fbits 19 0) = true → sp ≤ 2 → s.dev.stageOk fmt (bitAt x 36) (bitAt x 35) = true →
    v.stageAddr x % 64 = 0 →
    (sp ≠ 0 → v.stageAddr x + len ≤ s.dev.spaceSize k v sp →
      (sp = 2 → NMap.find? s.dev.storeAsid (coreCluster k) = some (s.dev.launchOf k v).asid) →
      arrayEnds s (.stage k n w) k n v'
        { a with
          owner := some v.wg, stageHeld := false, stagedSinceSwap := true, back := { a.back with filled := false },
          stage := some (StatBuf.ofImage fmt (bitAt x 36) (bitAt x 35) (s.dev.fmtDesc fmt).codebook
            (spaceBytes s.dev k v sp (v.stageAddr x) len)) }) ∧
    (sp = 0 → ∀ d1 ps d2 bs,
      let d0 := s.dev.issued k n v v'
      let vas := pieces (v.stageAddr x) len
      d0.translateAll (d0.convoyReq k n v') [] (vas.map (·.1)) ⟨false, false, false⟩ = (d1, .ok ps) →
      d1.blockRead k (vas.zip ps) = (d2, bs, false) →
      s.ends (.stage k n w)
        { ((d2.setArr k { d2.arr k with
            owner := some v.wg, stageHeld := false, stagedSinceSwap := true, back := { (d2.arr k).back with filled := false },
            stage := some (StatBuf.ofImage fmt (bitAt x 36) (bitAt x 35) (s.dev.fmtDesc fmt).codebook bs) }).coreEvent k 8).setConvoy
              k n v'.next with tag := none })) ∧
  (∀ (s : State) (k : Nat) (b : StatBuf),
    let a := s.dev.arr k
    s.live = true → coreOk k = true → a.stage = some b →
    (a.stageHeld = false → s.ends (.stageComplete k) (s.dev.setArr k { a with back := b, stage := none })) ∧
    (a.stageHeld = true → a.replay = none →
      s.ends (.stageComplete k) (s.dev.setArr k { a with front := b, stage := none, stageHeld := false }))) ∧
  ∀ (s : State) (k n : Nat) (w : BitVec 56) (v : Convoy) (tile : Nat),
    let x := iword 0xd1 w
    let v' : Convoy := { v with resv := [] }
    let a := s.dev.arr k
    let a1 : ArrayState := if bitAt x 30 then { a with front := a.back, back := a.front, stagedSinceSwap := false } else a
    s.ready k n v = true → s.dev.mmaEligible k v x = true → mmaForm x = true → (∀ c ∈ s.dev.mmaCauses k v x, c.2 = 0) →
    (s.dev.convoyWg k v).tile (bits x 50 48) = some tile →
    ∃ m : MmaRec, arrayEnds s (.mma k n w) k n v' { a1 with inflight := a.inflight ++ [m] } ∧
      m.slot = n ∧ m.wg = v.wg ∧ m.pc = v.pc ∧ m.word = BitVec.ofNat 64 x ∧ m.eff = v.effective x ∧ m.tile = tile ∧
      m.buf = a1.front ∧ m.usedBack = bitAt x 30 ∧ m.replay = false ∧ m.launch = s.dev.launchOf k v ∧
      m.a.length = 64 ∧
      ∀ r < 64, m.a[r]? = some (if (v.effective x).getLsbD r then v.vrs (bits x 47 41) r (if bitAt x 28 then 16 else 8) else 0)

/-- O20 (R160, R163 to R165, R174, R176 to R178, R216, R219): an undisturbed MMA completes with its rows written and its sentinel
counts added; one whose checks fail is held for its replay with its tile poisoned. MMA_REPLAY issues the replay, and a clean
one writes the rows again, clears the poison and puts back what it cancelled. -/
def Obligations.MmaCompletionAndReplay : Prop :=
  (∀ (s : State) (k : Nat) (m : MmaRec) (rest : List MmaRec),
    let a := s.dev.arr k
    s.live = true → coreOk k = true → a.inflight = m :: rest → s.dev.injection k = [] → m.tile < 8 →
    ∃ t, exec (.mmaComplete k []) s = .next t ∧ (t.dev.arr k).inflight = rest ∧
      (∀ r c, r < 64 → c < 32 → (t.dev.arr k).elem m.tile r c =
        if m.eff.getLsbD r then mmaElement s.dev m r c (a.elem m.tile r c) else a.elem m.tile r c) ∧
      (∀ y r c, y ≠ m.tile → r < 64 → c < 32 → (t.dev.arr k).elem y r c = a.elem y r c) ∧
      bits ((t.dev.arr k).stat m.tile) 31 16 = min 0xffff (bits (a.stat m.tile) 31 16 + (s.dev.sentinels m).1) ∧
      bits ((t.dev.arr k).stat m.tile) 47 32 = min 0xffff (bits (a.stat m.tile) 47 32 + (s.dev.sentinels m).2.1) ∧
      t.dev.mem = s.dev.mem) ∧
  (∀ (s : State) (k : Nat) (m : MmaRec) (rest : List MmaRec) (dist : List (Nat × Nat × Nat)),
    let a := s.dev.arr k
    let good := s.dev.products m
    s.live = true → coreOk k = true → disturbOk dist = true → a.inflight = m :: rest → s.dev.injection k = [] →
    badRows good (disturb good dist) dist ≠ [] →
    ∃ t, exec (.mmaComplete k dist) s = .next t ∧ (t.dev.arr k).inflight = [] ∧ (t.dev.arr k).cancelled = rest ∧
      (t.dev.arr k).replay = some { m with old := a.tileOf m.tile, injected := false } ∧
      bitAt ((t.dev.arr k).stat m.tile) 0 = true) ∧
  (∀ (s : State) (k : Nat) (m : MmaRec),
    let a := s.dev.arr k
    s.live = true → coreOk k = true → a.replay = some m → m.replay = false →
    s.ends (.mmaReplay k) (s.dev.setArr k { a with replay := some { m with replay := true } })) ∧
  ∀ (s : State) (k : Nat) (m : MmaRec),
    let a := s.dev.arr k
    let i := s.dev.injection k
    s.live = true → coreOk k = true → a.replay = some m → m.replay = true → (m.injected = false ∨ i = []) → m.tile < 8 →
    rising m.old →
    bitAt (s.dev.reg .DBG_TRACE_CTRL m.launch.part) 63 = false →
    ∃ t, exec (.replayComplete k []) s = .next t ∧ (t.dev.arr k).replay = none ∧ (t.dev.arr k).inflight = a.cancelled ∧
      (t.dev.arr k).cancelled = [] ∧ bitAt ((t.dev.arr k).stat m.tile) 0 = false ∧
      t.dev.fld F.ARR_TRANSIENT_COUNT_count k = (s.dev.count F.ARR_TRANSIENT_COUNT_count k).fld F.ARR_TRANSIENT_COUNT_count k ∧
      ∀ r c, r < 64 → c < 32 → m.eff.getLsbD r = true → (t.dev.arr k).elem m.tile r c =
        mmaElement s.dev m r c (NMap.getD (α := BitVec 32) m.old (tileKey m.tile r c) 0).toNat

/-- O21 (R142 to R144, R162, R225): TRD and TWR move tile columns to and from V registers in the effective set, TZERO clears a tile
and its status, TSTAT reads the status; a poisoned tile is not read. A diversion restores its tile and enters the detour with
the MMA's address and the next in U62 and U63. -/
def Obligations.TileAccessAndDiversion : Prop :=
  (∀ (s : State) (k n : Nat) (w : BitVec 56) (v : Convoy) (op tile : Nat),
    let x := iword op w
    let v' : Convoy := { v with resv := [] }
    let a := s.dev.arr k
    let c0 := bits x 40 36
    let r0 := bits x 50 44
    let cols := bits x 35 31 + 1
    s.ready k n v = true → (s.dev.convoyWg k v).tile (bits x 43 41) = some tile → tile < 8 → s.dev.tileFree k tile = true →
    (op = 0xd4 → onlyUses x (fbits 50 31) = true → c0 + cols ≤ 32 → r0 + cols ≤ min 128 v.vRegs →
      (bitAt (a.stat tile) 0 = false → ∃ u : Convoy, s.instrEnds (.trd k n w) k n u.next ∧ { u with v := v'.v } = v' ∧
        (∀ l < 64, (v.effective x).getLsbD l = true → ∀ j < cols, u.vr (r0 + j) l = a.elem tile l (c0 + j)) ∧
        ∀ r l, l < 64 → (¬ (r0 ≤ r ∧ r < r0 + cols) ∨ (v.effective x).getLsbD l = false) → u.vr r l = v.vr r l) ∧
      (bitAt (a.stat tile) 0 = true → v.active ≠ 0 → s.handles k v = true →
        s.instrTraps (.trd k n w) k n v 0x21 (v.allLanes x))) ∧
    (op = 0xd5 → onlyUses x (fbits 50 31) = true → c0 + cols ≤ 32 → r0 + cols ≤ 128 →
      ∃ b : ArrayState, arrayEnds s (.twr k n w) k n v' b ∧ { b with tiles := a.tiles } = a ∧
        ∀ y r c, r < 64 → c < 32 → b.elem y r c =
          if y = tile ∧ (v.effective x).getLsbD r = true ∧ c0 ≤ c ∧ c < c0 + cols then v.vr (r0 + (c - c0)) r
          else a.elem y r c) ∧
    (op = 0xd6 → onlyUses x (fbits 43 41) = true →
      ∃ b : ArrayState, arrayEnds s (.tzero k n w) k n v' b ∧ { b with tiles := a.tiles, status := a.status } = a ∧
        (∀ y, b.stat y = if y = tile then 0 else a.stat y) ∧
        ∀ y r c, r < 64 → c < 32 → b.elem y r c = if y = tile then 0 else a.elem y r c) ∧
    (op = 0xd7 → onlyUses x (fbits 43 41 ||| fbits 30 25) = true →
      ∃ u : Convoy, s.instrEnds (.tstat k n w) k n u.next ∧ setU v' u (bits x 30 25) (BitVec.ofNat 64 (a.stat tile)))) ∧
  ∀ (s : State) (k n : Nat) (v : Convoy) (z : Diversion),
    let l := s.dev.launchOf k v
    let a := s.dev.arr k
    s.live = true → convoyOk k n = true → s.dev.convoy? k n = some v → v.divert = some z → v.pendTrap = none →
    v.saveForm = 0 → v.state = .running → v.haltReq = false → z.tile < 8 → rising z.old →
    bitAt (s.dev.reg .DBG_TRACE_CTRL l.part) 63 = false →
    ∃ t u, exec (.diversion k n) s = .next t ∧ t.dev.convoy? k n = some u ∧ u.pc = l.detourEntry ∧ u.detouring = true ∧
      u.divert = none ∧ u.ur 62 = z.pc.toNat ∧ u.ur 63 = (z.pc + 8).toNat ∧
      (∀ r, r < 62 → u.ur r = v.ur r) ∧ (∀ r i, u.vr r i = v.vr r i) ∧ (∀ p, u.pr p = v.pr p) ∧ u.active = v.active ∧
      bitAt ((t.dev.arr k).stat z.tile) 1 = true ∧ bitAt ((t.dev.arr k).stat z.tile) 2 = false ∧
      ∀ y r c, r < 64 → c < 32 → (t.dev.arr k).elem y r c =
        if y = z.tile ∧ z.rows.getLsbD r = true then (NMap.getD (α := BitVec 32) z.old (tileKey y r c) 0).toNat
        else a.elem y r c

/-! ## Workgroups and the debugger -/

namespace Sys2Proof.Spec

/-- What a debugger's register window asks before it acts: the device open to register writes, and the core awake, so that no
wake begins. -/
abbrev windowReady (s : State) (k : Nat) : Prop :=
  s.open_ = true ∧ coreOk k = true ∧ (s.dev.core k).gated = false ∧ s.dev.fld F.PWR_CLUSTER_STATUS_state (coreCluster k) = 0

/-- A command changes the convoys of a core, each to what `f` makes of it, and of the rest only the core's registers of a list
and the watch tables. -/
def convoysEnd (s : State) (i : Instr) (k : Nat) (f : Nat → Option Convoy → Option Convoy) (rs : List Reg := []) : Prop :=
  ∃ t, exec i s = .next t ∧ t.fuses = s.fuses ∧ t.pending = s.pending ∧
    { t.dev with cores := s.dev.cores, watch := s.dev.watch, regs := s.dev.regs } = s.dev ∧
    (∀ r j, ¬ (r ∈ rs ∧ j = k) → t.dev.reg r j = s.dev.reg r j) ∧ (∀ j, j ≠ k → t.dev.core j = s.dev.core j) ∧
    (∀ n, t.dev.convoy? k n = f n (s.dev.convoy? k n)) ∧
    { t.dev.core k with convoys := (s.dev.core k).convoys } = s.dev.core k

/-- R100: a convoy that a halt request reaches: one that waits halts at once, its milestone wait abandoned, and a running one
halts at its next boundary. -/
def haltForm (v : Convoy) : Convoy :=
  match v.state with
  | .running => { v with haltReq := true }
  | .sleeping => { v with state := .halted, resume := .running, wait := none }
  | .arrived => { v with state := .halted, resume := .arrived }
  | .held => { v with state := .halted, resume := .held }
  | _ => v

/-- R102: a halted convoy goes back to what it was doing, and with `one` halts again after one instruction. -/
def resumeForm (one : Bool) (v : Convoy) : Convoy :=
  if v.state = .halted ∨ v.state = .haltedOnTrap then
    { v with state := v.resume, resume := .running, haltReq := one, stepping := one }
  else v

end Sys2Proof.Spec

/-- O22 (R100, R102): halt, resume and step requests of CVY_DBG_CTRL act on the convoys of the slots they name and on nothing else;
a running convoy with a halt request and nothing in flight reads halted. -/
def Obligations.ConvoyHaltResumeAndStep : Prop :=
  (∀ (s : State) (k : Nat) (m : BitVec 16), windowReady s k →
    convoysEnd s (.cvyDbgHalt k m) k (fun n v => if m.getLsbD n then v.map haltForm else v) ∧
    convoysEnd s (.cvyDbgResume k m) k (fun n v => if m.getLsbD n then v.map (resumeForm false) else v) ∧
    convoysEnd s (.cvyDbgStep k m) k (fun n v => if m.getLsbD n then v.map (resumeForm true) else v)) ∧
  ∀ (s : State) (k n : Nat) (v : Convoy), s.live = true → convoyOk k n = true → s.dev.convoy? k n = some v →
    v.state = .running → v.haltReq = true → v.stepping = false → v.stall = none → v.divert = none → v.pendTrap = none →
    s.dev.inFlight k n = false →
    convoysEnd s (.convoyHalted k n) k fun m u =>
      if m = n then some { v with state := .halted, resume := .running, haltReq := false } else u

/-- O23 (R83, R90, R95, R101): CVY_REG_SEL reads and writes a halted convoy's registers and refuses any other; a mask write that
keeps R83 is taken and one that breaks it is refused; a barrier released by hand lets its waiting convoys go on. -/
def Obligations.DebuggerRegisterAccess : Prop :=
  ∀ (s : State) (k : Nat), windowReady s k →
    (∀ (sel : BitVec 30) (v : Convoy),
      let x := sel.toNat
      let lane := bits x 21 16
      let i := bits x 6 0
      let n := bits x 27 24
      s.dev.convoy? k n = some v →
      (v.state = .halted ∨ v.state = .haltedOnTrap →
        (∀ y, v.readSel x = some y → ∃ e, s.ends (.cvyRegRead k sel) e ∧
          s.dev.onlyRegsAt e [.CVY_REG_SEL, .CVY_REG_DATA] k ∧ e.reg .CVY_REG_DATA k = y % 2 ^ 64) ∧
        (bits x 23 22 = 0 → v.readSel x = some (v.vr i lane)) ∧
        (bits x 23 22 = 1 → i < 64 → v.readSel x = some (v.ur i)) ∧
        (bits x 23 22 = 2 → ∃ y, v.readSel x = some y ∧ ∀ p, bitAt y p = decide (p < 8 ∧ (v.pr p).getLsbD lane = true)) ∧
        (bits x 23 22 = 0 → i < v.vRegs → convoysEnd s (.cvyRegWrite k sel) k
          (fun m u => if m = n then some (v.setVr i lane (s.dev.reg .CVY_REG_DATA k)) else u) [.CVY_REG_SEL]) ∧
        (bits x 23 22 = 1 → i < 64 → convoysEnd s (.cvyRegWrite k sel) k
          (fun m u => if m = n then some (v.setUr i (s.dev.reg .CVY_REG_DATA k)) else u) [.CVY_REG_SEL])) ∧
      (v.state = .running → ∃ e, s.ends (.cvyRegWrite k sel) e ∧ s.dev.onlyRegsAt e [.CVY_REG_SEL] k ∧
        e.fld F.CVY_REG_SEL_error k = 1)) ∧
    (∀ (n : Nat) (v : Convoy) (x : Word), convoyOk k n = true → s.dev.convoy? k n = some v →
      (v.state = .halted → v.masksOk = true → convoysEnd s (.cvyMaskWrite k n 0 x) k
        fun m u => if m = n then some { v with pc := x } else u) ∧
      (v.state = .halted → v.resume = .running → v.parked = 0 → x &&& ~~~v.live = 0 →
        convoysEnd s (.cvyMaskWrite k n 1 x) k fun m u => if m = n then some { v with active := x } else u) ∧
      (v.state = .running ∨ x &&& ~~~v.live ≠ 0 → s.ends (.cvyMaskWrite k n 1 x) (s.dev.setFld F.CVY_REG_SEL_error k 1))) ∧
    ∀ (w b : Nat) (y : WG), w < 16 → b < 8 → s.dev.wg? k w = some y →
      bitAt (s.dev.reg .DBG_TRACE_CTRL y.launch.part) 63 = false →
      (∃ x ∈ s.dev.wgConvoys k w, x.2.parked ≠ 0 ∧ x.2.barIdx = b) →
      ∃ t, exec (.cvyBarRelease k w (BitVec.ofNat 8 (2 ^ b))) s = .next t ∧
        ∀ n v, s.dev.convoy? k n = some v → t.dev.convoy? k n =
          some (if v.wg = w ∧ v.parked ≠ 0 ∧ v.barIdx = b ∧ v.waiting = true then v.release else v)

/-- O24 (R72, R73, R75, R77, R166, R306): a workgroup is placed where its core has room: its convoys start in free slots at the
entry point, U0 holding the arguments and the rest of their registers zero, its local store and its tiles cleared. -/
def Obligations.WorkgroupPlacementStartsConvoys : Prop :=
  ∀ (s : State) (k p : Nat) (y : Launch) (x : Chunk) (rest : List Chunk),
    let c := coreCluster k
    let l := y.info
    let no := x.no * y.chunkSize + x.begun
    s.live = true → coreOk k = true → s.dev.clusterPart c = some p → s.dev.nextLaunch p c = some y →
    y.queueOf c = x :: rest → s.dev.coreFits k l = true →
    (∀ q ∈ [p, l.part], bitAt (s.dev.reg .DBG_TRACE_CTRL q) 63 = false) → (∃ w < 16, s.dev.wg? k w = none) →
    ∃ t w off, exec (.workgroupPlacement k) s = .next t ∧ w < 16 ∧ s.dev.wg? k w = none ∧
      (∃ z, t.dev.wg? k w = some z ∧ z.launch = l ∧ z.coord = l.coordOf no ∧ z.count = l.convoys ∧ z.done = 0 ∧
        z.localOff = off ∧ popCount z.tiles 8 = l.tiles ∧
        ∀ i < 8, bitAt z.tiles i = true → bitAt (s.dev.core k).tileMask i = false ∧
          (t.dev.arr k).stat i = 0 ∧ ∀ r c, r < 64 → c < 32 → (t.dev.arr k).elem i r c = 0) ∧
      (∀ i < l.convoys, ∃ n < 16, s.dev.convoy? k n = none ∧
        t.dev.convoy? k n = some (startConvoy l w i (s.dev.flag F.CVY_DBG_CTRL_halt_on_launch k || s.dev.freezeHalts l.part))) ∧
      (∀ a, off ≤ a → a < off + l.localBytes → NMap.getD (α := Byte) (t.dev.core k).localMem a 0 = 0) ∧
      (∀ n v, s.dev.convoy? k n = some v → t.dev.convoy? k n = some v) ∧
      (∀ z, s.dev.wg? k z ≠ none → t.dev.wg? k z = s.dev.wg? k z) ∧ ∀ j, j ≠ k → t.dev.core j = s.dev.core j

/-! ## Tensor movers and check-value units -/

/-- O25 (R237, R240, R262, R263): an offer that breaks no rule and whose descriptor is read becomes the mover's newest descriptor,
its regions held in the issuing core's range tracker; one that breaks a rule is dropped with its cause recorded; a
descriptor written out completes with its record, then its counts and its milestone's signal, and leaves the mover. -/
def Obligations.DescriptorAcceptAndComplete : Prop :=
  (∀ (s : State) (m id : Nat) (o : Offer) (d1 : Dev) (x : LineData) (bad : Bool),
    let d0 : Dev := { s.dev with tag := some o.ctx.tag }
    let es := d1.rangesOf o.ctx id x.toNat
    s.live = true → moverOk m = true → (s.dev.mover m).offers.find? (fun y => y.id == id) = some o → o.id = id →
    o.stalled = false → (s.dev.mover m).queued < moverDepth m → d0.offerFirst m o = true → d0.offerBeyond m o = false →
    d0.readOffer m o = (d1, some (x, bad)) →
    (bad = false → d1.refusal m o.ctx x.toNat = none → d1.rangesFree o.issuer es = true →
      ∃ e, s.ends (.descriptorAccept m id) e ∧
        (e.mover m).offers = (d1.mover m).offers.filter (fun y => y.id != id) ∧
        (e.mover m).descs = (d1.mover m).descs ++ [{ id := id, issuer := o.issuer, ctx := o.ctx, raw := x }] ∧
        (∀ j, j ≠ m → e.mover j = d1.mover j) ∧
        (∀ k, o.issuer.core? = some k → (e.core k).ranges = (d1.core k).ranges ++ es)) ∧
    (∀ c, bad = false → d1.refusal m o.ctx x.toNat = some c →
      ∃ e, s.ends (.descriptorAccept m id) e ∧ (∀ y ∈ (e.mover m).offers, y.id ≠ id) ∧
        e.reg .MOV_FAULT_INFO m % 2 ^ 15 = c)) ∧
  ∀ (s : State) (m id : Nat) (y : Desc) (d1 : Dev),
    let d0 : Dev := { s.dev with tag := some y.ctx.tag }
    let r := y.raw.toNat
    s.live = true → moverOk m = true → (s.dev.mover m).descs.find? (fun z => z.id == id) = some y → y.id = id →
    y.written = true → y.stalled = false → d0.writeRecord m y = (d1, true) →
    bitAt (d1.reg .DBG_TRACE_CTRL y.ctx.part) 63 = false →
    ∃ e, s.ends (.descriptorComplete m id) e ∧ (∀ z ∈ (e.mover m).descs, z.id ≠ id) ∧
      e.signals = d1.signals ++ (if mMsEn r then
        [⟨moverAgent m, BitVec.ofNat 64 (mMs r), false, BitVec.ofNat 64 (if mMsBytes r then y.bytes else 1)⟩] else []) ∧
      e.fld F.MOV_DESC_COUNT_count m = (d1.count F.MOV_DESC_COUNT_count m).fld F.MOV_DESC_COUNT_count m ∧
      ∀ k, y.issuer.core? = some k → ∀ g ∈ (e.core k).ranges, g.desc ≠ id

namespace Sys2Proof.Spec

/-- The mover's operations by their code (R239). -/
def moveRows : List (Nat × (Nat → Nat → Instr)) :=
  [(0, .copy), (1, .transpose), (2, .window), (3, .gather), (4, .scatter), (5, .fill)]

/-- Coordinate `j` lies in a tensor of sizes `n`. -/
def coordIn (n j : Coord) : Prop := j.1 < n.1 ∧ j.2.1 < n.2.1 ∧ j.2.2.1 < n.2.2.1 ∧ j.2.2.2 < n.2.2.2

end Sys2Proof.Spec

/-- O26 (R238, R247 to R250, R265): a descriptor that may run reads its inputs, writes its outputs and is marked written; where a
page does not translate it stalls with nothing written. COPY takes each element from its own place, TRANSPOSE swaps the two
inner coordinates, WINDOW takes it from its window or the fill, GATHER through the index tensor, SCATTER from the last source
element whose index names it, and FILL from the fill value. -/
def Obligations.MoverOperations : Prop :=
  (∀ o ∈ moveRows, ∀ (s : State) (m id : Nat) (y : Desc),
    let d0 : Dev := { s.dev with tag := some y.ctx.tag }
    let r := y.raw.toNat
    s.live = true → moverOk m = true → (s.dev.mover m).descs.find? (fun z => z.id == id) = some y → y.id = id → mOp r = o.1 →
    (s.dev.mover m).mayRun m y = true →
    (∀ d1 got i d2 got' ats, d0.movInputs m y y.got = (d1, got, some i) →
      d1.mapOuts (y.ctx.req m id) got (outPlaces r (d1.movOuts r i).1) [] = (d2, got', some ats) →
      ∃ e z, s.ends (o.2 m id) e ∧ z ∈ (e.mover m).descs ∧ z.id = id ∧ z.written = true ∧ z.started = true ∧
        z.stalled = false ∧ z.raw = y.raw ∧ z.dropped = min (droppedWrites r i.idx) 0xffff) ∧
    (∀ d1 got, d0.movInputs m y y.got = (d1, got, none) →
      s.ends (o.2 m id)
        { d1.setMover m ((d1.mover m).setDesc { y with started := true, stalled := true, got := got }) with tag := none })) ∧
  ∀ (r : Nat) (idx : List Nat) (j : Coord),
    let n := mDstSizes r
    let at_ (c : Coord) : Option Nat := indexOf r (idx.getD (coordAt c (mAxis r)) 0)
    (mOp r = 0 → coordIn n j → (j, Origin.src j) ∈ origins r idx) ∧
    (mOp r = 1 → coordIn n j → (j, Origin.src (j.2.1, j.1, j.2.2)) ∈ origins r idx) ∧
    (mOp r = 2 → coordIn n j → (j, windowOrigin r j) ∈ origins r idx) ∧
    (mOp r = 3 → coordIn n j →
      (j, match at_ j with
        | some i => Origin.src (coordSet j (mAxis r) i)
        | none => Origin.fill) ∈ origins r idx) ∧
    (mOp r = 4 → ∀ c i, coordIn (mSrcSizes r) c → at_ c = some i →
      ∃ c', (coordSet c (mAxis r) i, Origin.src c') ∈ origins r idx ∧ coordIn (mSrcSizes r) c' ∧
        (at_ c').map (coordSet c' (mAxis r)) = some (coordSet c (mAxis r) i) ∧
        coordIndex (mSrcSizes r) c ≤ coordIndex (mSrcSizes r) c') ∧
    (mOp r = 5 → coordIn n j → (j, Origin.fill) ∈ origins r idx)

/-- O27 (R267, R269 to R271): a go starts a scan with its initial value, or ends it at once where nothing is to be read, its
milestone is bad or it is too long, and is refused while one runs; suspend and abort stop it at its boundary; a scan that
has read everything is done and signals; poison ends it as a fault. -/
def Obligations.CheckValueScans : Prop :=
  ∀ (s : State) (u : Nat), cvuOk u = true →
    let d := s.dev
    let st := d.cvuState u
    let len := d.fld F.MOV_CVU_LENGTH_length u
    let ms := d.flag F.MOV_CVU_CTRL_ms_en u
    (s.open_ = true →
      (st = 1 ∨ st = 2 → s.ends (.cvuGo u) (d.setFld F.MOV_CVU_STATUS_busy_reject u 1)) ∧
      (st ≠ 1 → st ≠ 2 → ∃ e, s.ends (.cvuGo u) e ∧
        e.reg .MOV_CVU_VALUE u =
          (if d.flag F.MOV_CVU_CTRL_init u then crcEmpty (d.fld F.MOV_CVU_CTRL_poly u) % 2 ^ 64 else d.reg .MOV_CVU_VALUE u) ∧
        e.cvuState u = (if d.cvuBadMs u = true ∨ len > 2 ^ 40 then 5 else if len = 0 then 4 else 1) ∧
        e.fld F.MOV_CVU_STATUS_fault u = (if d.cvuBadMs u then 3 else if len > 2 ^ 40 then 4 else 0) ∧
        e.signals = d.signals ++ (if d.cvuBadMs u = false ∧ len = 0 ∧ ms = true then
          [⟨cvuAgent u, BitVec.ofNat 64 (d.reg .MOV_CVU_MS u), false, 1⟩] else [])) ∧
      (st = 1 → s.ends (.cvuSuspend u) (d.setFld F.MOV_CVU_STATUS_state u 2) ∧
        s.ends (.cvuAbort u) ({ d with cvuAborting := insSorted u d.cvuAborting }.setFld F.MOV_CVU_STATUS_state u 2)) ∧
      (st ≠ 1 → s.ends (.cvuSuspend u) d ∧ s.ends (.cvuAbort u) d)) ∧
    (s.live = true → d.cvuStalled.contains u = false →
      (∀ n, let e := d.cvuScan u (n + 1)
        st = 2 → e.cvuState u = 2 → e.cvuStalled.contains u = false → e.fld F.MOV_CVU_LENGTH_length u ≠ 0 →
        (e.cvuAborting.contains u = false → s.ends (.cvuStop u n) (e.setFld F.MOV_CVU_STATUS_state u 3)) ∧
        (e.cvuAborting.contains u = true →
          s.ends (.cvuStop u n) ({ e with cvuAborting := e.cvuAborting.erase u }.setFld F.MOV_CVU_STATUS_state u 6))) ∧
      (let e := d.cvuScan u (d.cvuAll u)
       st = 1 ∨ st = 2 →
        (e.cvuState u = 1 ∨ e.cvuState u = 2 → e.fld F.MOV_CVU_LENGTH_length u = 0 →
          ∃ g, s.ends (.cvuScanDone u) g ∧ g.cvuState u = 4 ∧ g.mem = e.mem ∧ g.signals = e.signals ++
            (if e.flag F.MOV_CVU_CTRL_ms_en u then [⟨cvuAgent u, BitVec.ofNat 64 (e.reg .MOV_CVU_MS u), false, 1⟩] else [])) ∧
        (e.cvuState u = 5 → s.ends (.cvuScanFault u) e))) ∧
    ∀ e, d.cvuFold u = (e, .folded) → len ≤ 2 ^ 40 → len ≠ 0 →
      let a := d.reg .MOV_CVU_START u
      let k := min len (128 - a % 128)
      e.reg .MOV_CVU_START u = (a + k) % 2 ^ 64 ∧ e.fld F.MOV_CVU_LENGTH_length u = len - k ∧
      ∃ bs : List Byte, bs.length = k ∧ e.reg .MOV_CVU_VALUE u =
        crcContinue (d.fld F.MOV_CVU_CTRL_poly u) (d.reg .MOV_CVU_VALUE u) bs % 2 ^ 64

/-! ## Vaults, homes and caches -/

/-- O28 (R275, R283 to R286): a refresh closes every row of its vault and a line of a vault that is not active is not refreshed; a
scrub corrects a line with one wrong symbol in place, and marks a line with more than one poisoned; a row close closes its
bank's row alone. -/
def Obligations.VaultMaintenance : Prop :=
  ∀ (s : State) (v : Nat), s.live = true → v < 200 →
    let d := s.dev
    let x := d.vaults.getD v {}
    (∀ lost, upsetsOk lost = true →
      (d.vaultAwake v = false → s.ends (.refresh v lost) d) ∧
      (d.vaultAwake v = true → ∃ e, s.ends (.refresh v lost) e ∧ e.vaults.getD v {} = { x with open_ := [] } ∧
        (∀ y, y ≠ v → e.vaults.find? y = d.vaults.find? y) ∧
        (lost = [] → e.upsets = d.upsets) ∧
        (∀ l sym mask, lost = [(l, sym, mask)] →
          e.upsets.getD (v * 2 ^ 23 + l) [] = combineErrs (d.upsets.getD (v * 2 ^ 23 + l) []) [(sym, mask)]) ∧
        ∀ l, (∀ y ∈ lost, l ≠ v * 2 ^ 23 + y.1) → e.upsets.getD l [] = d.upsets.getD l [])) ∧
    (∀ line, line < 2 ^ 23 → d.vaultAwake v = true → d.flag F.VLT_INJECT_arm v = false →
      let l := v * 2 ^ 23 + line
      ∃ e, s.ends (.patrolScrub v line) e ∧ (∀ y, e.memByte y = d.memByte y) ∧
        (∀ y, y ≠ l → e.isPoison y = d.isPoison y ∧ e.upsets.getD y [] = d.upsets.getD y []) ∧
        (d.upsets.getD l [] = [] → e.isPoison l = d.isPoison l ∧ e.upsets.getD l [] = []) ∧
        (∀ sym mask, d.upsets.getD l [] = [(sym, mask)] → mask ≠ 0 → e.upsets.find? l = none ∧ e.isPoison l = d.isPoison l ∧
          e.fld F.VLT_CE_COUNT_count v = (d.count F.VLT_CE_COUNT_count v).fld F.VLT_CE_COUNT_count v ∧
          e.fld F.VLT_ECC_LAST_symbol v = sym % 128) ∧
        ∀ ys, d.upsets.getD l [] = ys → combineErrs ys [] = ys → 2 ≤ ys.length → ys.length ≤ 7 →
          e.upsets.find? l = none ∧ e.isPoison l = true ∧
          e.fld F.VLT_UE_COUNT_count v = (d.count F.VLT_UE_COUNT_count v).fld F.VLT_UE_COUNT_count v) ∧
    ∀ bank, bank < 64 → ∃ e, s.ends (.rowClose v bank) e ∧ { e with vaults := d.vaults } = d ∧
      (e.vaults.getD v {}).open_.find? bank = none ∧
      (∀ b, b ≠ bank → (e.vaults.getD v {}).open_.find? b = x.open_.find? b) ∧
      ∀ y, y ≠ v → e.vaults.getD y {} = d.vaults.getD y {}

namespace Sys2Proof.Spec

/-- A request of agent `a` on line `l` finds the home free: the line has a home, none of it is in flight, and nothing waits. -/
abbrev homeFree (d : Dev) (a l : Nat) : Prop :=
  d.homed l = true ∧ d.txn l = none ∧ (d.home (lineHome l)).queue = [] ∧ (d.agent a).victim.find? l = none

/-- A caching agent has room for a new line without an eviction: a Qorriop L2, or a free way of the line's set. -/
def l2Room (d : Dev) (a l : Nat) : Prop :=
  a ≥ 200 ∨ ∃ w < d.fld F.DIR_L2_CONFIG_cache_ways a, ∀ y ∈ (d.agent a).setLines (l2Set l), y.2.way ≠ w

/-- An agent's copy of a line: its state, bytes and poison. -/
def copyOf (d : Dev) (a l : Nat) : Option (LineSt × LineData × Bool) :=
  ((d.agent a).find l).map fun x => (x.st, x.data, x.poison)

/-- An entry that says a line has one holder, which owns it. -/
def soleOwner (e : Option DirEntry) (a : Nat) : Prop :=
  ∃ y, e = some y ∧ y.st = .X ∧ y.owner = some a ∧ y.coarse = false ∧ y.sharers = []

end Sys2Proof.Spec

/-- O29 (R318 to R321, R324, R325): requests at a home whose line is free. A line no agent holds is answered from memory: GetS gives
it in E, GetM in M. One that another agent owns is forwarded to it. An upgrade by the only holder gives it M at once, and
with other holders invalidates them. A snoop read and an invalidating write of an unheld line act on memory alone. The
supplier chosen is a candidate of least distance. -/
def Obligations.HomeRequests : Prop :=
  (∀ (s : State) (a l key : Nat), s.live = true → homeFree s.dev a l →
    let d := s.dev
    let m := d.readMem l key
    (cachingOk a l key = true → (d.agent a).find l = none →
      (∀ w, d.entry l = none → d.dirWay l = .inl w → d.hostHolds l = false → l2Room d a l →
        (∃ e, s.ends (.getS a l key) e ∧ copyOf e a l = some (.E, m.2.1, m.2.2) ∧ soleOwner (e.entry l) a ∧ e.txn l = none) ∧
        ∃ e, s.ends (.getM a l key) e ∧ copyOf e a l = some (.M, m.2.1, m.2.2) ∧ soleOwner (e.entry l) a ∧ e.txn l = none) ∧
      (∀ o, o ≠ a → soleOwner (d.entry l) o →
        (∃ e, s.ends (.getS a l key) e ∧ e.txn l = some { req := ⟨l, a, .getS, key⟩, fwd := some o } ∧ copyOf e o l = copyOf d o l) ∧
        ∃ e, s.ends (.getM a l key) e ∧
          e.txn l = some { req := ⟨l, a, .getM, key⟩, fwd := some o, backInv := d.hostHolds l })) ∧
    (∀ x y, cachingOk a l key = true → (d.agent a).find l = some x → x.st = .S ∨ x.st = .O → d.entry l = some y →
      y.st ≠ .X → y.names a = true → d.hostHolds l = false →
      ((y.holders.filter fun b => b != a) = [] →
        ∃ e, s.ends (.upgrade a l key) e ∧ copyOf e a l = some (.M, x.data, x.poison) ∧ soleOwner (e.entry l) a ∧ e.txn l = none) ∧
      ((y.holders.filter fun b => b != a) ≠ [] →
        ∃ e, s.ends (.upgrade a l key) e ∧ copyOf e a l = copyOf d a l ∧
          e.txn l = some { req := ⟨l, a, .upgrade, key⟩, toInv := y.holders.filter fun b => b != a })) ∧
    (ioAgentOk a = true → lineOk l = true → key < 64 →
      (d.entry l = none → ∃ e, s.ends (.snoopRead a l key) e ∧ e.entry l = none ∧ e.txn l = none ∧ (∀ b, copyOf e b l = copyOf d b l) ∧
        ∀ y, e.memByte y = d.memByte y) ∧
      (∀ o, soleOwner (d.entry l) o →
        ∃ e, s.ends (.snoopRead a l key) e ∧ e.txn l = some { req := ⟨l, a, .snoop, key⟩, fwd := some o }) ∧
      ∀ x : BitVec 1024,
        (d.entry l = none → d.hostHolds l = false → d.keyLoaded key = true → d.poison.Nodup →
          ∃ e, s.ends (.invalidatingWrite a l key x) e ∧ e.rawLine l = d.encrypt key l x ∧ e.isPoison l = false ∧
            e.entry l = none ∧ e.txn l = none ∧ ∀ y, y / 128 ≠ l → e.memByte y = d.memByte y) ∧
        (∀ z, d.entry l = some z → z.holders ≠ [] → ∃ e, s.ends (.invalidatingWrite a l key x) e ∧
          e.txn l = some { req := ⟨l, a, .invWrite x fullMask false, key⟩, toInv := z.holders, backInv := d.hostHolds l }))) ∧
  ∀ (e : DirEntry) (l a : Nat), e.coarse = false → (∀ b, e.owner = some b → b < 224) → (isStacked l = true ∨ lineChannel l < 32) →
    (∀ b, chooseSupplier e l a = some b → b ≠ a ∧ (e.owner = some b ∨ b ∈ e.sharers ∧ b < 200)) ∧
    ∀ b, b ≠ a → (e.owner = some b ∨ b ∈ e.sharers ∧ b < 200) →
      hops (agentPos a) (match chooseSupplier e l a with | some c => agentPos c | none => memPos l) ≤
        hops (agentPos a) (agentPos b)

/-- O30 (R320 to R322, R325, R328, R412): what an agent does with a message. A forward for GetS leaves the owner a sharer, or the
owner of a dirty line, and gives the requester the line in S; one for GetM takes the copy away and gives it in M, but waits
where the owner holds the line for its atomics; a snoop forward changes no state. An invalidation drops the copy, and the last
acknowledgement completes the request. A clean holder's notify and a dirty one's write back end its copy, the latter storing
the line. -/
def Obligations.ForwardsInvalidationsAndEvictions : Prop :=
  (∀ (s : State) (l o a key : Nat) (t : HomeTxn) (x : L2Line) (y : DirEntry),
    let d := s.dev
    s.live = true → lineOk l = true → d.txn l = some t → t.req.line = l → t.req.agent = a → t.req.key = key →
    t.fwd = some o → t.toInv = [] → t.acks = [] → t.backInv = false → t.next = none →
    (d.home (lineHome l)).queue = [] → a ≠ o → (d.agent a).find l = none → l2Room d a l → (d.agent o).find l = some x →
    d.entry l = some y → y.st = .X → y.owner = some o → y.coarse = false → y.sharers = [] →
    (t.req.op = .getS → a < 300 →
      ∃ e z, s.ends (.forwardedRead l) e ∧ e.txn l = none ∧
        copyOf e a l = some (.S, x.data, x.poison) ∧
        copyOf e o l = some (match x.st with | .E => .S | .M => .O | u => u, x.data, x.poison) ∧
        e.entry l = some z ∧ z.coarse = false ∧
        (if x.st = .M ∨ x.st = .O then z.st = .O ∧ z.owner = some o ∧ z.sharers = [a]
         else z.st = .S ∧ z.owner = none ∧ z.sharers = insSorted a [o])) ∧
    (t.req.op = .getM → a < 300 → (d.agent o).hold.contains l = false →
      ∃ e, s.ends (.forwardedExclusiveRead l) e ∧ e.txn l = none ∧ copyOf e o l = none ∧
        copyOf e a l = some (.M, x.data, x.poison) ∧ soleOwner (e.entry l) a) ∧
    (t.req.op = .getM → (d.agent o).hold.contains l = true → s.ends (.forwardedExclusiveRead l) d) ∧
    (t.req.op = .snoop →
      ∃ e, s.ends (.forwardedSnoopRead l) e ∧ e.txn l = none ∧ copyOf e o l = copyOf d o l ∧ e.entry l = some y)) ∧
  (∀ (s : State) (l b : Nat) (t : HomeTxn), s.live = true → lineOk l = true → s.dev.txn l = some t → t.req.line = l →
    (b < 224 → b ∈ t.toInv →
      ∃ e u, s.ends (.invalidate l b) e ∧ copyOf e b l = none ∧ e.txn l = some u ∧ u.toInv = t.toInv.erase b ∧
        u.acks = t.acks ++ [b]) ∧
    (∀ x, b < 224 → t.acks = [b] → t.toInv = [] → t.fwd = none → t.backInv = false → t.next = none → t.req.op = .upgrade →
      (s.dev.home (lineHome l)).queue = [] → (s.dev.agent t.req.agent).find l = some x →
      ∃ e, s.ends (.acknowledgement l b) e ∧ e.txn l = none ∧ soleOwner (e.entry l) t.req.agent ∧
        copyOf e t.req.agent l = some (.M, x.data, x.poison)) ∧
    (t.backInv = true → (t.fwd ≠ none ∨ t.toInv ≠ [] ∨ t.acks ≠ []) →
      ∃ e, s.ends (.backInvalidateResponse l) e ∧ e.txn l = some { t with backInv := false } ∧ e.hostHolds l = false)) ∧
  ∀ (s : State) (a l : Nat) (x : L2Line), s.live = true → cachingOk a l 0 = true → homeFree s.dev a l →
    (s.dev.agent a).find l = some x →
    (x.st = .E ∨ x.st = .S →
      ∃ e, s.ends (.notify a l) e ∧ copyOf e a l = none ∧ e.entry l = (s.dev.entry l).bind (·.remove a) ∧
        ∀ y, e.memByte y = s.dev.memByte y) ∧
    (x.st = .M ∨ x.st = .O → ∀ y, s.dev.entry l = some y → y.owner = some a → s.dev.keyLoaded x.key = true →
      ∃ e, s.ends (.writeBack a l) e ∧ copyOf e a l = none ∧ e.entry l = y.remove a ∧
        e.rawLine l = s.dev.encrypt x.key l x.data ∧ ∀ z, z / 128 ≠ l → e.memByte z = s.dev.memByte z) ∧
    (x.st = .M ∨ x.st = .O → s.ends (.notify a l) s.dev) ∧ (x.st = .E ∨ x.st = .S → s.ends (.writeBack a l) s.dev)

/-- O31 (R309, R312, R313, R316, R328, R329): a tracker nothing continues starts again; an idle combining entry goes to the cluster's
L2; a prefetched line waits in the L2's side buffer; a flush empties an L2 and ends once its victims are acknowledged; a hold for
atomics ends. -/
def Obligations.CacheEvents : Prop :=
  ∀ (s : State), let d := s.dev
    (s.live = true →
      (∀ k i t, coreOk k = true → i < 4 → (d.l1 k).trackers[i]? = some t →
        s.ends (.storeTrackerTimeout k i)
          (d.setL1 k { d.l1 k with trackers := (d.l1 k).trackers.set i { t with count := 0, noAlloc := false } })) ∧
      (∀ k l x y, coreOk k = true → isHost l = false → (d.l1 k).combining.find? (fun z => z.line == l) = some y →
        (d.agent (coreCluster k)).lines.find? l = some x → x.st = .M ∨ x.st = .E →
        ∃ e, s.ends (.combiningIdleDrain k l) e ∧
          e.l1 k = { d.l1 k with combining := (d.l1 k).combining.filter (fun z => z.line != l) } ∧
          copyOf e (coreCluster k) l = some (.M, mergeLine x.data y.data y.mask, x.poison && y.mask != fullMask)) ∧
      (∀ c l key w, c < 200 → l < 2 ^ 40 → key < 64 → homeFree d c l → (d.agent c).find l = none → d.entry l = none →
        d.dirWay l = .inl w → d.hostHolds l = false → (d.agent c).side.length < 64 →
        (∀ y ∈ (d.home (lineHome l)).txns, y.2.next = none) →
        ∃ e, s.ends (.l2Prefetch c l key) e ∧ copyOf e c l = some (.E, (d.readMem l key).2.1, (d.readMem l key).2.2) ∧
          (e.agent c).lines.find? l = none ∧ (e.agent c).side.length = (d.agent c).side.length + 1 ∧ soleOwner (e.entry l) c) ∧
      (∀ c, c < 200 → ((d.agent c).victim = [] → s.ends (.l2FlushComplete c) (d.setFld F.DIR_FLUSH_busy c 0)) ∧
        ((d.agent c).victim ≠ [] → s.ends (.l2FlushComplete c) d)) ∧
      ∀ a l, a < 224 → s.ends (.ownershipHoldExpiry a l) (d.setAgent a { d.agent a with hold := (d.agent a).hold.erase l })) ∧
    ∀ c, c < 200 → s.open_ = true → d.fld F.PWR_CLUSTER_STATUS_state c = 0 →
      (d.flag F.DIR_FLUSH_busy c = true → s.ends (.l2Flush c) d) ∧
      (d.flag F.DIR_FLUSH_busy c = false → ∃ e, s.ends (.l2Flush c) e ∧ e.flag F.DIR_FLUSH_busy c = true ∧
        (∀ l, copyOf e c l = none) ∧ ∀ k, coreCluster k = c → (e.l1 k).combining = [])

/-! ## Milestones -/

namespace Sys2Proof.Spec

/-- R366: the value a list of signals leaves, in their order. -/
def signalled (v : Nat) (l : List Signal) : Nat :=
  l.foldl (fun v x => if x.isSet then x.operand.toNat else (v + x.operand.toNat) % 2 ^ 64) v

/-- R368: a wait as a value that milestone `h` takes leaves it. -/
def seen (h v : Nat) (w : WaitRec) : WaitRec :=
  { w with satisfied := w.satisfied || (w.registered && !w.polling && w.handle.toNat == h &&
      if w.eq then v == w.target.toNat else decide (w.target.toNat ≤ v)) }

/-- R372: the wait a name stands for is over: its convoy runs on from the next word, its core ungated, or its command waits no
more. -/
def waitOver (d e : Dev) (r : WaitRef) : Prop :=
  match r with
  | .convoy k n => ∃ v, d.convoy? k n = some v ∧
      e.convoy? k n = some ({ v with state := .running, wait := none, pc := v.pc + 8 } : Convoy).stepEnd ∧
      (e.core k).gated = false ∧ (e.core k).halfRate = ((d.core k).halfRate || (d.core k).gated)
  | .command a q seq i => e.cmdWait a q seq i = none

/-- The launch of the convoy that waits is not traced. -/
def untraced (d : Dev) (r : WaitRef) : Prop :=
  ∀ k n v, r = .convoy k n → d.convoy? k n = some v → bitAt (d.reg .DBG_TRACE_CTRL (d.launchOf k v).part) 63 = false

end Sys2Proof.Spec

/-- O32 (R366 to R368): an Add or a Set whose turn it is changes its milestone, and every subscribed wait of a convoy or a command
that the new value meets is satisfied; one that an earlier signal of its agent to the milestone holds back changes nothing. A
Test applies its agent's own signals first. -/
def Obligations.SignalsReachTheirMilestone : Prop :=
  ∀ (s : State), s.live = true → let d := s.dev
    (∀ i x, d.signals[i]? = some x →
      let c : Instr := if x.isSet then .milestoneSet i else .milestoneAdd i
      let h := x.handle.toNat
      let v := signalled (d.msVal h) [x]
      ((∃ y ∈ d.signals.take i, y.agent = x.agent ∧ y.handle = x.handle) → s.ends c d) ∧
      ((∀ y ∈ d.signals.take i, ¬ (y.agent = x.agent ∧ y.handle = x.handle)) →
        ∃ e, s.ends c e ∧ e.signals = d.signals.eraseIdx i ∧ e.msVal h = v ∧ (∀ g, g ≠ h → e.msVal g = d.msVal g) ∧
          e.fld F.MS_OP_COUNT_count (handleHome h) =
            (d.count F.MS_OP_COUNT_count (handleHome h)).fld F.MS_OP_COUNT_count (handleHome h) ∧
          (∀ k n u, d.convoy? k n = some u → e.convoy? k n = some { u with wait := u.wait.map (seen h v) }) ∧
          (∀ a q, (e.queue a q).fetched = (d.queue a q).fetched.map fun y =>
            { y with wait0 := y.wait0.map (seen h v), wait1 := y.wait1.map (seen h v) }) ∧
          e.watch = d.watch ∧ e.mem = d.mem)) ∧
    (∀ i x, d.signals[i]? = some x → s.ends (if x.isSet then .milestoneAdd i else .milestoneSet i) d) ∧
    ∀ a (h : Word), handleOk h.toNat = true →
      ∃ e, s.ends (.milestoneTest a h) e ∧
        e.signals = d.signals.filter (fun x => !(x.agent == a && x.handle == h)) ∧
        e.msVal h.toNat = signalled (d.msVal h.toNat) (d.signals.filter fun x => x.agent == a && x.handle == h) ∧
        ∀ g, g ≠ h.toNat → e.msVal g = d.msVal g

/-- O33 (R368 to R372): a wait that reaches its home ends where its condition holds, shares its core's subscription, takes a new one, or
polls where 1,024 are held; a satisfied wait ends; a poll ends the wait, takes a place that has come free, or leaves all as
it is. -/
def Obligations.WaitsAtTheirHome : Prop :=
  ∀ (s : State) (r : WaitRef) (sub : Nat) (w : WaitRec), s.live = true → waitRefOk r = true →
    s.dev.findWait r = some (sub, w) → untraced s.dev r →
    let d := s.dev
    let v := d.msVal w.handle.toNat
    let met := if w.eq then v = w.target.toNat else w.target.toNat ≤ v
    let home := handleHome w.handle.toNat
    let l := d.watch.getD home []
    let shared := ∃ y ∈ l, y.handle = w.handle ∧ y.core = sub
    (w.registered = false → w.satisfied = false → let w' : WaitRec := { w with registered := true, since := d.time }
      (met → ∃ e, s.ends (.waitRegistration r) e ∧ waitOver d e r) ∧
      (¬ met → shared → ∃ e, s.ends (.waitRegistration r) e ∧ e.findWait r = some (sub, w') ∧ e.watch = d.watch) ∧
      (¬ met → ¬ shared → l.length < 1024 → ∃ e, s.ends (.waitRegistration r) e ∧ e.findWait r = some (sub, w') ∧
        e.watch.getD home [] = l ++ [⟨w.handle, sub⟩] ∧ ∀ j, j ≠ home → e.watch.getD j [] = d.watch.getD j []) ∧
      (¬ met → ¬ shared → 1024 ≤ l.length → ∃ e, s.ends (.waitRegistration r) e ∧
        e.findWait r = some (sub, { w' with polling := true }) ∧ e.watch = d.watch ∧
        e.fld F.MS_WATCH_OVERFLOW_count home = (d.count F.MS_WATCH_OVERFLOW_count home).fld F.MS_WATCH_OVERFLOW_count home)) ∧
    (w.registered = true → s.ends (.waitRegistration r) d) ∧
    (w.satisfied = true → ∃ e, s.ends (.waitSatisfied r) e ∧ waitOver d e r) ∧
    (w.satisfied = false → s.ends (.waitSatisfied r) d) ∧
    (w.registered = true → w.polling = true → w.satisfied = false →
      (met → ∃ e, s.ends (.waitPoll r) e ∧ waitOver d e r) ∧
      (¬ met → shared → ∃ e, s.ends (.waitPoll r) e ∧ e.findWait r = some (sub, { w with polling := false }) ∧ e.watch = d.watch) ∧
      (¬ met → ¬ shared → l.length < 1024 → ∃ e, s.ends (.waitPoll r) e ∧ e.findWait r = some (sub, { w with polling := false }) ∧
        e.watch.getD home [] = l ++ [⟨w.handle, sub⟩]) ∧
      (¬ met → ¬ shared → 1024 ≤ l.length → ∃ e, s.ends (.waitPoll r) e ∧ e.findWait r = some (sub, w) ∧ e.watch = d.watch))

/-- O34 (R373, R375, R378 to R381): a core all of whose convoys sleep on unsatisfied waits gates; a wait or barrier that reaches the
period is reported once, in the ring where the partition's watchdog is enabled; MS_OP tests, adds and sets the milestone in
MS_SEL; a forced wake ends a sleeping convoy's wait. -/
def Obligations.GatingWatchdogAndAccessRegisters : Prop :=
  (∀ (s : State), s.live = true → let d := s.dev
    (∀ k, coreOk k = true →
      ((d.core k).convoys ≠ [] ∧ (∀ y ∈ (d.core k).convoys, y.2.state = .sleeping ∧ ∃ w, y.2.wait = some w ∧ w.satisfied = false) →
        s.ends (.coreGate k) (d.setCore k { d.core k with gated := true, halfRate := false })) ∧
      (∀ y ∈ (d.core k).convoys, y.2.state ≠ .sleeping → s.ends (.coreGate k) d)) ∧
    (∀ k n v w, convoyOk k n = true → d.sleeper k n = some (v, w) →
      let l := (d.convoyWg k v).launch
      let g := d.setConvoy k n { v with wait := some { w with hung := true } }
      let c : Instr := .watchdogHang (.wait (.convoy k n))
      (w.registered = true → w.hung = false → w.satisfied = false →
        (d.flag F.MS_WDOG_CTRL_enable l.part = false → s.ends c g) ∧
        (d.flag F.MS_WDOG_CTRL_enable l.part = true → ∀ base size, d.ring .MS_WDOG_RING l.part = some (base, size) →
          let free := ringFree (d.fld F.MS_WDOG_HEAD_index l.part) (d.fld F.MS_WDOG_TAIL_index l.part) size
          (free = 0 → s.ends c ((g.count F.MS_WDOG_DROPPED_count l.part).setFld F.MS_WDOG_STATUS_dropped l.part 1)) ∧
          (0 < free → ∃ e, s.ends c e ∧
            e.fld F.MS_WDOG_HEAD_index l.part = (d.fld F.MS_WDOG_HEAD_index l.part % size + 1) % size))) ∧
      (w.registered = false ∨ w.hung = true ∨ w.satisfied = true → s.ends c d)) ∧
    (∀ a q seq i w c, a < 64 → q < 64 → i < 2 → (d.queue a q).fetched.find? (fun y => y.seq == seq) = some c →
      d.cmdWait a q seq i = some w → w.registered = true → w.hung = false → w.satisfied = false →
      d.flag F.MS_WDOG_CTRL_enable (d.ctxPart a) = false →
      s.ends (.watchdogHang (.wait (.command a q seq i))) (d.setCmdWait a q seq i (some { w with hung := true }))) ∧
    ∀ k w b x t, coreOk k = true → w < 16 → b < 8 → d.wg? k w = some x → NMap.find? x.arrivedAt b = some t →
      (b ∈ x.hungBars → s.ends (.watchdogHang (.barrier k w b)) d) ∧
      (b ∉ x.hungBars → d.flag F.MS_WDOG_CTRL_enable x.launch.part = false →
        s.ends (.watchdogHang (.barrier k w b)) (d.setWg k w { x with hungBars := insSorted b x.hungBars }))) ∧
  ∀ (s : State), s.open_ = true → let d := s.dev
    let h := d.reg .MS_SEL 0
    (∀ o ∈ [(0, Instr.msOpTest), (1, Instr.msOpAdd), (2, Instr.msOpSet)],
      (handleOk h = true → ∃ e, s.ends o.2 e ∧ e.fld F.MS_OP_op 0 = o.1 ∧ e.fld F.MS_OP_error 0 = 0 ∧
        e.msVal h = (if o.1 = 0 then d.msVal h else if o.1 = 1 then (d.msVal h + d.reg .MS_OPERAND 0) % 2 ^ 64
          else d.reg .MS_OPERAND 0) ∧
        e.reg .MS_VALUE 0 = e.msVal h ∧ e.signals = d.signals) ∧
      (handleOk h = false → s.ends o.2 ((d.setFld F.MS_OP_op 0 o.1).setFld F.MS_OP_error 0 1)))

/-! ## Translation and keys -/

namespace Sys2Proof.Spec

/-- Partition `p`'s next well-formed response record is `rec`, and `d` is the device as the reading of it leaves it. -/
def nextResponse (s : State) (p : Nat) (d : Dev) (rec : List Byte) : Prop :=
  s.live = true ∧ p < 16 ∧ (s.dev.skipBad p 20000).response p 0 = (d, some rec)

/-- That record answers request `r`, which still counts, and no further request waits for its place. -/
def answers (d : Dev) (p : Nat) (rec : List Byte) (r : XltReq) : Prop :=
  d.outstanding p (rTag rec) = some r ∧ rAsid rec = r.asid ∧ r.dead = false ∧ r.overlapped = false ∧ (d.xltPart p).waiting = []

/-- `n` records have been read of the response ring. -/
def readOn (d e : Dev) (p n : Nat) : Prop :=
  ∀ base size, d.ring .XLT_RSP_RING p = some (base, size) →
    e.fld F.XLT_RSP_HEAD_index p = (d.fld F.XLT_RSP_HEAD_index p + n) % size % 2 ^ 14

/-- The outstanding requests but for one. -/
def without (d : Dev) (p tag : Nat) : List XltReq := (d.xltPart p).out.filter fun y => y.tag != tag

/-- R405: an invalidation of a form reaches a page, of size `2 ^ z`, of a context. -/
def inScope (form asid page count a p z : Nat) : Prop :=
  match form with
  | 0 => a = asid ∧ ∃ q, page ≤ q ∧ q < page + count ∧ q / 2 ^ (z - 12) = p / 2 ^ (z - 12)
  | 1 => a = asid
  | _ => True

end Sys2Proof.Spec

/-- O35 (R393, R396 to R399, R401, R402, R404): what a response does. A MAP of a valid leaf is installed and its waiters go on, a
stalled convoy once no page of its instruction is awaited; RETRY sends the request again, as a timeout does; UNRESOLVABLE
faults the context and the convoy that waits takes cause 0x14; DECLINE ends a prefill; a pushed pair is installed. -/
def Obligations.TranslationResponses : Prop :=
  (∀ (s : State) (p : Nat) (d : Dev) (rec : List Byte), nextResponse s p d rec →
    (∀ r, answers d p rec r →
      let e0 := rEntry rec
      let t : TlbEntry := { asid := r.asid, page := r.page, size := leafSize e0 (rLevel rec), entry := BitVec.ofNat 64 e0, age := 1 }
      (rStatus rec = 0 → rLevel rec ≤ 2 → leafOk e0 (rLevel rec) (r.page * 4096) = true → d.keyPolicy r.asid e0 = true →
        (r.kind = 5 → (d.placeLine p (ptePlacement e0) (t.offset (r.page * 4096))).isSome = true) →
        ((∀ w ∈ r.waiters, ∀ k n, w ≠ .convoy k n) →
          ∃ e, s.ends (.map p) e ∧ readOn d e p 1 ∧ (e.xltPart p).out = without d p r.tag ∧ (∃ x ∈ (e.xltPart p).cache, x.2 = t) ∧
            (∀ m i, Waiter.mover m i ∈ r.waiters → ∀ y ∈ (e.mover m).descs, y.id = i → y.stalled = false) ∧
            e.ctxFaulted r.asid = d.ctxFaulted r.asid) ∧
        (∀ k n v st, r.waiters = [.convoy k n] → d.stalledOn k n r.asid r.page = some (v, st) →
          (∃ q ∈ st.pages, q ≠ r.page) →
          ∃ e, s.ends (.map p) e ∧ readOn d e p 1 ∧ (e.xltPart p).out = without d p r.tag ∧ (∃ x ∈ (e.xltPart p).cache, x.2 = t) ∧
            e.convoy? k n = some { v with stall := some { st with
              pages := st.pages.filter (fun q => q != r.page), got := st.got ++ [t] } })) ∧
      (rStatus rec = 1 → ((d.responded p 1).retireReq p r.tag).mayPost p = true →
        ∃ e y, s.ends (.retry p) e ∧ readOn d e p 1 ∧ (e.xltPart p).out = without d p r.tag ++ [y] ∧
          { y with tag := r.tag, since := r.since } = r) ∧
      (rStatus rec = 2 → r.kind ≠ 4 → d.ctxFaulted r.asid = false →
        ∀ k n v st g, r.waiters = [.convoy k n] → d.stalledOn k n r.asid r.page = some (v, st) → d.wg? k v.wg = some g →
          d.flag F.CVY_DBG_CTRL_halt_on_trap k = true →
          (∀ q < 64, ∀ z ∈ (d.queue r.asid q).granted, z.done = true ∨ g.launch.isCmd r.asid q z.cmd.seq = true) →
          ∃ e, s.ends (.unresolvable p) e ∧ e.ctxFaulted r.asid = true ∧ e.fld F.XLT_CTX_STATUS_kind r.asid = r.kind % 256 ∧
            e.fld F.XLT_CTX_STATUS_cause r.asid = 1 ∧ e.reg .XLT_CTX_FAULT_VA r.asid = r.page * 4096 % 2 ^ 64 ∧
            e.convoy? k n = some { v with
              trap := some ⟨0x14, v.pc, v.lanesOn st.word.toNat r.page⟩, pendTrap := none, resv := [], stall := none, wait := none,
              state := .haltedOnTrap, resume := .running, stepping := false, haltReq := false } ∧
            (∀ q < 64, e.qState r.asid q = if d.qState r.asid q = 1 ∨ d.qState r.asid q = 2 then 3 else d.qState r.asid q) ∧
            ∀ y ∈ (e.xltPart p).out, y.asid = r.asid → y.dead = true) ∧
      (rStatus rec = 3 → r.kind = 4 → r.waiters = [] →
        ∃ e, s.ends (.decline p) e ∧ readOn d e p 1 ∧ (e.xltPart p).out = without d p r.tag ∧
          (e.xltPart p).cache = (d.xltPart p).cache)) ∧
    (rStatus rec = 4 → rTag rec = 0xffff → ∀ d2 m, d.response p 1 = (d2, some m) → rFormOk m = true → rStatus m = 0 →
      rTag m = 0xffff → rLevel m = rLevel rec → rAsid m = rAsid rec → pushOk (rEntry rec) (rLevel rec) = true → rAsid rec < 64 →
      leafOk (rEntry m) (rLevel rec) (rEntry rec) = true → d2.keyPolicy (rAsid rec) (rEntry m) = true →
      ∃ e, s.ends (.pushVa p) e ∧ readOn d2 e p 2 ∧ ∃ x ∈ (e.xltPart p).cache, x.2.asid = rAsid rec ∧
        x.2.page = rEntry rec / 4096 ∧ x.2.entry = BitVec.ofNat 64 (rEntry m))) ∧
  (∀ (s : State) (p : Nat) (tail : BitVec 14), s.open_ = true → p < 16 →
    s.ends (.responseTailWrite p tail) (s.dev.setFld F.XLT_RSP_TAIL_index p tail.toNat)) ∧
  ∀ (s : State) (p tag : Nat) (r : XltReq), s.live = true → p < 16 → tag < 2 ^ 16 → s.dev.outstanding p tag = some r →
    (s.dev.fld F.XLT_REQ_CTRL_timeout p = 0 → s.ends (.requestTimeout p tag) s.dev) ∧
    (s.dev.fld F.XLT_REQ_CTRL_timeout p ≠ 0 → r.dead = false → (s.dev.xltPart p).waiting = [] →
      (s.dev.retireReq p tag).mayPost p = true →
      ∃ e y, s.ends (.requestTimeout p tag) e ∧ e.fld F.XLT_PSTATUS_stuck p = 1 ∧
        (e.xltPart p).out = without s.dev p tag ++ [y] ∧ bitAt y.flags 3 = true ∧ y.page = r.page ∧ y.waiters = r.waiters)

/-- O36 (R403, R405 to R409): an invalidation leaves no translation in its scope in any cache and marks the requests it overlaps; it
completes once none is awaited, and another go meanwhile is lost. A key-encryption key is loaded once; a load of a key slot gives
its result, and the key reaches the controllers with KEY_OP_COMPLETE. -/
def Obligations.InvalidationAndKeys : Prop :=
  (∀ (s : State) (form asid count : Nat) (c : Instr), s.open_ = true →
    (form, asid, count, c) ∈ [(0, asid, count, .invalidationRange asid count), (1, asid, 1, .invalidationContext asid),
      (2, 0, 1, .invalidationDevice)] → asid < 64 → 1 ≤ count → count ≤ 65536 →
    let d := s.dev
    let hit := inScope form asid (d.fld F.XLT_INV_VA_addr 0) count
    (d.flag F.XLT_INV_STATUS_busy 0 = false → ∃ e, s.ends c e ∧ e.fld F.XLT_INV_STATUS_busy 0 = 1 ∧
      (∀ k, ∀ x ∈ (e.core k).tlb, ¬ hit x.2.asid x.2.page x.2.size) ∧
      (∀ j, ∀ x ∈ e.clusterTlb.getD j [], ¬ hit x.2.asid x.2.page x.2.size) ∧
      (∀ m, ∀ x ∈ e.moverTlb.getD m [], ¬ hit x.2.asid x.2.page x.2.size) ∧
      (∀ p, (∀ x ∈ (e.xltPart p).cache, ¬ hit x.2.asid x.2.page x.2.size) ∧
        (∀ x ∈ (d.xltPart p).cache, ¬ hit x.2.asid x.2.page x.2.size → x ∈ (e.xltPart p).cache) ∧
        ∀ y ∈ (e.xltPart p).out, hit y.asid y.page (if y.kind = 4 then y.prefillSize else 12) → y.overlapped = true) ∧
      e.mem = d.mem ∧ ∀ j, e.agent j = d.agent j) ∧
    (d.flag F.XLT_INV_STATUS_busy 0 = true → ∃ e, s.ends c e ∧ d.onlyRegs e [.XLT_INV_CTRL])) ∧
  (∀ (s : State) (i : Inval) (rest : List Inval), s.live = true → s.dev.inval = i :: rest →
    ((∃ y ∈ s.dev.xlt, ∃ r ∈ y.2.out, r.overlapped = true) → s.ends .invalidationComplete s.dev) ∧
    ((∀ y ∈ s.dev.xlt, ∀ r ∈ y.2.out, r.overlapped = false) → ∃ e, s.ends .invalidationComplete e ∧ e.inval = [] ∧
      e.fld F.XLT_INV_STATUS_busy 0 = 0 ∧ e.fld F.XLT_INV_STATUS_done 0 = 1 ∧
      e.fld F.XLT_INV_STATUS_completed 0 = (s.dev.fld F.XLT_INV_STATUS_completed 0 + 1) % 2 ^ 16)) ∧
  (∀ (s : State), s.open_ = true → let d := s.dev
    (∀ a, a < 64 → s.ends (.clearFault a) (d.setFld F.XLT_CTX_STATUS_faulted a 0)) ∧
    (d.flag F.XLT_KEK_CTRL_locked 0 = true → s.ends .kekLoad d) ∧
    (d.flag F.XLT_KEK_CTRL_locked 0 = false → ∃ e, s.ends .kekLoad e ∧ e.fld F.XLT_KEK_CTRL_locked 0 = 1 ∧
      e.kek = some (BitVec.ofNat 256 (leNat ((List.range 4).flatMap fun i => leBytes (d.reg .XLT_KEK i) 8)))) ∧
    ∀ slot, slot < 64 →
      (d.flag F.XLT_KEY_STATUS_busy 0 = true → ∃ e, s.ends (.keyLoad slot) e ∧ d.onlyRegs e [.XLT_KEY_CTRL]) ∧
      (d.flag F.XLT_KEY_STATUS_busy 0 = false →
        let raw := (List.range 9).flatMap fun i => leBytes (d.reg .XLT_KEY_DATA i) 8
        (d.kek = none → ∃ e, s.ends (.keyLoad slot) e ∧ d.onlyRegs e [.XLT_KEY_CTRL, .XLT_KEY_STATUS] ∧
          e.fld F.XLT_KEY_STATUS_result 0 = 1) ∧
        (∀ k, d.kek = some k → kwUnwrap k (raw.map BitVec.toNat) = none →
          ∃ e, s.ends (.keyLoad slot) e ∧ d.onlyRegs e [.XLT_KEY_CTRL, .XLT_KEY_STATUS] ∧ e.fld F.XLT_KEY_STATUS_result 0 = 2) ∧
        (∀ k y, d.kek = some k → kwUnwrap k (raw.map BitVec.toNat) = some y →
          ∃ e, s.ends (.keyLoad slot) e ∧
            (let same := bits y.toNat 511 256 = bits y.toNat 255 0
             e.fld F.XLT_KEY_STATUS_result 0 = (if same then 3 else if slot = 0 then 4 else 0) ∧
             e.keyOp = (if same ∨ slot = 0 then d.keyOp else some (slot, some y)) ∧ e.keys = d.keys ∧
             e.fld F.XLT_KEY_STATUS_busy 0 = (if same ∨ slot = 0 then 0 else 1))) ∧
        ∃ e, s.ends (.keyErase slot) e ∧ e.fld F.XLT_KEY_STATUS_result 0 = (if slot = 0 then 4 else 0) ∧
          e.keyOp = (if slot = 0 then d.keyOp else some (slot, none)))) ∧
  ∀ (s : State) (slot : Nat) (k : Option XtsKey), s.live = true → s.dev.keyOp = some (slot, k) → slot < 64 →
    ∃ e, s.ends .keyOpComplete e ∧ e.keyOp = none ∧ e.fld F.XLT_KEY_STATUS_busy 0 = 0 ∧ e.keys.find? slot = k ∧
      (∀ j, j ≠ slot → e.keys.find? j = s.dev.keys.find? j) ∧
      ∀ j, j < 64 → bitAt (e.reg .XLT_KEY_LOADED 0) j = if j = slot then k.isSome else bitAt (s.dev.reg .XLT_KEY_LOADED 0) j

/-! ## Host queues, commands and BAR4 -/

/-- O37 (R417, R420 to R422, R440): a doorbell takes a tail that lies between the last one and the ring's end and refuses another; a
fetch reads the command at the head; the queue control bits move a queue between its states; a context's configuration changes
only while it is disabled or its queues are; HIF_SELF_START starts the Qorriop cores it names that serve. -/
def Obligations.QueueRegisters : Prop :=
  (∀ (s : State) (a q : Nat) (tail : BitVec 32), s.live = true → queueOk a q = true →
    let d := s.dev.wakePkg
    let head := BitVec.ofNat 32 (d.qHead a q)
    let ok := (tail - head).toNat ≤ d.qSize a q ∧ (BitVec.ofNat 32 (d.qTail a q) - head).toNat ≤ (tail - head).toNat
    (ok → s.ends (.doorbell a q tail) (d.setReg .HIF_Q_TAIL (queueKey a q) tail.toNat)) ∧
    (¬ ok → s.ends (.doorbell a q tail) (d.setFld F.HIF_Q_STATUS_bad_tail (queueKey a q) 1))) ∧
  (∀ (s : State) (a q : Nat) (d1 : Dev) (bs : Option (List Byte)), s.live = true → queueOk a q = true →
    let d := s.dev
    let h := d.qHead a q
    d.mayFetch a q = true → (d.queue a q).preCancel = [] →
    d.queueRead (d.queueReq a (.fetchq a q)) (d.fld F.HIF_Q_RING_base (queueKey a q) * 4096 + 64 * (h % d.qSize a q)) 64 = (d1, bs) →
    (bs = none → s.ends (.commandFetch a q) d1) ∧
    ∀ b, bs = some b → ∃ e c, s.ends (.commandFetch a q) e ∧ e.qHead a q = (h + 1) % 2 ^ 32 ∧
      (e.queue a q).fetched = (d.queue a q).fetched ++ [c] ∧ c.seq = h ∧ c.asid = a ∧ c.queue = q ∧ c.raw = BitVec.ofNat 512 (leNat b) ∧
      (∀ i w, i < 2 → (if i = 0 then c.wait0 else c.wait1) = some w → w.registered = false ∧ w.satisfied = false ∧
        w.handle = BitVec.ofNat 64 (shortHandle (cWait (leNat b) i)) ∧ w.eq = bitAt (cWait (leNat b) i) 30 ∧
        w.target = BitVec.ofNat 64 (cTarget (leNat b) i)) ∧
      (∀ i, i < 2 → cWaitEn (leNat b) i = false → (if i = 0 then c.wait0 else c.wait1) = none)) ∧
  ∀ (s : State), s.open_ = true → let d := s.dev
    (∀ a q, queueOk a q = true →
      let i := queueKey a q
      let x := d.queue a q
      let st := d.qState a q
      (∀ t : BitVec 32, s.ends (.eventTailWrite a q t) (d.setReg .HIF_Q_EVTAIL i t.toNat)) ∧
      (st = 0 ∧ d.qSize a q ≠ 0 ∧ d.evSize a q ≠ 0 ∧ d.ctxEnabled a = true → ∃ e, s.ends (.queueEnable a q) e ∧
        d.onlyRegsAt e [.HIF_Q_CTRL, .HIF_Q_STATUS, .HIF_Q_TAIL, .HIF_Q_HEAD, .HIF_Q_GRANTED, .HIF_Q_EVHEAD, .HIF_Q_EVTAIL] i ∧
        e.qState a q = (if d.ctxFaulted a then 3 else 1) ∧ e.fld F.HIF_Q_CTRL_enable i = 1 ∧
        ∀ r ∈ [Reg.HIF_Q_TAIL, .HIF_Q_HEAD, .HIF_Q_GRANTED, .HIF_Q_EVHEAD, .HIF_Q_EVTAIL], e.reg r i = 0) ∧
      (¬ (st = 0 ∧ d.qSize a q ≠ 0 ∧ d.evSize a q ≠ 0 ∧ d.ctxEnabled a = true) →
        s.ends (.queueEnable a q) (d.setFld F.HIF_Q_CTRL_enable i 1)) ∧
      (d.ctxFaulted a = true → s.ends (.queueResume a q) (d.setFld F.HIF_Q_STATUS_resume_refused i 1)) ∧
      (d.ctxFaulted a = false → st = 2 ∨ st = 3 → s.ends (.queueResume a q) (d.setFld F.HIF_Q_STATUS_state i 1)) ∧
      (d.ctxFaulted a = false → st ≠ 2 → st ≠ 3 → s.ends (.queueResume a q) d) ∧
      (st = 0 ∨ st = 4 → s.ends (.queueReset a q) d ∧ s.ends (.queueDisable a q) (d.setFld F.HIF_Q_CTRL_enable i 0)) ∧
      (st ≠ 0 → st ≠ 4 → ∀ c ∈ [(false, Instr.queueReset a q), (true, .queueDisable a q)], ∃ e, s.ends c.2 e ∧
        e.queue a q = { x with fetched := [], preCancel := [] } ∧ e.qHead a q = d.qTail a q ∧ e.qGranted a q = d.qTail a q ∧
        (x.granted ≠ [] → e.qState a q = 4) ∧
        (x.granted = [] → e.qState a q =
          if c.1 = true ∨ d.flag F.HIF_Q_CTRL_enable i = false then 0 else if d.ctxFaulted a then 3 else 1))) ∧
    (∀ a (v : BitVec 32), a < 64 →
      let old := d.reg .HIF_CTX_CFG a
      let e := d.setReg .HIF_CTX_CFG a (v &&& 0x800fff00).toNat
      let quiet := ∀ q, q < 64 → d.qState a q = 0
      (bitAt old 31 = false → s.ends (.contextConfigWrite a v) e) ∧
      (bitAt old 31 = true → v.getLsbD 31 = true → (v &&& 0xfff00).toNat ≠ bits old 30 0 → s.ends (.contextConfigWrite a v) d) ∧
      (bitAt old 31 = true → v.getLsbD 31 = false → quiet → s.ends (.contextConfigWrite a v) e) ∧
      (bitAt old 31 = true → v.getLsbD 31 = false → ¬ quiet → s.ends (.contextConfigWrite a v) (d.setFld F.HIF_STATUS_ctx_busy 0 1))) ∧
    ∀ m : BitVec 24, ∃ e, s.ends (.selfStart m) e ∧ e.fld F.HIF_SELF_START_value 0 = d.fld F.HIF_SELF_START_value 0 ||| m.toNat ∧
      ∀ j, j < 24 → bitAt e.sys.harts j = (bitAt d.sys.harts j ||
        (bitAt d.sys.harts 0 && m.getLsbD j && !heldHart j && d.hartLives j))

namespace Sys2Proof.Spec

/-- R431 to R434: what the completion of command `g` of a queue makes of `d`: its milestone signalled once, its event entry written
with the interrupt where it has one, and the command gone; with the event ring full, or its page missing, it waits. -/
def completed (d e : Dev) (a q : Nat) (g : GCmd) : Prop :=
  let r := g.cmd.raw.toNat
  let x := d.queue a q
  let f : Dev := if g.evWaits = false ∧ g.status = 0 ∧ cSignalEn r = true then
      { d with signals := d.signals ++ [⟨dispatchAgent (d.ctxPart a), BitVec.ofNat 64 (shortHandle (cSignal r)), false,
        BitVec.ofNat 64 (cSigOp r)⟩] } else d
  let event := cEvent r = true ∨ cOp r = 3 ∨ g.status ≠ 0
  let gone := e.signals = f.signals ∧
    (e.queue a q).granted = x.granted.filter (fun y => y.cmd.seq != g.cmd.seq) ∧
    (e.queue a q).cancelled = x.cancelled.filter (fun y => y.cmd.seq != g.cmd.seq) ∧
    (d.qState a q = 1 → e.qState a q = if g.status ∈ [2, 3, 5, 6] then 2 else 1)
  (¬ event → gone ∧ e.evHead a q = d.evHead a q) ∧
  (∀ f2, event → f.writeEvent a q g = (f2, true) → gone ∧ e.evHead a q = (d.evHead a q + 1) % 2 ^ 32) ∧
  (∀ f2, event → f.writeEvent a q g = (f2, false) → e.signals = f.signals ∧ e.evHead a q = d.evHead a q ∧
    ∀ y ∈ (e.queue a q).granted ++ (e.queue a q).cancelled, y.cmd.seq = g.cmd.seq →
      y = { g with evWaits := true, aborting := false })

/-- The oldest ungranted command of a queue is `c`, ready, its partition untraced. -/
abbrev grantable (s : State) (a q : Nat) (c : Cmd) : Prop :=
  s.live = true ∧ queueOk a q = true ∧ (s.dev.queue a q).fetched.head? = some c ∧ s.dev.ready a q c = true ∧
    bitAt (s.dev.reg .DBG_TRACE_CTRL (s.dev.ctxPart a)) 63 = false

/-- What a command's row is for, by opcode. -/
def grantRows : List ((Nat → Bool) × (Nat → Nat → Instr)) :=
  [(fun o => o == 0 || decide (3 < o), .nopCommand), (fun o => o == 3, .fenceCommand), (fun o => o == 1, .launch),
   (fun o => o == 2, .move)]

end Sys2Proof.Spec

/-- O38 (R425, R426, R428, R429, R431, R434, R435, R450): a ready command that breaks a rule completes at its grant with status 6 or 5, and a
NOP and a FENCE with 0; a LAUNCH cuts its grid into chunks for the partition's clusters; a MOVE offers its descriptor to a system
mover; a command whose work is done completes; cancel and abort take an ungranted command away or stop a granted one. -/
def Obligations.CommandGrantAndCompletion : Prop :=
  (∀ (s : State) (a q : Nat) (c : Cmd), grantable s a q c →
    let d := s.dev
    let r := c.raw.toNat
    let p := d.ctxPart a
    (∀ row ∈ grantRows, row.1 (cOp r) = true → d.cmdInvalid a r = true →
      let g : GCmd := { cmd := c, status := 6, done := true }
      ∃ e, s.ends (row.2 a q) e ∧ completed (d.grantCmd a q g) e a q g ∧ (e.queue a q).fetched = (d.queue a q).fetched.drop 1) ∧
    (∀ row ∈ grantRows.take 2, row.1 (cOp r) = true → d.cmdInvalid a r = false →
      let g : GCmd := { cmd := c, status := if d.cmdNoResource a r then 5 else 0, done := true }
      ∃ e, s.ends (row.2 a q) e ∧ completed (d.grantCmd a q g) e a q g ∧ (e.queue a q).fetched = (d.queue a q).fetched.drop 1) ∧
    (cOp r = 1 → d.cmdInvalid a r = false → (d.pstate p).launches.length < 16 →
      ∀ (d1 d2 : Dev) (bs : List Byte) (hs : List Nat),
        let w := d.queueReq a (.command a q c.seq) (cTag r, cLayer r, cOperator r)
        let b := leNat bs
        d.queueRead w (cPay r 0) 128 = (d1, some bs) →
        (d1.launchOk p b = false → let g : GCmd := { cmd := c, status := 6, done := true }
          ∃ e, s.ends (.launch a q) e ∧ completed (d1.grantCmd a q g) e a q g) ∧
        (d1.launchOk p b = true → d1.cmdNoResource a r = false →
          d1.readHints w (lB b 0x38 8) (if lB b 0x38 8 = 0 then 0 else lB b 0x40 2) [] = (d2, some hs) →
          ∃ e y, s.ends (.launch a q) e ∧ (e.queue a q).fetched = (d.queue a q).fetched.drop 1 ∧
            (e.queue a q).granted = (d.queue a q).granted ++ [{ cmd := c }] ∧
            (e.pstate p).launches = (d.pstate p).launches ++ [y] ∧ y.info = launchInfo p c b y.chunkSize ∧ y.done = 0 ∧
            y.stopped = none ∧ y.total = lB b 0x20 4 * lB b 0x24 2 * lB b 0x26 2 ∧
            (let cs := d.partClusters p
             let n := (y.total + y.chunkSize - 1) / y.chunkSize
             y.chunkSize = (if lB b 0x34 4 = 0 then max 1 ((y.total + 8 * max 1 cs.length - 1) / (8 * max 1 cs.length))
               else lB b 0x34 4) ∧
             ∀ j k, cs[j]? = some k → (y.queueOf k).map (fun z => (z.no, z.begun)) =
               (List.range ((j + 1) * n / cs.length - j * n / cs.length)).map fun i => (j * n / cs.length + i, 0)))) ∧
    (cOp r = 2 → d.cmdInvalid a r = false → d.cmdNoResource a r = false →
      ∀ (d1 : Dev) (hs : List Nat),
        let w := d.queueReq a (.command a q c.seq) (cTag r, cLayer r, cOperator r)
        let ha := cPay r 1 / 16 * 16
        let m := 200 + cPay r 1 % 8
        d.readHints w ha (if ha = 0 then 0 else 1) [] = (d1, some hs) →
        ∃ e o, s.ends (.move a q) e ∧ (e.queue a q).granted = (d.queue a q).granted ++ [{ cmd := c }] ∧
          (e.mover m).offers = (d.mover m).offers ++ [o] ∧ (e.mover m).descs = (d.mover m).descs ∧
          o.issuer = .command a q c.seq ∧ o.addr = BitVec.ofNat 64 (cPay r 0) ∧ o.ctx.part = p ∧ o.stalled = false ∧
          o.id = (d.mover m).nextId ∧ ∀ j, j ≠ m → e.mover j = d.mover j)) ∧
  (∀ (s : State) (a q : Nat) (seq : BitVec 32) (g : GCmd), s.live = true → queueOk a q = true →
    let d := s.dev
    ((d.queue a q).granted ++ (d.queue a q).cancelled).find? (fun y => y.cmd.seq == seq.toNat) = some g → g.aborting = false →
    bitAt (d.reg .DBG_TRACE_CTRL (d.ctxPart a)) 63 = false →
    (g.done = true → d.cmdDescs a q seq.toNat = 0 → ∃ e, s.ends (.commandCompletion a q seq) e ∧ completed d e a q g) ∧
    (g.done = false ∨ d.cmdDescs a q seq.toNat ≠ 0 → s.ends (.commandCompletion a q seq) d)) ∧
  ∀ (s : State) (a q : Nat) (seq : BitVec 32) (ab : Bool), s.open_ = true → queueOk a q = true →
    let c : Instr := if ab then .abort a q seq else .cancel a q seq
    let i := queueKey a q
    let n := seq.toNat
    let d := s.dev.setReg .HIF_Q_CANCEL i (b2n ab * 2 ^ 62 + n)
    let x := d.queue a q
    (d.flag F.HIF_Q_CANCEL_STATUS_busy i = true → s.ends c (d.setFld F.HIF_Q_CANCEL_STATUS_busy_reject i 1)) ∧
    (d.flag F.HIF_Q_CANCEL_STATUS_busy i = false →
      (d.seqInRange a q n = false → s.ends c (d.setFld F.HIF_Q_CANCEL_STATUS_result i 4)) ∧
      (d.seqInRange a q n = true → n ∉ x.preCancel →
        (∀ y, x.fetched.find? (fun z => z.seq == n) = some y → ∃ e, s.ends c e ∧
          e.fld F.HIF_Q_CANCEL_STATUS_result i = 1 ∧ (e.queue a q).fetched = x.fetched.filter (fun z => z.seq != y.seq)) ∧
        (x.fetched.find? (fun z => z.seq == n) = none →
          (seqDist n (d.qHead a q) < seqDist (d.qTail a q) (d.qHead a q) →
            s.ends c ((d.setQueue a q { x with preCancel := x.preCancel ++ [n] }).setFld F.HIF_Q_CANCEL_STATUS_result i 1)) ∧
          (seqDist (d.qTail a q) (d.qHead a q) ≤ seqDist n (d.qHead a q) →
            ∀ g, x.granted.find? (fun z => z.cmd.seq == n) = some g →
              (ab = false → s.ends c (d.setFld F.HIF_Q_CANCEL_STATUS_result i 2)) ∧
              (ab = true → g.done = true → s.ends c (d.setFld F.HIF_Q_CANCEL_STATUS_result i 4)) ∧
              (ab = true → g.done = false → ∃ e, s.ends c e ∧ e.flag F.HIF_Q_CANCEL_STATUS_busy i = true ∧
                ∀ y ∈ (e.queue a q).granted, y.cmd.seq = n → y.aborting = true ∧ y.stop = some (7, 0))))))

/-- O39 (R388, R411, R415, R596): an access within a line through BAR4 reads the line's bytes, replaces those it writes, or does its
atomic in the L2; a window that reaches no memory answers nothing and takes nothing. A failed host access fails the next read of its
line, and what the host returns becomes its bytes. -/
def Obligations.HostWindowAccesses : Prop :=
  (∀ (s : State) (port off n l : Nat), bar4Ok port off n = true → s.live = true →
    let d := s.dev
    let o := off % 128
    let key := d.fld F.HIF_W4_KEY_slot 0 % 64
    let m := d.readMem l key
    let free := homeFree d (310 + port) l ∧ isHost l = false ∧ d.entry l = none ∧ ∀ y ∈ (d.home (lineHome l)).txns, y.2.next = none
    (d.bar4Open port = false → s.ends (.bar4Read port off n) { d with hostReply := none }) ∧
    (d.bar4Open port = true → d.windowLine off = some l → o + n ≤ 128 → free →
      (∃ e, s.ends (.bar4Read port off n) e ∧ e.hostReply = some (lineBytes m.2.1 o n, m.2.2) ∧ e.entry l = none ∧
        ∀ y, e.memByte y = d.memByte y) ∧
      (s.open_ = true → d.hostHolds l = false → d.keyLoaded key = true → ∀ bs : List (BitVec 8), bs.length = n →
        ∃ e, s.ends (.bar4Write port off bs) e ∧
          e.rawLine l = d.encrypt key l (mergeLine m.2.1 (lineOf o bs) (byteMask o n)) ∧
          ∀ y, y / 128 ≠ l → e.memByte y = d.memByte y)) ∧
    (s.open_ = true → ∀ (op : Nat) (x y : BitVec 64), op < 3 → n = 4 ∨ n = 8 → off % n = 0 →
      (d.bar4Open port = false → s.ends (.atomicop port off op n x y) { d with hostReply := none }) ∧
      (d.bar4Open port = true → d.windowLine off = some l → isHost l = false → ∀ z,
        let c := d.atomicL2 l
        let old := leNat (lineBytes z.data o n)
        let new := match op with
          | 0 => (old + x.toNat) % 2 ^ (8 * n)
          | 1 => x.toNat % 2 ^ (8 * n)
          | _ => if old = x.toNat % 2 ^ (8 * n) then y.toNat % 2 ^ (8 * n) else old
        (d.agent c).lines.find? l = some z → z.st = .M ∨ z.st = .E → z.poison = false →
        ∃ e, s.ends (.atomicop port off op n x y) e ∧ e.hostReply = some (lineBytes z.data o n, false) ∧
          copyOf e c l = some (.M, mergeLine z.data (lineOf o (leBytes new n)) (byteMask o n), false)))) ∧
  ∀ (s : State) (port bus : Nat), s.live = true → port < 2 → bus < 2 ^ 48 →
    let l := hostLineBase port + bus / 128
    s.ends (.hostAccessFailure port bus) { s.dev with hostFail := insSorted l s.dev.hostFail } ∧
    ∀ bs : List (BitVec 8), 1 ≤ bs.length → bus % 128 + bs.length ≤ 128 →
      (s.dev.bar4Open port = false → s.ends (.hostReadCompletion port bus bs) s.dev) ∧
      (s.dev.bar4Open port = true → ∃ e, s.ends (.hostReadCompletion port bus bs) e ∧
        (∀ y, e.memByte y = if l * 128 + bus % 128 ≤ y ∧ y < l * 128 + bus % 128 + bs.length
          then bs.getD (y - (l * 128 + bus % 128)) 0 else s.dev.memByte y) ∧
        e.hostFail = s.dev.hostFail.erase l ∧ e.poison = s.dev.poison.erase l)

/-! ## Partitions -/

namespace Sys2Proof.Spec

/-- R462: the slowdown of a period. -/
def slowOf (active held : Nat) : Nat :=
  if active = 0 then 256 else if active = held then 0xffff else min 0xffff (256 * active / (active - held))

end Sys2Proof.Spec

/-- (R447, R448, R453, R454, R460) A free slice goes to the next eligible context in turn; at a quantum's end it ends where
nothing is left to do, stays where no other context waits, and else its convoys are asked to stop; at the grace time they are
made to; a stopped workgroup is saved off its core, and a saved one comes back. -/
def Sys2Proof.Spec.slicesAndPreemption : Prop :=
  (∀ (s : State) (p : Nat), s.live = true → p < 16 → let d := s.dev
    (∀ a, d.holder p = none → (d.part p).enabled = true → (d.pstate p).draining = false → a < 64 → d.eligible p a = true →
      (match (d.pstate p).prev with
        | none => ∀ b, b < 64 → d.eligible p b = true → a ≤ b
        | some z => z < 64 ∧ ∀ b, b < 64 → d.eligible p b = true → (a + 63 - z) % 64 ≤ (b + 63 - z) % 64) →
      ∃ e, s.ends (.sliceHandover p) e ∧ e.holder p = some a ∧ e.slicePhase p = (if d.hasSaved p a then 4 else 1) ∧
        (e.pstate p).prev = some a ∧ d.onlyRegsAt { e with pst := d.pst } [.PRT_STATUS] p) ∧
    (d.holder p = none → (∀ b, b < 64 → d.eligible p b = false) → s.ends (.sliceHandover p) d) ∧
    (∀ a, d.holder p = some a → d.slicePhase p = 2 ∨ d.slicePhase p = 3 →
      ∀ k n v x, rising (d.core k).convoys → d.convoy? k n = some v → d.wg? k v.wg = some x → x.launch.part = p → x.launch.asid = a →
        v.preempt = true → v.saveForm = 0 → v.state ≠ .aborting →
        ∃ e, s.ends (.graceExpiry p) e ∧ e.convoy? k n = some { v with saveForm := 2, stall := none, wait := none, resv := [] })) ∧
  (∀ (s : State) (p : Nat) (c : Instr), c ∈ [.quantumExpiry p, .endNow p] → s.open_ = true → p < 16 → ∀ a, let d := s.dev
    d.holder p = some a → d.slicePhase p = 1 →
    (d.hasGranted a = false → d.eligible p a = false →
      ∃ e, s.ends c e ∧ e.holder p = none ∧ e.slicePhase p = 0 ∧ e.cores = d.cores) ∧
    ((d.hasGranted a = true ∨ d.eligible p a = true) → (∀ b, b < 64 → b ≠ a → d.eligible p b = false) → s.ends c d) ∧
    ((d.hasGranted a = true ∨ d.eligible p a = true) → (∃ b, b < 64 ∧ b ≠ a ∧ d.eligible p b = true) → a < 64 →
      ∀ i, d.residents p a ≠ [] → i < d.fld F.PRT_SAVE_CFG_slots p → i ∉ d.slotsUsed p → (∀ j < i, j ∈ d.slotsUsed p) → i < 64 →
      ∃ e, s.ends c e ∧ e.slicePhase p = 2 ∧ e.holder p = some a ∧ e.fld F.PRT_CTX_SAVE_saved a = 1 ∧
        e.fld F.PRT_CTX_SAVE_slot a = i ∧
        ∀ k n v x, rising (d.core k).convoys → d.convoy? k n = some v → d.wg? k v.wg = some x → x.launch.part = p →
          x.launch.asid = a → v.state = .running → e.convoy? k n = some { v with preempt := true, resv := [] })) ∧
  (∀ (s : State) (k n : Nat) (v : Convoy) (x : WG), s.live = true → convoyOk k n = true → s.dev.convoy? k n = some v →
    s.dev.wg? k v.wg = some x →
    let d := s.dev
    let p := x.launch.part
    let a := x.launch.asid
    d.holder p = some a → d.slicePhase p = 2 ∨ d.slicePhase p = 3 → rising (d.core k).convoys →
    ((d.stopWaiting p a).saveReady k v.wg = false → s.ends (.convoySave k n) (d.stopWaiting p a)) ∧
    ((d.stopWaiting p a).saveReady k v.wg = true →
      ∃ e y, s.ends (.convoySave k n) e ∧ (e.pstate p).saved = (d.pstate p).saved ++ [y] ∧ y.core = k ∧ y.asid = a ∧ y.wg = x ∧
        y.cvs.map (·.1) = (d.wgConvoys k v.wg).map (·.1) ∧ e.wg? k v.wg = none ∧ e.convoy? k n = none)) ∧
  ∀ (s : State) (p i a : Nat) (y : SavedWg), s.live = true → p < 16 → let d := s.dev
    d.holder p = some a → d.slicePhase p = 4 → ((d.pstate p).saved.filter fun z => z.asid == a)[i]? = some y →
    (d.pstate p).draining = false → (∃ w < 16, d.wg? y.core w = none) →
    ∃ e w g, s.ends (.restore p i) e ∧ (e.pstate p).saved = (d.pstate p).saved.erase y ∧ d.wg? y.core w = none ∧
      e.wg? y.core w = some g ∧ g.launch = y.wg.launch ∧ g.coord = y.wg.coord ∧
      (∀ z ∈ y.cvs, ∃ u, e.convoy? y.core z.1 = some u) ∧
      (((d.pstate p).saved.erase y).any (fun z => z.asid == a) = false → a < 64 →
        e.slicePhase p = 1 ∧ e.fld F.PRT_CTX_SAVE_saved a = 0) ∧
      (((d.pstate p).saved.erase y).any (fun z => z.asid == a) = true → e.slicePhase p = 4)

/-- (R452, R462, R463) An idle cluster takes half of the unstarted chunks of the nearest cluster that has some, from the back; a
period's slowdown is recorded, and its record kept back where the ring is absent or full. -/
def Sys2Proof.Spec.stealingAndSlowdown : Prop :=
  (∀ (s : State) (c i p v : Nat) (y : Launch), s.live = true → c < 200 → let d := s.dev
    d.clusterPart c = some p → (d.pstate p).launches[i]? = some y → d.idleFor p c y = true →
    let q := y.queueOf v
    let some_ (u : Nat) : Prop := u ∈ d.partClusters p ∧ u ≠ c ∧ unbegun (y.queueOf u) ≠ []
    let far (u : Nat) : Nat := hops (clusterPos c) (clusterPos u)
    some_ v → (∀ u, some_ u → far v < far u ∨ far v = far u ∧ v ≤ u) →
    let m := ((unbegun q).length + 1) / 2
    ∃ e z, s.ends (.steal c i) e ∧ (e.pstate p).launches[i]? = some z ∧ z.queueOf v = q.take (q.length - m) ∧
      z.queueOf c = q.drop (q.length - m) ∧ (∀ u, u ≠ v → u ≠ c → z.queueOf u = y.queueOf u) ∧ z.info = y.info ∧
      z.done = y.done ∧ (e.pstate p).steals = (d.pstate p).steals + 1 ∧
      e.fld F.PRT_STEAL_COUNT_count p = (d.count F.PRT_STEAL_COUNT_count p).fld F.PRT_STEAL_COUNT_count p) ∧
  ∀ (s : State) (p active held floors : Nat), s.live = true → p < 16 → held ≤ active → floors < 8 → let d := s.dev
    ((d.part p).enabled = false → s.ends (.slowdownPeriod p active held floors) d) ∧
    ((d.part p).enabled = true → let st := d.pstate p
      ∃ e, s.ends (.slowdownPeriod p active held floors) e ∧
        e.pstate p = { st with period := st.period + 1, preempts := 0, steals := 0 } ∧
        e.fld F.PRT_SLOW_LAST_slowdown p = slowOf active held ∧ e.fld F.PRT_SLOW_LAST_period p = (st.period + 1) % 2 ^ 16 ∧
        (d.ring .PRT_SLOW_RING p = none → e.mem = d.mem ∧ e.fld F.PRT_SLOW_HEAD_index p = d.fld F.PRT_SLOW_HEAD_index p) ∧
        ∀ base size, d.ring .PRT_SLOW_RING p = some (base, size) → size ≤ 2 ^ 13 →
          let h := d.fld F.PRT_SLOW_HEAD_index p
          let free := ringFree h (d.fld F.PRT_SLOW_TAIL_index p) size
          (free = 0 → e.fld F.PRT_STATUS_slow_dropped p = 1 ∧ e.fld F.PRT_SLOW_HEAD_index p = h ∧ e.mem = d.mem) ∧
          (0 < free → e.fld F.PRT_SLOW_HEAD_index p = (h % size + 1) % size))

/-- O40 (R447, R448, R453, R454, R460, R452, R462, R463): slices, preemption, stealing and slowdown. -/
def Obligations.PartitionSlices : Prop := Spec.slicesAndPreemption ∧ Spec.stealingAndSlowdown

/-! ## Links -/

namespace Sys2Proof.Spec

/-- R470: lanes 0 to 3 carry the link, with lane 4 in place of at most one. -/
abbrev carries (bad : List Nat) : Prop :=
  (bad.filter (· < 4)).length ≤ 1 ∧ ((bad.filter (· < 4)).length = 1 → 4 ∉ bad)

/-- A native or test link takes flit `f` in: it is clean, of a type, and nothing is being captured. -/
abbrev flitTaken (s : State) (k : Nat) (f : BitVec 2048) (type : Nat) : Prop :=
  s.live = true ∧ k < 32 ∧ s.dev.isEth k = false ∧ s.dev.linkUp k = true ∧ flCrcOk f.toNat = true ∧ flType f.toNat = type ∧
    s.dev.flag F.LNK_CAP_STATUS_running k = false

/-- Nothing of the link waits that a credit could let go. -/
abbrev nothingToSend (x : Link) : Prop := x.mgmt = [] ∧ x.stream.length < 242

/-- The count of one of a link's sixteen events. -/
def linkEvents (d : Dev) (k i : Nat) : Nat := d.fld F.LNK_CNT_count (k * 16 + i)

/-- The IDENT a native or test link sends. -/
def identOf (d : Dev) (k : Nat) : LinkOut :=
  .ident (BitVec.ofNat 64 (d.reg .LNK_NODE_ID 0)) (BitVec.ofNat 64 d.fabricId) k (d.linkRole k) d.digest 384 32

/-- The state a link comes up in, by its role and mode. -/
def upState (d : Dev) (k : Nat) : Nat := if d.isTest k ∧ d.fld F.LNK_TEST_CTRL_mode k = 2 then 7 else 4

end Sys2Proof.Spec

/-- O41 (R470, R473, R477, R479, R480): a link trains where it has a role, a partition and its enable; trained lanes lead to IDENT, or
the link goes down; an IDENT brings it up or names a stranger; a fast retrain keeps what is to be replayed, its end resumes or counts a
failure; a full retrain trains again; a link declared down discards and fails what it held. -/
def Obligations.LinkBringUpAndRetrain : Prop :=
  (∀ (s : State) (k : Nat), s.open_ = true → k < 32 → let d := s.dev
    let e := d.setFld F.LNK_CTRL_enable k 1
    let may := d.linkState k ≤ 1 ∧ d.linkRole k ≠ 0 ∧ (d.linkPart k).isSome = true
    (may → s.ends (.linkEnable k) (e.setFld F.LNK_STATUS_state k (if d.isTest k ∧ d.fld F.LNK_TEST_CTRL_mode k = 1 then 6 else 2))) ∧
    (¬ may → s.ends (.linkEnable k) e)) ∧
  ∀ (s : State) (k : Nat), s.live = true → k < 32 → let d := s.dev
    let x := d.link k
    let st := d.linkState k
    (∀ bad : List Nat, (∀ i ∈ bad, i < 5) → st = 2 → x.full = false →
      (d.isEth k = false → carries bad → ∃ e, s.ends (.linkTrainingDone k bad) e ∧ e.linkState k = 3 ∧
        e.link k = { x.fresh with badLanes := bad, out := x.out ++ [identOf d k] } ∧
        e.flag F.LNK_STATUS_node_invalid k = d.ownPeer.isNone ∧
        (∀ l, bad.filter (· < 4) = [l] → e.flag F.LNK_STATUS_spare_in k = true ∧ e.fld F.LNK_STATUS_spare_for k = l)) ∧
      (d.isEth k = false → ¬ carries bad → ∃ e, s.ends (.linkTrainingDone k bad) e ∧ e.linkState k = 1 ∧ e.link k = x) ∧
      (d.isEth k = true → (∃ i ∈ bad, i < 4) → ∃ e, s.ends (.linkTrainingDone k bad) e ∧ e.linkState k = 1 ∧
        e.flag F.LNK_STATUS_eth_lane_bad k = true) ∧
      (d.isEth k = true → (∀ i ∈ bad, i = 4) → d.flag F.LNK_CAP_STATUS_running k = false → ∀ own, d.ownPeer = some own →
        ∃ e, s.ends (.linkTrainingDone k bad) e ∧ e.linkState k = 4 ∧ ∃ fs : List (List Byte),
          (e.link k).out = x.out ++ fs.map .frame ∧ fs.length = ((List.range d.peerCount).filter (· != own)).length)) ∧
    (∀ (node fabric : Word) (link role : Nat) (digest : BitVec 384) (c0 c1 : Nat),
      link < 32 → role < 4 → c0 ≤ 384 → c1 ≤ 32 → d.isEth k = false →
      let i : Instr := .ident k node fabric link role digest c0 c1
      let bad := d.isTest k = false ∧ (fabric.toNat ≠ d.fabricId ∨ d.peerOf node.toNat = none ∨ node.toNat = d.ownNode)
      (st = 3 → bad → ∃ e, s.ends i e ∧ e.linkState k = 3 ∧ e.flag F.LNK_STATUS_stranger k = true ∧ e.link k = x ∧
        linkEvents e k 8 = linkEvents (d.linkCount k 8) k 8) ∧
      (st = 3 → ¬ bad → d.flag F.LNK_STATUS_node_invalid k = false → x.full = false →
        ∃ e, s.ends i e ∧ e.linkState k = upState d k ∧ e.reg .LNK_PEER_NODE k = node.toNat ∧
          e.fld F.LNK_STATUS_peer_link k = link ∧ e.flag F.LNK_STATUS_peer_valid k = true ∧
          (∀ j, j < 6 → e.reg .LNK_PEER_DIGEST (k * 6 + j) = bits digest.toNat (64 * j + 63) (64 * j)) ∧
          e.flag F.LNK_STATUS_digest_mismatch k = decide (digest ≠ d.digest) ∧
          (nothingToSend x → x.replay = [] → e.link k = { x with credit0 := c0, credit1 := c1 })) ∧
      (st = 3 → ¬ bad → d.flag F.LNK_STATUS_node_invalid k = false → x.full = true →
        ¬ (d.flag F.LNK_STATUS_peer_valid k = true ∧ d.reg .LNK_PEER_NODE k = node.toNat ∧ d.fld F.LNK_STATUS_peer_link k = link) →
        s.ends i (d.setLink k { x with downDue := true }))) ∧
    (st = 3 → d.isEth k = false → s.ends (.identRepeat k) (d.setLink k { x with out := x.out ++ [identOf d k] })) ∧
    (st ≠ 3 → s.ends (.identRepeat k) d) ∧
    (∀ f : BitVec 2048, flitTaken s k f 4 → ∃ e, s.ends (.retrain k f 0) e ∧ e.linkState k = 5 ∧ e.link k = x ∧
      linkEvents e k 6 = linkEvents (d.linkCount k 6) k 6) ∧
    (d.linkUp k = true → d.isEth k = false → d.flag F.LNK_CAP_STATUS_running k = false → x.rxSeq < 4096 →
      ∃ e f, s.ends (.fastRetrain k) e ∧ e.linkState k = 5 ∧ e.link k = { x with out := x.out ++ [.flit f] } ∧
        flType f.toNat = 4 ∧ flCrcOk f.toNat = true) ∧
    (∀ lost : List Nat, (∀ i ∈ lost, i < 5) → st = 5 →
      let bad := lost.foldl (fun l i => insSorted i l) x.badLanes
      (carries bad → ∃ e, s.ends (.fastRetrainComplete k lost) e ∧ e.linkState k = upState d k ∧ (e.link k).fastFails = 0 ∧
        (e.link k).badLanes = bad ∧ (e.link k).rxSeq = x.rxSeq) ∧
      (¬ carries bad → s.ends (.fastRetrainComplete k lost) (d.setLink k { x with fastFails := x.fastFails + 1 }))) ∧
    (st = 4 ∨ st = 5 → ∃ e, s.ends (.fullRetrain k) e ∧ e.linkState k = 2 ∧ e.link k = { x with full := true, fastFails := 0 } ∧
      linkEvents e k 7 = linkEvents (d.linkCount k 7) k 7) ∧
    (x.downDue = false → s.ends (.linkDown k) d) ∧
    (x.downDue = true → ∃ e r, s.ends (.linkDown k) e ∧ e.linkState k = 1 ∧ e.flag F.LNK_STATUS_peer_valid k = false ∧
      (e.link k).replay = [] ∧ (e.link k).stream = [] ∧ e.errQ = [r] ∧ r.class_ = 2 ∧ r.source = some 4 ∧ r.unit = some k ∧
      ∀ q, q < 4 → (∀ y ∈ (e.link k).queue q, y.granted = false) ∧
        ((∃ y ∈ x.queue q, y.granted = true) → e.fld F.LNK_PQ_STATUS_error (k * 4 + q) = 4)) ∧
    (st = 1 → d.linkRole k ≠ 0 → (d.linkPart k).isSome = true → d.flag F.LNK_CTRL_enable k = true →
      s.ends (.linkRetry k) (d.setFld F.LNK_STATUS_state k (if d.isTest k ∧ d.fld F.LNK_TEST_CTRL_mode k = 1 then 6 else 2))) ∧
    (d.flag F.LNK_CTRL_enable k = false → s.ends (.linkRetry k) d)

/-- O42 (R472 to R476, R481 to R487): the next data flit in order is taken, another answered with a NAK; acknowledgements and credits free
what the sender holds, and a NAK makes it send the rest again; a put entry is fetched, granted or failed, its messages put into the
payload stream or into frames, and completed once acknowledged; a received message is written or counted and its milestone
signalled. -/
def Obligations.LinkDataAndPuts : Prop :=
  (∀ (s : State) (k : Nat) (f : BitVec 2048), let d := s.dev
    let x := d.link k
    let n := f.toNat
    (flitTaken s k f 1 → flVc n = 0 → flSeq n = x.rxSeq → ∃ e, s.ends (.data k f 0) e ∧
      (e.link k).rxSeq = (x.rxSeq + 1) % 4096 ∧ (e.link k).nakOut = false ∧
      (e.link k).rxBuf = x.rxBuf ++ leBytes (flPayload n).toNat 242) ∧
    (flitTaken s k f 1 → flSeq n ≠ x.rxSeq → x.rxSeq < 4096 → x.nakOut = false → ∃ e g, s.ends (.data k f 0) e ∧
      (e.link k).rxSeq = x.rxSeq ∧ (e.link k).rxBuf = x.rxBuf ∧ (e.link k).nakOut = true ∧
      (e.link k).out.getLast? = some (.flit g) ∧ flType g.toNat = 2 ∧ flSeq g.toNat = x.rxSeq) ∧
    (flitTaken s k f 0 → nothingToSend x →
      let y : Link := match findWithIdx (fun z => z.seq == flAck n) x.replay with
        | some (i, _) => { x with
            replay := x.replay.drop (i + 1), acked0 := x.acked0 + ((x.replay.take (i + 1)).filter fun z => z.vc == 0).length }
        | none => x
      ∃ e, s.ends (.idleFlit k f 0) e ∧ (∀ j, j ≠ k → e.link j = d.link j) ∧
        e.link k = if flCreditVc n = 0
          then { y with credit0 := y.credit0 + (flCredits n + 256 - y.seen0 % 256) % 256, seen0 := flCredits n }
          else { y with credit1 := y.credit1 + (flCredits n + 256 - y.seen1 % 256) % 256, seen1 := flCredits n }) ∧
    (flitTaken s k f 2 → nothingToSend x → (∀ z ∈ x.replay, z.seq < 4096 ∧ z.vc < 2) → x.rxSeq < 4096 →
      let rest := match findWithIdx (fun z => z.seq == (flSeq n + 4095) % 4096) x.replay with
        | some (i, _) => x.replay.drop (i + 1)
        | none => x.replay
      ∃ (e : Dev) (fs : List (BitVec 2048)), s.ends (.nak k f 0) e ∧ (e.link k).replay = rest ∧ (e.link k).out = x.out ++ fs.map .flit ∧
        linkEvents e k 4 = linkEvents (d.linkCount k 4) k 4 ∧
        fs.map (fun g => (flType g.toNat, flVc g.toNat, flSeq g.toNat, flPayload g.toNat)) =
          rest.map fun z => (1, z.vc, z.seq, z.payload)) ∧
    (s.live = true → k < 32 → d.linkUp k = true → d.flag F.LNK_CAP_STATUS_running k = false → x.rxSeq < 4096 → x.nakOut = true →
      ∃ (e : Dev) (g : BitVec 2048), s.ends (.nakResend k) e ∧ e.link k = { x with out := x.out ++ [.flit g] } ∧
        flType g.toNat = 2 ∧ flSeq g.toNat = x.rxSeq) ∧
    (s.live = true → k < 32 → flCrcOk n = false → d.isEth k = false → d.linkUp k = true →
      ∃ e, s.ends (.data k f 0) e ∧ (e.link k).rxSeq = x.rxSeq ∧ (e.link k).rxBuf = x.rxBuf ∧ (e.link k).nakOut = true ∧
        (e.link k).replay = x.replay)) ∧
  (∀ (s : State) (k : Nat), s.live = true → k < 32 → let d := s.dev
    let x := d.link k
    d.isEth k = false → d.isTest k = false → d.linkUp k = true → d.flag F.LNK_CAP_STATUS_running k = false →
    0 < x.stream.length → x.stream.length < 242 → x.mgmt = [] → x.held = false → 0 < x.credit0 → x.replay.length < 256 →
    x.txSeq < 4096 →
    ∃ e g, s.ends (.padTimeout k) e ∧ (e.link k).stream = [] ∧ (e.link k).credit0 = x.credit0 - 1 ∧
      (e.link k).txSeq = (x.txSeq + 1) % 4096 ∧ (e.link k).out = x.out ++ [.flit g] ∧ flType g.toNat = 1 ∧
      flSeq g.toNat = x.txSeq ∧ flPayload g.toNat = BitVec.ofNat 1936 (leNat x.stream) ∧
      (e.link k).replay = x.replay ++ [⟨x.txSeq, 0, flPayload g.toNat⟩]) ∧
  (∀ (s : State) (k q : Nat), s.live = true → putOk k q = true → let i := k * 4 + q
    (∀ tail : BitVec 32, let d := s.dev.wakePkg
      let head := BitVec.ofNat 32 (d.reg .LNK_PQ_HEAD i)
      let ok := (tail - head).toNat ≤ d.pqSize i ∧ (BitVec.ofNat 32 (d.reg .LNK_PQ_TAIL i) - head).toNat ≤ (tail - head).toNat
      (¬ ok → s.ends (.putDoorbell k q tail) (d.setFld F.LNK_PQ_STATUS_bad_tail i 1)) ∧
      (ok → ∃ e, s.ends (.putDoorbell k q tail) e ∧ e.reg .LNK_PQ_TAIL i = tail.toNat) ∧
      (ok → d.pqState i ≠ 1 → s.ends (.putDoorbell k q tail) (d.setReg .LNK_PQ_TAIL i tail.toNat))) ∧
    (∀ (y : PutEntry) (d1 : Dev) (bs : List Byte) (p : Bool), let d := s.dev
      let r := y.raw.toNat
      let c : Instr := if pOp r = 2 then .signal k q else .put k q
      let o := (msgNext y).1
      let n := (msgNext y).2.1
      let last := (msgNext y).2.2
      let head := msgHead r o n last
      ((d.link k).queue q).find? (fun z => !z.allSent) = some y → ((d.link k).queue q).find? (fun z => z.seq == y.seq) = some y →
      (y.granted = false → d.pqState i = 1 → d.ctxFaulted (d.fld F.LNK_PQ_CFG_asid i) = false →
        d.ctxEnabled (d.fld F.LNK_PQ_CFG_asid i) = true → (∀ w, y.wait = some w → w.satisfied = true) →
        ∀ code, code = (if d.putInvalid (d.fld F.LNK_PQ_CFG_asid i) r then 1 else if d.putNoResource k r then 2
          else if d.putBadPeer k r then 6 else 0) → code ≠ 0 →
        ∃ e, s.ends c e ∧ e.fld F.LNK_PQ_STATUS_error i = code ∧ e.reg .LNK_PQ_ERR i = y.seq % 2 ^ 64 ∧ e.pqState i = 2 ∧
          ∀ z ∈ (e.link k).queue q, z.seq ≠ y.seq) ∧
      (y.granted = true → d.mayPut k q r = true → d.linkRead k (d.putReq k q r) ((pSrc r + o) % 2 ^ 64) n = (d1, some (bs, p)) →
        (p = true → s.ends c (d1.pqFail k q y.seq 5)) ∧
        (p = false → d1.isEth k = false → d1.isDet k = false →
          s.ends c (((d1.setLink k { d1.link k with
            stream := (d1.link k).stream ++ (head ++ bs), streamEnd := (d1.link k).streamEnd + (head ++ bs).length }).setEntry' k q
              { y with sent := y.sent + n, allSent := last, endOff := (d1.link k).streamEnd + (head ++ bs).length }).pump k pumpFuel)) ∧
        (p = false → d1.isEth k = true → let peer := d1.ethPeer k (pPeer r)
          ∃ e f, s.ends c e ∧ (e.ethPeer k (pPeer r)).sndNext = (peer.sndNext + 1) % 2 ^ 32 ∧
            (e.ethPeer k (pPeer r)).unacked = peer.unacked ++ [f] ∧ f.seq = peer.sndNext ∧ f.queue = q ∧ f.entry = y.seq ∧
            f.len = n ∧ ((e.link k).queue q).find? (fun z => z.seq == y.seq) =
              some { y with sent := y.sent + n, allSent := last }))) ∧
    (∀ (y : PutEntry), let d := s.dev
      ((d.link k).queue q).find? (fun z => z.seq == y.seq) = some y → y.seq < 2 ^ 32 →
      (d.entryAcked k q y = false → s.ends (.entryComplete k q (BitVec.ofNat 32 y.seq)) d) ∧
      (d.entryAcked k q y = true → ∃ e, s.ends (.entryComplete k q (BitVec.ofNat 32 y.seq)) e ∧
        e.reg .LNK_PQ_DONE i = (d.reg .LNK_PQ_DONE i + 1) % 2 ^ 32 ∧ (∀ z ∈ (e.link k).queue q, z.seq ≠ y.seq) ∧
        e.signals = d.signals ++ (if pFlag y.raw.toNat 2 then
          [⟨linkAgent k, BitVec.ofNat 64 (shortHandle (pLocal y.raw.toNat)), false, 1⟩] else [])))) ∧
  ∀ (s : State) (k : Nat) (b : Byte) (rest h data : List Byte), s.live = true → k < 32 → let d := s.dev
    let c : Instr := if byteField h 0 1 = 2 then .signalMessage k else .putMessage k
    let ms := BitVec.ofNat 64 (shortHandle (byteField h 0x10 4))
    (d.link k).rxBuf = b :: rest → b ≠ 0 → (d.link k).message = some (h, data) →
    (d.msgBad k h = true → ∃ e, s.ends c e ∧ (e.link k).rxBuf = (b :: rest).drop (32 + data.length) ∧ e.signals = d.signals ∧
      e.mem = d.mem ∧ linkEvents e k 15 = linkEvents (d.linkCount k 15) k 15) ∧
    (d.msgBad k h = false → byteField h 0 1 = 2 → ∃ e, s.ends c e ∧ (e.link k).rxBuf = (b :: rest).drop (32 + data.length) ∧
      e.signals = d.signals ++ (if bitAt (byteField h 1 1) 0 then
        [⟨linkAgent k, ms, false, BitVec.ofNat 64 (byteField h 0x18 8)⟩] else [])) ∧
    (d.msgBad k h = false → byteField h 0 1 ≠ 2 → ∀ d1 ok, d.linkWrite k (d.rxReq k h) (byteField h 8 8) data = (d1, ok) →
      (ok = false → s.ends c d1) ∧
      (ok = true → ∃ e, s.ends c e ∧ (e.link k).rxBuf = (b :: rest).drop (32 + data.length) ∧ e.mem = d1.mem ∧
        e.signals = d.signals ++ (if bitAt (byteField h 1 1) 0 then
          [⟨linkAgent k, ms, false, BitVec.ofNat 64 data.length⟩] else [])))

namespace Sys2Proof.Spec

/-- A frame that an Ethernet link which is up takes in: what R492 makes of it, with nothing being captured. -/
abbrev frameTaken (s : State) (k : Nat) (f : List (BitVec 8)) (r : Except Nat EthIn) : Prop :=
  s.live = true ∧ k < 32 ∧ f.length ≤ 16384 ∧ s.dev.isEth k = true ∧ s.dev.linkUp k = true ∧ s.dev.ownPeer.isNone = false ∧
    s.dev.flag F.LNK_CAP_STATUS_running k = false ∧ s.dev.ethFilter f = r

/-- R491: what a frame's acknowledgement number and its ECN echo make of a peer. -/
def ackedPeer (x : EthPeer) (head : List Byte) : EthPeer :=
  let a := byteField head 8 4
  let y : EthPeer := match findWithIdx (fun f => f.seq == a) x.unacked with
    | some (i, _) =>
      let run := x.ackedRun + (i + 1)
      { x with
        unacked := x.unacked.drop (i + 1), window := if x.window ≤ run then x.window + 1 else x.window,
        ackedRun := if x.window ≤ run then run - x.window else run }
    | none => x
  if bitAt (byteField head 1 1) 0 then { y with window := max 4 (y.window / 2), ackedRun := 0 } else y

end Sys2Proof.Spec

/-- O43 (R489, R491 to R493): a frame that a check refuses is counted and dropped. A data frame in order is taken, one after a gap
answered with a NAK, one from a peer not yet identified dropped; an ack moves the window, a NAK makes the sender go back; an
IDENT is recorded or counted; the timers acknowledge, send again and repeat IDENT; a PFC frame pauses the priority. -/
def Obligations.EthernetFrames : Prop :=
  (∀ (s : State) (k : Nat) (f : List (BitVec 8)) (c : Nat), frameTaken s k f (.error c) → ∀ i : Instr,
    i ∈ [.ethDataFrame k f, .ethAck k f, .ethNak k f, .ethIdent k f] → s.ends i (s.dev.linkCount k c)) ∧
  (∀ (s : State) (k : Nat) (f : List (BitVec 8)) (x : EthIn), frameTaken s k f (.ok x) → let d := s.dev
    let p := d.ethPeer k x.peer
    let y := ackedPeer p x.head
    let seq := byteField x.head 4 4
    (byteField x.head 0 1 = 1 →
      (p.identOk = false → s.ends (.ethDataFrame k f) (d.linkCount k 9)) ∧
      (p.identOk = true → seq = p.rcvNext → ∃ e, s.ends (.ethDataFrame k f) e ∧
        (e.ethPeer k x.peer).rcvNext = (p.rcvNext + 1) % 2 ^ 32 ∧ (e.ethPeer k x.peer).unacked = y.unacked ∧
        (e.ethPeer k x.peer).window = y.window ∧ (e.ethPeer k x.peer).nakOut = false ∧
        (e.link k).rxBuf = (d.link k).rxBuf ++ wholeMsgs 132 x.msg) ∧
      (p.identOk = true → seq ≠ p.rcvNext → 2 ^ 31 ≤ (p.rcvNext + 2 ^ 32 - seq) % 2 ^ 32 → p.nakOut = false →
        ∃ e, s.ends (.ethDataFrame k f) e ∧ (e.ethPeer k x.peer).rcvNext = p.rcvNext ∧ (e.ethPeer k x.peer).nakOut = true ∧
          (e.link k).rxBuf = (d.link k).rxBuf ∧ linkEvents e k 3 = linkEvents (d.linkCount k 3) k 3) ∧
      (p.identOk = true → seq ≠ p.rcvNext → (p.rcvNext + 2 ^ 32 - seq) % 2 ^ 32 < 2 ^ 31 →
        ∃ e, s.ends (.ethDataFrame k f) e ∧ (e.ethPeer k x.peer).rcvNext = p.rcvNext ∧ (e.link k).rxBuf = (d.link k).rxBuf ∧
          linkEvents e k 13 = linkEvents (d.linkCount k 13) k 13)) ∧
    (byteField x.head 0 1 = 2 → s.ends (.ethAck k f) (d.setEthPeer k x.peer y)) ∧
    (byteField x.head 0 1 = 3 →
      let rest := match findWithIdx (fun g => g.seq == (seq + 2 ^ 32 - 1) % 2 ^ 32) y.unacked with
        | some (i, _) => y.unacked.drop (i + 1)
        | none => y.unacked
      (d.link k).paused = true ∨ rest = [] → ∃ e, s.ends (.ethNak k f) e ∧ (e.ethPeer k x.peer).unacked = rest ∧
        linkEvents e k 4 = linkEvents (d.linkCount k 4) k 4) ∧
    (byteField x.head 0 1 = 4 →
      let good := byteField x.msg 8 8 = d.fabricId ∧ byteField x.msg 0 8 = d.peerNode x.peer ∧ 72 ≤ x.msg.length
      let g := BitVec.ofNat 384 (byteField x.msg 24 48)
      (good → s.ends (.ethIdent k f) (d.setEthPeer k x.peer { p with
        identOk := true, digest := g, mismatch := decide (g ≠ d.digest) })) ∧
      (¬ good → s.ends (.ethIdent k f) (d.linkCount k 8)))) ∧
  ∀ (s : State) (k i : Nat), s.live = true → k < 32 → i < 256 → let d := s.dev
    let p := d.ethPeer k i
    (d.isEth k = true →
      (∀ t : BitVec 16, s.ends (.pfcFrame k t) (d.setLink k { d.link k with paused := decide (t ≠ 0) })) ∧
      s.ends (.pfcPauseExpiry k) (d.setLink k { d.link k with paused := false }) ∧
      (d.linkUp k = true → (d.link k).paused = true → s.ends (.ackTimer k i) d ∧ s.ends (.retransmitTimeout k i) d) ∧
      (d.linkUp k = true → (d.link k).paused = false → d.flag F.LNK_CAP_STATUS_running k = false → d.ownPeer.isSome = true →
        (0 < p.sinceAck → ∃ e bs, s.ends (.ackTimer k i) e ∧ e.ethPeer k i = { p with sinceAck := 0, ecnEcho := false } ∧
          (e.link k).out = (d.link k).out ++ [.frame bs]) ∧
        (p.sinceAck = 0 → s.ends (.ackTimer k i) d) ∧
        (∀ (f : EthFrame) (y : PutEntry) (d1 : Dev) (bs : List Byte), p.unacked = [f] →
          ((d.link k).queue f.queue).find? (fun z => z.seq == f.entry) = some y →
          d.linkRead k (d.putReq k f.queue y.raw.toNat) f.src.toNat f.len = (d1, some (bs, false)) →
          ∃ e out, s.ends (.retransmitTimeout k i) e ∧ (e.ethPeer k i).unacked = [f] ∧
            (e.link k).out = (d.link k).out ++ [.frame out] ∧ linkEvents e k 12 = linkEvents (d.linkCount k 12) k 12) ∧
        ∃ (e : Dev) (fs : List (List Byte)), s.ends (.ethIdentRepeat k) e ∧ (e.link k).out = (d.link k).out ++ fs.map .frame ∧
          fs.length = ((List.range d.peerCount).filter fun j => d.ownPeer != some j && !(d.ethPeer k j).identOk).length)) ∧
    (d.isEth k = false → ∀ c : Instr, c ∈ [.pfcFrame k 1, .pfcPauseExpiry k, .ackTimer k i, .retransmitTimeout k i,
      .ethIdentRepeat k] → s.ends c d)

/-- O44 (R494 to R498): on a test link an injection is armed with its kind and count, a burst goes out at once and a held flit is let go
at its delay's end; elsewhere arming is an error. A capture starts empty and stops at once; a go restarts the slot count; a
lane's checker locks, and counts what it saw when it loses lock. -/
def Obligations.LinkTestInstruments : Prop :=
  (∀ (s : State) (k : Nat), s.open_ = true → k < 32 → let d := s.dev
    let x := d.link k
    (d.isTest k = true →
      s.ends (.testGo k) ((d.setLink k { x with slot := 0 }).pump k pumpFuel) ∧
      (∀ lane n, lane < 5 → 1 ≤ n → n < 1024 → ∃ e, s.ends (.bitFlips k lane n) e ∧ d.onlyRegsAt { e with links := d.links } [.LNK_INJECT] k ∧
        e.link k = { x with injLeft := 0, held := false, out := x.out ++ [.burst lane n] } ∧ e.flag F.LNK_INJECT_arm k = false) ∧
      (∀ o ∈ [(1, Instr.crcInjection k), (2, .withhold k)], ∀ n, 1 ≤ n → n < 1024 → ∃ e, s.ends (o.2 n) e ∧
        e.link k = { x with injLeft := n, held := false } ∧ e.flag F.LNK_INJECT_arm k = true ∧
        e.fld F.LNK_INJECT_kind k = o.1 ∧ e.fld F.LNK_INJECT_count k = n) ∧
      (∀ n, 1 ≤ n → n < 2 ^ 15 → ∃ e, s.ends (.delay k n) e ∧ e.link k = { x with injLeft := 1, held := false } ∧
        e.flag F.LNK_INJECT_arm k = true ∧ e.fld F.LNK_INJECT_kind k = 3 ∧ e.fld F.LNK_INJECT_delay k = n)) ∧
    (d.isTest k = false → ∀ c : Instr, c ∈ [.testGo k, .bitFlips k 0 1, .crcInjection k 1, .withhold k 1, .delay k 1] →
      s.ends c (d.setFld F.LNK_INJECT_error k 1)) ∧
    s.ends (.captureStop k) (d.setFld F.LNK_CAP_STATUS_running k 0) ∧
    ∃ e, s.ends (.captureGo k) e ∧ (e.link k).cap = [] ∧ e.fld F.LNK_CAP_STATUS_next k = 0 ∧
      (let now := d.fld F.LNK_CAP_CTRL_trigger k = 0
       let post := d.fld F.LNK_CAP_CTRL_post k
       (e.flag F.LNK_CAP_STATUS_triggered k = true ↔ now) ∧ (e.flag F.LNK_CAP_STATUS_running k = true ↔ ¬ (now ∧ post = 0)) ∧
       (e.link k).capPost = if now then some post else none)) ∧
  (∀ (s : State) (k vc : Nat) (f : BitVec 1936), k < 32 → s.dev.isTest k = true → s.dev.flag F.LNK_INJECT_arm k = true →
    s.dev.fld F.LNK_INJECT_kind k = 2 → vc = 0 → let x := s.dev.link k
    2 ≤ x.injLeft → let y := (s.dev.firstSend k vc f).link k
    y.out = x.out ∧ y.replay = x.replay ++ [⟨x.txSeq, 0, f⟩] ∧ y.injLeft = x.injLeft - 1) ∧
  ∀ (s : State) (k : Nat), s.live = true → k < 32 → let d := s.dev
    ((d.link k).held = false → s.ends (.injectionDelayEnd k) d) ∧
    ((d.link k).held = true → ∃ e, s.ends (.injectionDelayEnd k) e ∧ (e.link k).held = false ∧ e.flag F.LNK_INJECT_arm k = false) ∧
    ∀ l, l < 5 → let i := k * 5 + l
      (d.linkState k = 6 → s.ends (.prbsLock k l) (d.setFld F.LNK_PRBS_locked i 1)) ∧
      (d.linkState k ≠ 6 → s.ends (.prbsLock k l) d) ∧
      ∀ n, (d.flag F.LNK_PRBS_locked i = false → s.ends (.prbsLockLoss k l n) d) ∧
        (d.flag F.LNK_PRBS_locked i = true → ∃ e, s.ends (.prbsLockLoss k l n) e ∧ d.onlyRegsAt e [.LNK_PRBS] i ∧
          e.flag F.LNK_PRBS_locked i = false ∧ e.fld F.LNK_PRBS_errors i = min (d.fld F.LNK_PRBS_errors i + n) (2 ^ 32 - 1))

/-! ## Power -/

namespace Sys2Proof.Spec

/-- `e` differs from `d` in registers of the set and in the power manager's own state. -/
def onlyPower (d e : Dev) (rs : List Reg) : Prop :=
  { e with regs := d.regs, pwr := d.pwr } = d ∧ ∀ r i, r ∉ rs → e.reg r i = d.reg r i

/-- The dividers and voltages of `e` are those that its settings ask for (R501, R503 to R505). -/
def powerFresh (e : Dev) : Prop :=
  (∀ c < 200, e.fld F.PWR_CLUSTER_STATUS_divider c = e.effDiv e.root c % 32) ∧
  ∀ q < 50, e.fld F.PWR_QUAD_STATUS_voltage_mv q = (e.quadVolts e.root).getD q 0

end Sys2Proof.Spec

/-- O45 (R500, R503 to R510): a go of the root retunes it to a frequency of the curves, voltages rising first, and is refused
otherwise; once it ends the root, the dividers and the voltages are the new ones; a measurement shifts the log and sets
allowances and vault limits; the arbiter brings a negative pool to 0 or its clusters to their slowest, and never lets a pool go
negative by raising; an ungated core runs at full rate once its credit is back. -/
def Obligations.RootCreditsAndEnvelope : Prop :=
  ∀ (s : State), let d := s.dev
    (s.open_ = true → ∀ mhz, mhz < 2 ^ 13 →
      let may := d.flag F.PWR_ROOT_CTRL_busy 0 = false ∧ (5600 ≤ mhz ∧ mhz ≤ 7200 ∧ mhz % 200 = 0 ∧ ∃ p ∈ d.curves, p.1 = mhz) ∧
        d.fld F.PWR_STATUS_pkg_state 0 = 0 ∧ d.flag F.PWR_PKG_STATUS_busy 0 = false
      (¬ may → s.ends (.retune mhz) (d.setFld F.PWR_ROOT_CTRL_refused 0 1)) ∧
      (may → ∃ e, s.ends (.retune mhz) e ∧ Spec.onlyPower d e [.PWR_ROOT_CTRL, .PWR_STATUS, .PWR_QUAD_STATUS] ∧
        e.fld F.PWR_ROOT_CTRL_target_mhz 0 = mhz ∧ e.flag F.PWR_ROOT_CTRL_busy 0 = true ∧ e.pwr.retuneTo = mhz ∧
        e.fld F.PWR_STATUS_retuning 0 = 1 ∧ e.root = d.root ∧
        ∀ q < 50, e.fld F.PWR_QUAD_STATUS_voltage_mv q = max (d.fld F.PWR_QUAD_STATUS_voltage_mv q) ((d.quadVolts mhz).getD q 0))) ∧
    (s.live = true →
      (d.flag F.PWR_ROOT_CTRL_busy 0 = false → s.ends .retuneComplete d) ∧
      (d.flag F.PWR_ROOT_CTRL_busy 0 = true → d.pwr.retuneTo < 2 ^ 13 → ∃ e, s.ends .retuneComplete e ∧
        Spec.onlyPower d e [.PWR_ROOT_CTRL, .PWR_STATUS, .PWR_QUAD_STATUS, .PWR_CLUSTER_STATUS] ∧
        e.root = d.pwr.retuneTo ∧ e.fld F.PWR_STATUS_retuning 0 = 0 ∧ e.flag F.PWR_ROOT_CTRL_busy 0 = false ∧ Spec.powerFresh e) ∧
      (∀ mw, mw < 65536000 →
        let ps := (List.range 16).filter fun p => (d.part p).enabled
        let log := (mw :: d.pwr.mw).take 10
        let prev := d.pwr.mw.take 9
        let env : Int := (d.fld F.PWR_STATUS_envelope 0 * 1000 : Nat)
        let avg : Int := if prev.isEmpty then 0 else (prev.sum / prev.length : Nat)
        let budget := env - ((mw : Int) - ((ps.map d.heldCredit).sum / creditUnit : Nat)) - 9 * max 0 (avg - env)
        ∃ e, s.ends (.powerMeasurement mw) e ∧
          Spec.onlyPower d e [.PWR_PART_CREDIT, .PWR_MEASURE, .PWR_STATUS, .VLT_STATUS] ∧ e.pwr.mw = log ∧
          e.fld F.PWR_MEASURE_last_100us 0 = mw / 1000 ∧ e.fld F.PWR_MEASURE_avg_1ms 0 = log.sum / log.length / 1000 % 2 ^ 16 ∧
          (((ps.map fun p => (d.part p).power).sum * 1000 : Nat) ≤ budget →
            e.pwr.intake = [] ∧ e.fld F.PWR_STATUS_limiting 0 = 0 ∧
            ∀ x ∈ allowances budget (ps.map fun p => (p, popCount (d.part p).quads 50, (d.part p).power)),
              e.fld F.PWR_PART_CREDIT_allowance_mw x.1 = x.2.toNat % 2 ^ 32) ∧
          ∀ v < 200, e.fld F.VLT_STATUS_throttle v = (max (listMax (((d.thermalAt v).filter (·.action == 3)).map fun x => x.arg / 2))
            (match d.clusterPart v with | some p => NMap.getD e.pwr.intake p 0 | none => 0)) % 4) ∧
      (∀ p, p < 16 → (d.part p).enabled = false → s.ends (.creditArbiter p) d) ∧
      (∀ p, p < 16 → (d.part p).enabled = true → ∃ e, s.ends (.creditArbiter p) e ∧
        Spec.onlyPower d e [.PWR_QUAD_STATUS, .PWR_CLUSTER_STATUS] ∧ Spec.powerFresh e ∧
        (∀ c, c ∉ d.partClusters p → NMap.getD e.pwr.arb c 4 = NMap.getD d.pwr.arb c 4) ∧
        (0 ≤ d.pool p → 0 ≤ e.pool p) ∧
        (d.pool p < 0 → (∀ c, NMap.getD d.pwr.arb c 4 ≤ NMap.getD e.pwr.arb c 4) ∧
          (0 ≤ e.pool p ∨ ∀ c ∈ d.partClusters p, e.effDiv e.root c < 16 → e.clusterCredit (e.quadVolts e.root) c = 0))) ∧
      (∀ k, coreOk k = true → (d.core k).halfRate = false → s.ends (.creditReclaim k) d) ∧
      ∀ k, coreOk k = true → (d.core k).halfRate = true → d.pwr.lent.length ≤ 1200 → ∃ e, s.ends (.creditReclaim k) e ∧
        { e with regs := d.regs, pwr := d.pwr, cores := d.cores } = d ∧ e.core k = { d.core k with halfRate := false } ∧
        (∀ j, j ≠ k → e.core j = d.core j) ∧
        ∀ p, d.clusterPart (k / 8) = some p → 0 ≤ e.pool p ∨ ∀ c ∈ e.pwr.lent, e.clusterPart c ≠ some p)

/-- O46 (R295, R506, R522 to R525, R531): readings of a cluster's sensors set its temperature and each thermal action by its
points, with their hysteresis; a junction at 108 °C or a vault layer at 105 °C trips THERMTRIP_N; forcing caps the hotter quad
one step further until it is near; a low margin adds 10 mV of guard band where there is room, then caps the quad. -/
def Obligations.HeatForcingAndGuardBands : Prop :=
  ∀ (s : State), s.live = true → let d := s.dev
    (∀ js hs ls, sensorsOk js hs ls = true → ((NMap.find? d.sys.sections 10).getD []).length ≤ 128 →
      let temp (c : Nat) := (((js.filter (·.1 == c)).getLast?).map (·.2)).getD (d.junction c)
      let layer (v i : Nat) := (((ls.filter fun x => x.1 == v && x.2.1 == i).getLast?).map (·.2.2)).getD (d.layerTemp v i)
      let hot (v : Nat) := max (max (layer v 0) (layer v 1)) (max (layer v 2) (layer v 3))
      let hartTemp := hs.foldl (fun m x => NMap.insert m x.1 x.2) d.pwr.hartTemp
      let trips := (∃ c < 200, 108 ≤ temp c ∨ 105 ≤ hot c) ∨ ∃ x ∈ hartTemp, 108 ≤ x.2
      (trips → ∃ e, s.ends (.sensorRead js hs ls) e ∧ e.sys.thermtrip = true ∧ e.sys.phase = .inReset ∧ e.sys.coreEn = false ∧
        e.cores = [] ∧ e.pwr = {}) ∧
      (¬ trips → ∃ e, s.ends (.sensorRead js hs ls) e ∧
        Spec.onlyPower d e [.PWR_CLUSTER_STATUS, .VLT_TEMP, .PWR_QUAD_STATUS, .VLT_STATUS, .PWR_FORCED_COUNT] ∧
        Spec.powerFresh e ∧ e.pwr.hartTemp = hartTemp ∧
        (∀ c < 200, e.junction c = temp c ∧ ∀ i < 4, e.layerTemp c i = layer c i) ∧
        (∀ c < 200, ∀ x ∈ d.thermal, x.2.source ≤ 5 →
          let t := match x.2.source with | 0 => temp c | 5 => hot c | i => layer c (i - 1)
          ((∃ a ∈ e.pwr.acts, a % 2 ^ 16 = c * 32 + x.1) ↔ bitAt x.2.dies (clusterDie c) = true ∧
            (x.2.on ≤ t ∨ ((∃ a ∈ d.pwr.acts, a % 2 ^ 16 = c * 32 + x.1) ∧ x.2.off < t)))) ∧
        (∀ c < 200, e.heldInC1 c = true → e.fld F.PWR_CLUSTER_STATUS_state c ≠ 0 ∧ e.fld F.PWR_CLUSTER_STATUS_state c ≠ 5) ∧
        ∀ c < 200, e.fld F.PWR_CLUSTER_STATUS_thermal_cap c = e.thermalCap c % 32 ∧
          e.flag F.VLT_STATUS_doubled_refresh c = (e.thermalAt c).any (·.action == 4))) ∧
    (∃ e, s.ends .forcingStep e ∧ Spec.onlyPower d e [.PWR_QUAD_STATUS, .PWR_CLUSTER_STATUS] ∧ Spec.powerFresh e ∧
      (let near (x : Nat × Nat) := natDist (d.quadTemp x.1) (d.quadTemp x.2) ≤ 27
       e.pwr.forced = d.pwr.forced.filter (fun x => !decide (near x)) ∧
       ∀ x ∈ d.pwr.forced, x.1 < 50 → (d.pwr.forced.filter (·.1 == x.1)).length = 1 →
         NMap.find? e.pwr.forceCap x.1 = if near x then none else some (slower (d.quadWants x.1)))) ∧
    ∀ (low : List Nat), low.all coreOk = true → ∃ e, s.ends (.marginCheck low) e ∧ Spec.powerFresh e ∧ e.cores = d.cores ∧ e.mem = d.mem ∧
      ∀ q < 50,
        let hit := low.any fun k => clusterQuad (k / 8) == q
        let g := NMap.getD d.sys.guard q 0
        let v := d.fld F.PWR_QUAD_STATUS_voltage_mv q
        let spent := 40 ≤ g ∨ d.guardCapped d.root q = true
        let room := ∀ r < 50, adjacentQuads q r = true → d.quadPowered r = true → v + 10 ≤ d.fld F.PWR_QUAD_STATUS_voltage_mv r + 120
        (hit = true ∧ ¬ spent ∧ v + 10 ≤ 860 ∧ room → NMap.getD e.sys.guard q 0 = g + 10) ∧
        (¬ (hit = true ∧ ¬ spent ∧ v + 10 ≤ 860 ∧ room) → NMap.getD e.sys.guard q 0 = g) ∧
        (q ∈ e.sys.guardCap ↔ q ∈ d.sys.guardCap ∨ hit = true ∧ ¬ spent ∧ 860 < v + 10)

namespace Sys2Proof.Spec

/-- The automatic entry of cluster `c` into C1, C2 or C3 ends with the device as `e`. -/
def autoEntry (s : State) (st c : Nat) (e : Dev) : Prop :=
  if st = 1 then s.ends (.c1Entry c) e else if st = 2 then s.ends (.c2Entry c) e else s.ends (.c3Entry c) e

/-- R519: the state a domain comes back to, or the exit that a latched wake begins at once. -/
def comesBack (d e : Dev) (c st : Nat) (wake : Bool) : Prop :=
  NMap.find? e.pwr.entry c = none ∧ e.flag F.PWR_CLUSTER_STATUS_wake_latched c = false ∧
  e.fld F.PWR_CLUSTER_STATUS_state c = (if wake = true ∧ 1 ≤ st ∧ st ≤ 3 ∧ d.heldInC1 c = false then 5 else st)

end Sys2Proof.Spec

/-- O47 (R511 to R513, R517 to R519): an idle cluster within its partition's tolerance enters a state from the one above it;
each phase of the entry ends in the next, in the state, or, once a wake came before its abort phase, back where it was; an
entry that misses its boundary is refused; a wake begins the exit or is latched; the exit ends in C0, from C3 with its stores
zero; a smaller tolerance wakes the clusters whose state it forbids. -/
def Obligations.ClusterIdleStates : Prop :=
  ∀ (s : State) (c : Nat), clusterOk c = true → let d := s.dev
    let st0 := d.fld F.PWR_CLUSTER_STATUS_state c
    (s.live = true →
      (∀ st, 1 ≤ st → st ≤ 3 →
        let may (p : Nat) := d.clusterPart c = some p ∧ d.psExit (st - 1) ≤ d.fld F.PWR_WAKE_TOL_us p * 1000 ∧
          st0 = d.stateBefore p st ∧ d.clusterIdle p c st = true ∧ NMap.find? d.pwr.entry c = none ∧
          d.flag F.PWR_CLUSTER_STATUS_wake_latched c = false
        (∀ p, may p → ∃ e, Spec.autoEntry s st c e ∧ Spec.onlyPower d e [.PWR_CLUSTER_STATUS] ∧
          e.fld F.PWR_CLUSTER_STATUS_state c = 4 ∧ NMap.find? e.pwr.entry c = some { target := st, source := st0 }) ∧
        ((¬ ∃ p, may p) → Spec.autoEntry s st c d)) ∧
      (NMap.find? d.pwr.entry c = none → s.ends (.entryPhaseEnd c) d ∧ s.ends (.entryRefused c) d) ∧
      (∀ x, NMap.find? d.pwr.entry c = some x →
        let stays := x.phase = 0 ∧ d.moverStill c = false ∨ x.phase = 1 ∧ (d.agent c).victim ≠ []
        let aborts := x.wake = true ∧ x.phase < d.psAbort (x.target - 1)
        let last := psLast.getD (x.target - 1) 0
        (stays → s.ends (.entryPhaseEnd c) d) ∧
        (¬ stays → aborts → x.source < 8 → ∃ e, s.ends (.entryPhaseEnd c) e ∧
          Spec.onlyPower d e [.PWR_ABORT_COUNT, .PWR_CLUSTER_STATUS] ∧ Spec.comesBack d e c x.source true ∧
          e.fld F.PWR_ABORT_COUNT_count 0 = (d.count F.PWR_ABORT_COUNT_count 0).fld F.PWR_ABORT_COUNT_count 0) ∧
        (¬ stays → ¬ aborts → x.phase < last →
          let f := if x.phase = 0 then d.l2Flush c else d
          s.ends (.entryPhaseEnd c)
            { f with pwr := { f.pwr with entry := NMap.insert f.pwr.entry c { x with phase := x.phase + 1 } } }) ∧
        (¬ stays → ¬ aborts → last ≤ x.phase → 1 ≤ x.target → x.target ≤ 3 → ∃ e, s.ends (.entryPhaseEnd c) e ∧
          Spec.comesBack d e c x.target x.wake ∧ (x.target ≠ 3 → Spec.onlyPower d e [.PWR_CLUSTER_STATUS]) ∧
          (x.target = 3 → e.agent c = {} ∧ (∀ i n, i < 8 → e.convoy? (c * 8 + i) n = none) ∧
            (∀ k, k / 8 ≠ c → e.core k = d.core k) ∧ (∀ a, a ≠ c → e.agent a = d.agent a) ∧
            (∀ a, c * 2 ^ 20 ≤ a → a < (c + 1) * 2 ^ 20 → NMap.getD e.stores a 0 = 0) ∧ e.mem = d.mem)) ∧
        (x.phase ≠ 0 → s.ends (.entryRefused c) d) ∧
        (x.phase = 0 → x.source < 8 → ∃ e, s.ends (.entryRefused c) e ∧
          Spec.onlyPower d e [.PWR_REFUSED_COUNT, .PWR_CLUSTER_STATUS] ∧ Spec.comesBack d e c x.source x.wake ∧
          e.fld F.PWR_REFUSED_COUNT_count 0 = (d.count F.PWR_REFUSED_COUNT_count 0).fld F.PWR_REFUSED_COUNT_count 0)) ∧
      (st0 = 0 ∨ st0 = 5 ∨ d.clusterPart c = none → s.ends (.clusterWake c) d) ∧
      (st0 ≠ 0 → st0 ≠ 5 → d.clusterPart c ≠ none → ∃ e, s.ends (.clusterWake c) e ∧
        Spec.onlyPower d e [.PWR_CLUSTER_STATUS, .PWR_PKG_STATUS] ∧
        (∀ x, NMap.find? d.pwr.entry c = some x → NMap.find? e.pwr.entry c = some { x with wake := true } ∧
          e.flag F.PWR_CLUSTER_STATUS_wake_latched c = true ∧ e.fld F.PWR_CLUSTER_STATUS_state c = st0) ∧
        (NMap.find? d.pwr.entry c = none → d.heldInC1 c = true → e.flag F.PWR_CLUSTER_STATUS_wake_latched c = true ∧
          e.fld F.PWR_CLUSTER_STATUS_state c = st0) ∧
        (NMap.find? d.pwr.entry c = none → d.heldInC1 c = false → st0 ≤ 3 → e.fld F.PWR_CLUSTER_STATUS_state c = 5 ∧
          NMap.find? e.pwr.leaving c = some st0)) ∧
      (st0 ≠ 5 → s.ends (.exitComplete c) d) ∧
      (st0 = 5 → ∃ e, s.ends (.exitComplete c) e ∧ e.fld F.PWR_CLUSTER_STATUS_state c = 0 ∧
        e.flag F.PWR_CLUSTER_STATUS_wake_latched c = false ∧ NMap.find? e.pwr.leaving c = none ∧ e.mem = d.mem ∧
        (NMap.getD d.pwr.leaving c 0 ≠ 3 → Spec.onlyPower d e [.PWR_CLUSTER_STATUS]) ∧
        (NMap.getD d.pwr.leaving c 0 = 3 → (∀ i < 8, (e.core (c * 8 + i)).localMem = []) ∧
          (∀ k, k / 8 ≠ c → e.core k = d.core k) ∧
          ∀ a, NMap.getD e.stores a 0 = if c * 2 ^ 20 ≤ a ∧ a < (c + 1) * 2 ^ 20 then 0 else NMap.getD d.stores a 0))) ∧
    (s.open_ = true → ∀ p us, p < 16 → us < 2 ^ 20 →
      ((d.part p).enabled = false → s.ends (.wakeTolWrite p us) d) ∧
      ((d.part p).enabled = true → ∃ e, s.ends (.wakeTolWrite p us) e ∧
        Spec.onlyPower d e [.PWR_WAKE_TOL, .PWR_CLUSTER_STATUS, .PWR_PKG_STATUS] ∧ e.fld F.PWR_WAKE_TOL_us p = us ∧
        (∀ r, r ≠ p → e.reg .PWR_WAKE_TOL r = d.reg .PWR_WAKE_TOL r) ∧
        (d.clusterPart c = some p → 1 ≤ st0 → st0 ≤ 3 → NMap.find? d.pwr.entry c = none → d.heldInC1 c = false →
          e.fld F.PWR_CLUSTER_STATUS_state c = if us * 1000 < d.psExit (st0 - 1) then 5 else st0)))

/-- O48 (R514 to R521): a vault goes to power-down, self-refresh or deep power-down, which loses its data, where the rules let
it; the package enters P2 by itself and P4 and P6 on request where nothing runs, by the phases of its entry; it is woken, its
restore order runs step by step, and its exit ends in P0; leaving P6 runs the start-up again from self-test. -/
def Obligations.VaultAndPackageStates : Prop :=
  ∀ (s : State), let d := s.dev
    let now := d.fld F.PWR_STATUS_pkg_state 0
    let busy := d.flag F.PWR_PKG_STATUS_busy 0
    let begun (i : Instr) (st : Nat) := ∃ e, s.ends i e ∧ Spec.onlyPower d e [.PWR_PKG_STATUS, .PWR_PKG_CTRL] ∧
      NMap.find? e.pwr.entry pkgDomain = some { target := st, source := now } ∧ e.flag F.PWR_PKG_STATUS_busy 0 = true
    (s.live = true →
      (∀ v, v < 200 →
        let x := d.fld F.VLT_STATUS_state v
        let c := d.fld F.PWR_CLUSTER_STATUS_state v
        let sleeps := (x = 2 ∨ x = 3) ∧ (c = 2 ∨ c = 3) ∧
          ∃ p, d.clusterPart v = some p ∧ d.psExit 4 ≤ d.fld F.PWR_WAKE_TOL_us p * 1000
        let used := d.clusterPart v ≠ none ∨ ∃ j < 8, heldVaultOf j = v ∧ bitAt (d.reg .WDN_VAULT_BACK j) 31 = true
        let gone (i : Instr) (st : Nat) := ∃ e, s.ends i e ∧ e.fld F.VLT_STATUS_state v = st ∧ (NMap.getD e.vaults v {}).open_ = [] ∧
          (∀ r i, ¬ (r = .VLT_STATUS ∧ i = v) → e.reg r i = d.reg r i)
        (x ≠ 2 → s.ends (.vaultPowerDown v) d) ∧ (x = 2 → gone (.vaultPowerDown v) 3) ∧
        (¬ sleeps → s.ends (.vaultSelfRefresh v) d) ∧ (sleeps → gone (.vaultSelfRefresh v) 4) ∧
        (used → s.ends (.vaultDeepPowerDown v) d) ∧
        (¬ used → gone (.vaultDeepPowerDown v) 5 ∧ ∃ e, s.ends (.vaultDeepPowerDown v) e ∧
          ∀ a, e.memByte a = if isStacked (a / 128) = true ∧ lineVault (a / 128) = v then 0 else d.memByte a)) ∧
      (d.mayP2 = false → s.ends .p2Entry d) ∧ (d.mayP2 = true → begun .p2Entry 1) ∧
      (∀ wfi, busy = true ∨ now = 2 → s.ends (.p4Request wfi) (d.setFld F.PWR_PKG_CTRL_target 0 2).wakePkg ∧
        s.ends .p6Request (d.setFld F.PWR_PKG_CTRL_target 0 3).wakePkg) ∧
      (∀ wfi, busy = false → now < 2 →
        (d.queuesQuiet = true → wfi = true → begun (.p4Request wfi) 2) ∧
        (d.queuesQuiet = true → begun .p6Request 3) ∧
        (¬ (d.queuesQuiet = true ∧ wfi = true) → ∃ e, s.ends (.p4Request wfi) e ∧
          s.dev.onlyRegs e [.PWR_PKG_CTRL, .PWR_PKG_STATUS] ∧ e.fld F.PWR_PKG_STATUS_result 0 = 4) ∧
        (d.queuesQuiet = false → ∃ e, s.ends .p6Request e ∧
          s.dev.onlyRegs e [.PWR_PKG_CTRL, .PWR_PKG_STATUS] ∧ e.fld F.PWR_PKG_STATUS_result 0 = 4)) ∧
      (NMap.find? d.pwr.entry pkgDomain = none →
        s.ends (.entryPhaseEnd pkgDomain) d ∧ s.ends (.entryRefused pkgDomain) d) ∧
      (∀ x, NMap.find? d.pwr.entry pkgDomain = some x →
        let i := 5 + x.target
        let last := psLast.getD i 0
        let stays := x.phase = 0 ∧ ∃ m ∈ d.movers, ∃ y ∈ m.2.descs, y.started = true
        let aborts := x.wake = true ∧ x.phase < d.psAbort i
        (stays → s.ends (.entryPhaseEnd pkgDomain) d) ∧
        (¬ stays → aborts → ∃ e, s.ends (.entryPhaseEnd pkgDomain) e ∧
          Spec.onlyPower d e [.PWR_ABORT_COUNT, .PWR_PKG_STATUS] ∧ NMap.find? e.pwr.entry pkgDomain = none ∧
          (e.flag F.PWR_PKG_STATUS_busy 0 = true ↔ x.source ≠ 0 ∧ (now = 1 ∨ now = 2) ∧ d.pwr.restoring = false) ∧
          e.fld F.PWR_ABORT_COUNT_count 0 = (d.count F.PWR_ABORT_COUNT_count 0).fld F.PWR_ABORT_COUNT_count 0) ∧
        (¬ stays → ¬ aborts → x.phase < last → ∃ e, s.ends (.entryPhaseEnd pkgDomain) e ∧
          NMap.find? e.pwr.entry pkgDomain = some { x with phase := x.phase + 1 } ∧
          (x.target ≠ 2 ∨ x.phase ≠ 0 → Spec.onlyPower d e []) ∧
          (x.target = 2 → x.phase = 0 → ∀ c < 200, d.clusterPart c ≠ none → e.fld F.PWR_CLUSTER_STATUS_state c = 3)) ∧
        (¬ stays → ¬ aborts → last ≤ x.phase → 1 ≤ x.target → x.target ≤ 3 → ∃ e, s.ends (.entryPhaseEnd pkgDomain) e ∧
          NMap.find? e.pwr.entry pkgDomain = none ∧ e.fld F.PWR_STATUS_pkg_state 0 = x.target ∧
          (x.wake = false ∨ x.target = 3 →
            e.fld F.PWR_PKG_STATUS_result 0 = 1 ∧ e.flag F.PWR_PKG_STATUS_busy 0 = false ∧ e.pwr.restoring = (x.target ≠ 3 ∧ d.pwr.restoring)) ∧
          (x.wake = true → x.target ≠ 3 → e.pwr.restoring = true) ∧
          (x.target = 3 → e.cores = [] ∧ e.agents = [] ∧ e.qs = [] ∧ e.sys.sections = d.sys.sections)) ∧
        (x.phase ≠ 0 → s.ends (.entryRefused pkgDomain) d) ∧
        (x.phase = 0 → x.wake = false ∨ x.source = 0 → ∃ e, s.ends (.entryRefused pkgDomain) e ∧
          Spec.onlyPower d e [.PWR_REFUSED_COUNT, .PWR_PKG_STATUS] ∧ NMap.find? e.pwr.entry pkgDomain = none ∧
          e.flag F.PWR_PKG_STATUS_busy 0 = false ∧ (2 ≤ x.target → e.fld F.PWR_PKG_STATUS_result 0 = 3))) ∧
      (d.pwr.restoring = false ∨ d.pwr.lowered = [] → s.ends .restoreStep d) ∧
      (∀ cls rest, d.pwr.restoring = true → d.pwr.lowered = cls :: rest → ∃ e, s.ends .restoreStep e ∧ e.pwr.lowered = rest ∧
        (cls ∉ [7, 8, 10] → Spec.onlyPower d e []) ∧
        (cls = 7 → Spec.onlyPower d e [.VLT_STATUS] ∧ ∀ v < 200, e.fld F.VLT_STATUS_state v =
          if d.fld F.VLT_STATUS_state v = 4 then 2 else d.fld F.VLT_STATUS_state v) ∧
        (cls = 8 → e.sys.lpdRefresh = false ∧ ∀ m < 8, e.fld F.LPD_STATUS_state m =
          if d.fld F.LPD_STATUS_state m = 3 then 2 else d.fld F.LPD_STATUS_state m)) ∧
      (¬ (d.pwr.restoring = true ∧ d.pwr.lowered = []) → s.ends (.exitComplete pkgDomain) d) ∧
      (d.pwr.restoring = true → d.pwr.lowered = [] → ∃ e, s.ends (.exitComplete pkgDomain) e ∧ e.pwr.restoring = false ∧
        e.fld F.PWR_STATUS_pkg_state 0 = 0 ∧ e.fld F.PWR_PKG_STATUS_result 0 = 2 ∧ e.flag F.PWR_PKG_STATUS_busy 0 = false)) ∧
    ((d.sys.phase ≠ .running ∨ d.sys.refclk = false → s.ends .p0Request d) ∧
      (d.sys.phase = .running → d.sys.refclk = true → ∃ e, s.ends .p0Request e ∧ e.fld F.PWR_PKG_CTRL_target 0 = 0 ∧
        (busy = true → s.dev.onlyRegs e [.PWR_PKG_CTRL]) ∧
        (busy = false → now = 3 → e.sys.phase = .selfTest ∧ e.flag F.PWR_PKG_STATUS_busy 0 = true ∧
          ∀ i, i < 64 → e.reg .WDN_CORE_BACK i = 0) ∧
        (busy = false → NMap.find? d.pwr.entry pkgDomain = none → (now = 1 ∨ now = 2) → e.pwr.restoring = true)))

/-! ## Wardens, repairs, counters and the freeze -/

/-- O49 (R534, R535, R537, R542 to R544, R58): the host's decision on a proposal takes it from state 1 to approved, to be applied at
the next drain, at once through an amendment of its own, or, where no partition owns the unit, at once; or to rejected; a proposal
in another state keeps it. A heartbeat counts the other warden's lateness; a warden that mismatches or misses three fails, is
reloaded at most three times an hour, and rejoins; the sequencer takes the device to the hard shoulder when neither is heard. -/
def Obligations.ProposalsAndWardens : Prop :=
  ∀ (s : State), let d := s.dev
    (s.open_ = true → ∀ n lanes, n < 32 → laneMapOk lanes = true → n ∉ d.sys.propDone →
      let x := d.prop n
      (d.propState n ≠ 1 → s.ends (.approveAtNextDrain n lanes) (d.setFld F.WDN_PROP_CTRL_decision n 0) ∧
        s.ends (.approveNow n lanes) (d.setFld F.WDN_PROP_CTRL_decision n 1) ∧
        s.ends (.reject n) (d.setFld F.WDN_PROP_CTRL_decision n 2)) ∧
      (d.propState n = 1 → d.ownerless n = false →
        (∃ e, s.ends (.approveAtNextDrain n lanes) e ∧ e.propState n = 2 ∧ e.fld F.WDN_PROP_CTRL_decision n = 0 ∧
          (∀ m, m ≠ n → e.reg .WDN_PROP m = d.reg .WDN_PROP m) ∧ (e.prop n).kind = x.kind ∧ (e.prop n).unit = x.unit ∧
          (x.kind ≠ 7 → (e.prop n).part = (d.clusterPart x.unit).getD 0xff % 256) ∧ e.sys.amendQ = d.sys.amendQ ∧
          e.errQ.length = d.errQ.length + 1) ∧
        (x.kind ≠ 7 → d.sys.amend = none → d.sys.amendQ = [] → (d.clusterPart x.unit).getD 0xff < 256 →
          ∃ e, s.ends (.approveNow n lanes) e ∧ e.propState n = 2 ∧ e.fld F.WDN_PROP_CTRL_decision n = 1 ∧
            e.sys.amend = some (.repair ((d.clusterPart x.unit).getD 0xff))) ∧
        (x.kind ≠ 7 → ∀ a, d.sys.amend = some a → (d.clusterPart x.unit).getD 0xff < 256 →
          ∃ e, s.ends (.approveNow n lanes) e ∧ e.propState n = 2 ∧ e.sys.amend = some a ∧
            e.sys.amendQ = d.sys.amendQ ++ [.repair ((d.clusterPart x.unit).getD 0xff)])) ∧
      (d.propState n = 1 → d.ownerless n = true → d.sys.propWait = [] → (x.kind = 4 → d.upsets = []) →
        (x.kind = 3 → (((lanes.find? (·.1 == x.unit)).map (·.2)).getD []).length ≤ 8) →
        ∃ e, s.ends (.approveAtNextDrain n lanes) e ∧ (e.propState n = 4 ∨ e.propState n = 6)) ∧
      (d.propState n = 1 → d.sys.propWait = [] → ∃ e, s.ends (.reject n) e ∧ e.propState n = 5 ∧
        e.fld F.WDN_PROP_CTRL_decision n = 2 ∧ (∀ m, m ≠ n → e.reg .WDN_PROP m = d.reg .WDN_PROP m) ∧
        e.errQ.length = d.errQ.length + 1 ∧ e.cores = d.cores ∧ e.mem = d.mem)) ∧
    (∀ w, w < 2 →
      let up := d.wardensRun = true
      let failed (v : Nat) := d.flag (if v = 0 then F.WDN_STATUS_west_failed else F.WDN_STATUS_east_failed) 0 = true
      let missed (v : Nat) := NMap.getD d.sys.missed v 0
      let old := (NMap.getD d.sys.reloads w []).filter fun t => decide (d.time < t + 3600000000000)
      (¬ up ∨ failed w → s.ends (.heartbeat w) d) ∧
      (up → ¬ failed w → ∃ e, s.ends (.heartbeat w) e ∧ { e with sys := { e.sys with missed := d.sys.missed } } = d ∧
        NMap.getD e.sys.missed w 0 = 0 ∧ NMap.getD e.sys.missed (1 - w) 0 = min 3 (missed (1 - w) + 1)) ∧
      (∀ mm, let fails := up ∧ ¬ failed w ∧ (mm = true ∨ 3 ≤ missed w)
        (¬ fails → s.ends (.wardenFailed w mm) d) ∧
        (fails → ¬ failed (1 - w) → ∃ e, s.ends (.wardenFailed w mm) e ∧
          e.flag (if w = 0 then F.WDN_STATUS_west_failed else F.WDN_STATUS_east_failed) 0 = true ∧
          e.fld F.WDN_STATUS_lead 0 = (if w = 0 then 1 else 0) ∧ NMap.getD e.sys.missed w 0 = 0 ∧
          e.errQ.length = d.errQ.length + 1 ∧ (w ∈ e.sys.wdnOut ↔ w ∈ d.sys.wdnOut ∨ 3 ≤ old.length)) ∧
        (fails → failed (1 - w) → ∃ e, s.ends (.wardenFailed w mm) e ∧ e.sys.phase = .shoulder ∧
          e.fld F.WDN_MBX_STATUS_cause 0 = 0x20)) ∧
      (let may := up ∧ failed w ∧ w ∉ d.sys.wdnOut ∧ w ∉ d.sys.wdnLoading ∧ old.length < 3
       (¬ may → s.ends (.wardenReload w) d) ∧
       (may → ∃ e, s.ends (.wardenReload w) e ∧ w ∈ e.sys.wdnLoading ∧ NMap.getD e.sys.reloads w [] = old ++ [d.time] ∧
        { e with sys := { e.sys with wdnLoading := d.sys.wdnLoading, reloads := d.sys.reloads } } = d)) ∧
      (¬ (up ∧ w ∈ d.sys.wdnLoading) → s.ends (.wardenRejoin w) d) ∧
      (up → w ∈ d.sys.wdnLoading → d.fld F.WDN_STATUS_restarts 0 < 255 → ∃ e, s.ends (.wardenRejoin w) e ∧
        e.flag (if w = 0 then F.WDN_STATUS_west_failed else F.WDN_STATUS_east_failed) 0 = false ∧
        e.sys.wdnLoading = d.sys.wdnLoading.erase w ∧ e.fld F.WDN_STATUS_restarts 0 = d.fld F.WDN_STATUS_restarts 0 + 1 ∧
        e.errQ.length = d.errQ.length + 1)) ∧
    (d.alive = true → d.sys.phase ≠ .firmware → ∃ e, s.ends .sequencerForcedShoulder e ∧ e.sys.phase = .shoulder ∧
      e.fld F.WDN_MBX_STATUS_cause 0 = 0x20 ∧ e.cores = [] ∧ e.sys.flash = d.settle.sys.flash) ∧
    (d.alive = false ∨ d.sys.phase = .firmware → s.ends .sequencerForcedShoulder d)

/-- O50 (R547, R549, R554 to R559): accumulation adds a partition's events and cycles to its counters; a freeze records its source,
time and origin, halts the convoys of its mask and stops the counters; one while frozen is only counted as ignored; a freeze flit
freezes where links are accepted; a thaw ends it and may resume the convoys it halted. -/
def Obligations.CountersAndFreeze : Prop :=
  ∀ (s : State), let d := s.dev
    let masked (k n : Nat) (v : Convoy) := d.convoy? k n = some v ∧
      bitAt (d.fld F.DBG_FREEZE_CTRL_halt_mask 0) (d.launchOf k v).part = true
    let frozenBy (e : Dev) (src link hops origin otime : Nat) :=
      e.frozen = true ∧ e.fld F.DBG_FREEZE_STATUS_source 0 = src ∧ e.fld F.DBG_FREEZE_STATUS_link 0 = link ∧
      e.fld F.DBG_FREEZE_STATUS_hops 0 = hops ∧ e.reg .DBG_FREEZE_TIME 0 = d.time % 2 ^ 64 ∧
      e.reg .DBG_FREEZE_ORIGIN 0 = origin ∧ e.reg .DBG_FREEZE_OTIME 0 = otime ∧ e.accum = []
    (s.live = true → ∀ p a b c m, p < 16 →
      ((d.part p).enabled = false → s.ends (.counterAccumulate p a b c m) d) ∧
      ((d.part p).enabled = true → d.frozen = false → Spec.rising d.accum → ∃ e, s.ends (.counterAccumulate p a b c m) e ∧
        s.dev.onlyRegs { e with accum := d.accum } [.DBG_ERR, .DBG_ACTIVE, .DBG_ARRAY_BUSY, .DBG_VALU_BUSY, .DBG_MEM_BUSY] ∧
        e.fld F.DBG_ACTIVE_count p = (d.fld F.DBG_ACTIVE_count p + a) % 2 ^ 64 ∧
        e.fld F.DBG_ARRAY_BUSY_count p = (d.fld F.DBG_ARRAY_BUSY_count p + b) % 2 ^ 64 ∧
        e.fld F.DBG_VALU_BUSY_count p = (d.fld F.DBG_VALU_BUSY_count p + c) % 2 ^ 64 ∧
        e.fld F.DBG_MEM_BUSY_count p = (d.fld F.DBG_MEM_BUSY_count p + m) % 2 ^ 64 ∧
        ∀ i < 16, e.fld F.DBG_ERR_count (16 * p + i) =
          (d.fld F.DBG_ERR_count (16 * p + i) + NMap.getD d.accum (16 * p + i) 0) % 2 ^ 64)) ∧
    (s.open_ = true → d.frozen = true → ∃ e, s.ends .freeze e ∧ s.dev.onlyRegsAt e [.DBG_FREEZE_STATUS] 0 ∧ e.frozen = true ∧
      e.fld F.DBG_FREEZE_STATUS_ignored 0 = min (d.fld F.DBG_FREEZE_STATUS_ignored 0 + 1)
        (2 ^ (F.DBG_FREEZE_STATUS_ignored.hi + 1 - F.DBG_FREEZE_STATUS_ignored.lo) - 1)) ∧
    (s.open_ = true → d.frozen = false → ∃ e, s.ends .freeze e ∧ frozenBy e 0 0 0 d.ownNode (d.time % 2 ^ 64) ∧
      (d.flag F.DBG_FREEZE_CTRL_forward 0 = false → e.mem = d.mem ∧ e.links = d.links ∧
        ∀ k n v, masked k n v → v.state = .running → e.convoy? k n = some { v with haltReq := true })) ∧
    (∀ k f, Spec.flitTaken s k f 1 → flVc f.toNat ≠ 0 → flSeq f.toNat = (d.link k).rxSeq →
      let pay := (flPayload f.toNat).toNat
      bits pay 7 0 = 1 → d.flag F.DBG_FREEZE_CTRL_accept_link 0 = true → d.frozen = false →
      ∃ e, s.ends (.freezeFlit k f 0) e ∧ frozenBy e 2 k (bits pay 15 8 % 16) (bits pay 127 64) (bits pay 191 128)) ∧
    (s.live = true → d.flag F.DBG_FREEZE_CTRL_in_en 0 = false → s.ends .freezeIn d) ∧
    (s.live = true → d.flag F.DBG_FREEZE_CTRL_in_en 0 = true → d.frozen = false → ∃ e, s.ends .freezeIn e ∧
      frozenBy e 1 0 0 d.ownNode (d.time % 2 ^ 64)) ∧
    (s.open_ = true → ∀ resume, ∃ e, s.ends (.thaw resume) e ∧ e.frozen = false ∧
      (resume = false → s.dev.onlyRegsAt e [.DBG_FREEZE_STATUS] 0) ∧
      (resume = true → ∀ k n v, masked k n v → v.state.isHalted = true → v.resume.isHalted = false →
        e.convoy? k n = some { v with state := v.resume, resume := .running, haltReq := false, stepping := false }))

/-! ## Pins, start-up and JTAG -/

/-- O51 (R62 to R65, R516, R583, R588 to R592): the pins. Reset puts the device at its reset values but for flash, fuses and the
held cause; its release starts the sequence once power is good, unless a junction is too hot; a lost supply, an excursion or a
lost Causeway row while the device is up takes it to the hard shoulder with cause 0x22. The rows of R62 follow one another: firmware, self-test, the
book and LPDDR training, each to the next phase or to the hard shoulder with its cause. -/
def Obligations.PinsAndStartUp : Prop :=
  ∀ (s : State), let d := s.dev
    let shouldered (i : Instr) (cause : Nat) := ∃ e, s.ends i e ∧ e.sys.phase = .shoulder ∧ e.cores = [] ∧ e.qs = [] ∧
      e.links = [] ∧ e.fld F.WDN_MBX_STATUS_cause 0 = cause
    let started (i : Instr) := ∃ e, s.ends i e ∧ e.sys.phase = .firmware ∧ e.sys.startups = d.sys.startups + 1 ∧ e.cores = [] ∧
      e.sys.fwUse = d.sys.fwRam ∧ e.sys.bookUse = d.sys.bookRam ∧ e.sys.flash = d.sys.flash ∧
      e.fld F.WDN_MBX_STATUS_cause 0 = d.fld F.WDN_MBX_STATUS_cause 0
    -- RESET_N and PG_IN
    (∃ e, s.ends .resetNAssert e ∧ e.sys.phase = .inReset ∧ e.sys.resetN = false ∧ e.sys.coreEn = false ∧
      e.sys.thermtrip = false ∧ e.cores = [] ∧ e.qs = [] ∧ e.links = [] ∧ e.wlog = [] ∧
      (d.sys.flashOp = none → e.sys.flash = d.sys.flash) ∧ e.sys.lpdRefresh = d.sys.lpdTrained ∧
      e.fld F.WDN_MBX_STATUS_cause 0 = d.fld F.WDN_MBX_STATUS_cause 0 ∧
      ∀ r i, r ≠ .WDN_MBX_STATUS → e.reg r i = (r.resetValue i).toNat) ∧
    (∀ hot, (d.sys.resetN = true → s.ends (.resetNRelease hot) d) ∧
      (d.sys.resetN = false → (hot = false ∧ d.sys.pgHigh = true ∧ d.sys.powered = true → started (.resetNRelease hot)) ∧
        (¬ (hot = false ∧ d.sys.pgHigh = true ∧ d.sys.powered = true) →
          s.ends (.resetNRelease hot) { d with sys := { d.sys with resetN := true, thermtrip := hot } }))) ∧
    (d.sys.phase = .inReset ∧ d.sys.resetN = true ∧ d.sys.thermtrip = false → started .pgInHigh) ∧
    (¬ (d.sys.phase = .inReset ∧ d.sys.resetN = true ∧ d.sys.thermtrip = false) →
      s.ends .pgInHigh { d with sys := { d.sys with pgIn := true, pgHigh := true, powered := true } }) ∧
    (d.sys.resetN = false → s.ends .pgInFall { d with sys := { d.sys with pgIn := false, pgHigh := false } }) ∧
    (d.sys.resetN = true → d.sys.thermtrip = false → d.alive = true →
      shouldered .pgInFall 0x22 ∧ ∃ e, s.ends .pgInFall e ∧ e.sys.coreEn = false) ∧
    s.ends .refclkLoss { d with sys := { d.sys with refclk := false } } ∧
    (∃ e, s.ends .powerRemoval e ∧ e.regs = [] ∧ e.sys.powered = false ∧ (d.sys.flashOp = none → e.sys.flash = d.sys.flash) ∧
      ∀ a, e.memByte a = if isHost (a / 128) = true then d.memByte a else 0) ∧
    (d.alive = true → shouldered .vddCoreExcursion 0x22) ∧ (d.alive = false → s.ends .vddCoreExcursion d) ∧
    (s.live = true → ∀ r, r < 10 → shouldered (.causewayRowPortLoss r) 0x22) ∧
    -- ports
    (∀ p, p < 2 →
      let role := d.fld F.HIF_PORT_STATUS_role p
      (role = 1 → s.ends (.perstAssert p) d ∧ s.ends (.perstDeassert p) d) ∧
      (role ≠ 1 → (∃ e, s.ends (.perstAssert p) e ∧ p ∈ e.sys.perst ∧ e.fld F.HIF_PORT_STATUS_width p = 0 ∧
          e.fld F.HIF_PORT_STATUS_speed p = 0 ∧ ∀ r i, ¬ (r = .HIF_PORT_STATUS ∧ i = p) → e.reg r i = d.reg r i) ∧
        s.ends (.perstDeassert p) { d with sys := { d.sys with perst := d.sys.perst.erase p } }) ∧
      ∀ w sp cxl, w ∈ [1, 4, 8, 16] → 1 ≤ sp → sp ≤ 6 →
        (d.sys.phase = .inReset ∨ p ∈ d.sys.perst ∨ role = 2 → s.ends (.hostPortTrained p w sp cxl) d) ∧
        (¬ (d.sys.phase = .inReset ∨ p ∈ d.sys.perst ∨ role = 2) → ∃ e, s.ends (.hostPortTrained p w sp cxl) e ∧
          p ∈ e.sys.hostTrained ∧ e.fld F.HIF_PORT_STATUS_width p = w ∧ e.fld F.HIF_PORT_STATUS_speed p = sp ∧
          e.flag F.HIF_PORT_STATUS_cxl p = cxl ∧ ∀ r i, ¬ (r = .HIF_PORT_STATUS ∧ i = p) → e.reg r i = d.reg r i)) ∧
    -- the start-up sequence
    (∀ a b st, d.sys.refclk = true → d.sys.phase = .firmware →
      let ok := if d.sys.fwUse = [] then a || b else st
      (ok = true → ∃ e, s.ends (.firmwareVerified a b st) e ∧ e.sys.phase = .selfTest ∧ e.time = 0 ∧ e.sys.coreEn = true ∧
        e.sys.fwCopy = if d.sys.fwUse = [] then (if a then 0 else 1) else 2) ∧
      (ok = false → shouldered (.firmwareVerified a b st) 1)) ∧
    (∀ f, testOk f = true → d.sys.refclk = true → d.sys.phase = .selfTest →
      (testFatal f = 0 → ∃ e, s.ends (.selfTestComplete f) e ∧ e.sys.phase = .book ∧ e.sys.found = some f ∧ e.sys.selfMap = 0 ∧
        (∀ a, e.memByte a = if isStacked (a / 128) = true then 0 else d.memByte a) ∧
        ∀ v < 200, e.fld F.VLT_STATUS_state v = 2) ∧
      ∀ n < 6, bitAt (testFatal f) n = true → (∀ m < n, bitAt (testFatal f) m = false) →
        shouldered (.selfTestComplete f) (0x10 + n)) ∧
    (d.sys.refclk = true → d.sys.phase = .book → d.flag F.RLB_STATUS_sealed 0 = false →
      let cs := bookCopies s.fuses d.sys
      ((∀ c ∈ cs, c.2.2 ≠ none) → ∃ t, exec .bookLoaded s = .next t ∧ t.fuses = s.fuses ∧ t.dev.sys.phase = .shoulder) ∧
      ((∃ c ∈ cs, c.2.2 = none) → ∃ t, exec .bookLoaded s = .next t ∧ t.dev.sys.phase = .lpddr ∧
        t.fuses.keyHash = s.fuses.keyHash ∧ t.fuses.revoked = s.fuses.revoked ∧ s.fuses.floor.length ≤ t.fuses.floor.length)) ∧
    (∀ ms : List LpdFound, ms.length = 8 → (∀ x ∈ ms, x.shift < 3 ∧ 1 ≤ x.ranks ∧ x.ranks ≤ 2 ∧ x.rate < 2 ^ 14) →
      d.sys.refclk = true → d.sys.phase = .lpddr →
      let bad := ∃ x ∈ ms, x.ok = false ∨ x.shift ≠ (ms.headD ⟨false, 0, 0, 0⟩).shift
      (bad → shouldered (.lpddrTrainingComplete ms) 0x16) ∧
      (¬ bad → d.secByte 12 0 = 0 → ∃ e, s.ends (.lpddrTrainingComplete ms) e ∧ e.sys.phase = .running ∧ e.sys.lpdTrained = true ∧
        ∀ c < 200, heldCluster c = false → e.fld F.PWR_CLUSTER_STATUS_state c = if (d.clusterPart c).isSome then 0 else 3)) ∧
    -- outside its phase, each row of the sequence changes nothing
    (∀ a b st, d.sys.phase ≠ .firmware → s.ends (.firmwareVerified a b st) d) ∧
    (∀ f, testOk f = true → d.sys.phase ≠ .selfTest → s.ends (.selfTestComplete f) d) ∧
    (d.sys.phase ≠ .book → s.ends .bookLoaded d) ∧
    (∀ ms : List LpdFound, ms.length = 8 → (∀ x ∈ ms, x.shift < 3 ∧ 1 ≤ x.ranks ∧ x.ranks ≤ 2 ∧ x.rate < 2 ^ 14) →
      d.sys.phase ≠ .lpddr → s.ends (.lpddrTrainingComplete ms) d)

/-- (R562, R563) Each JTAG instruction loads its code, and the boundary scan captures and shifts where it acts; DBG_ACCESS
reaches the map only while the port is enabled and BAR0 is open, and captures done, error, the offset and the data; and a
register read or refused through it changes no register. -/
def Sys2Proof.Spec.jtagPort : Prop :=
  ∀ (s : State), let d := s.dev
    d.sys.powered = true →
    let loaded (c : Nat) : Dev := { d with sys := { d.sys with ir := c } }
    s.ends .idcode (loaded 1) ∧ s.ends .trstNAssert (loaded 1) ∧ s.ends .clamp (loaded 4) ∧ s.ends .highz (loaded 5) ∧
    s.ends .bypass (loaded 0xff) ∧ (loaded 1).captured = 0x1160056b ∧
    (d.sys.resetN = true → ∀ c ∈ [0, 4, 5], (loaded c).pinDrive = 0 ∧ (loaded c).captured = 0) ∧
    (∀ pins shift, s.ends (.samplePreload pins shift) { d with sys := { d.sys with ir := 2, scanIn := pins, scanOut := shift } } ∧
      (d.sys.resetN = true → s.ends (.extest pins shift) (loaded 0)) ∧
      (d.sys.resetN = false → s.ends (.extest pins shift) { d with sys := { d.sys with ir := 0, scanIn := pins, scanOut := shift } })) ∧
    (∀ off wide, off < 2 ^ 26 →
      (d.flag F.DBG_JTAG_CTRL_enable 0 = false ∨ d.bar0Open off = false → ∀ v wfi lanes, laneMapOk lanes = true →
        let e : Dev := { loaded 0x20 with sys := { (loaded 0x20).sys with dbgAccess := dbgWord true off (bits d.sys.dbgAccess.toNat 63 0) } }
        s.ends (.dbgAccessRead off wide) e ∧ s.ends (.dbgAccessWrite off wide v wfi lanes) e) ∧
      (d.flag F.DBG_JTAG_CTRL_enable 0 = true → d.bar0Open off = true →
        (∃ e, s.ends (.dbgAccessRead off wide) e ∧ e.sys.ir = 0x20 ∧ e.mem = d.mem ∧
          (bits e.sys.dbgAccess.toNat 95 95 = 1 ∧ bits e.sys.dbgAccess.toNat 94 94 = 0 ∧ bits e.sys.dbgAccess.toNat 89 64 = off) ∧
          ((match bar0Block off with | some (b, copy, _) => b.cluster copy | none => none) = none →
            bits e.sys.dbgAccess.toNat 63 0 = d.bar0Read off wide % 2 ^ 64 ∧ e.regs = d.regs)) ∧
        ∀ (v : Word) wfi lanes, laneMapOk lanes = true → s.ends (.dbgAccessWrite off wide v wfi lanes)
          (((loaded 0x20).barWake.bar0Write s.fuses { wfi := wfi, lanes := lanes } off (if wide then 8 else 4) v.toNat).setDbg
            (dbgWord false off (bits d.sys.dbgAccess.toNat 63 0)))))

/-! ## The mailbox, its other paths, amendments and register writes -/

namespace Sys2Proof.Spec

/-- The mailbox command of an opcode ends with the device as `e`, and the fuses as they were. -/
def mailboxEnds (s : State) (op : Nat) (tag : BitVec 8) (e : Dev) : Prop :=
  match op with
  | 1 => s.ends (.status tag) e
  | 2 => s.ends (.readLog tag) e
  | 3 => s.ends (.writeFlash tag) e
  | 4 => s.ends (.stageBook tag) e
  | 5 => s.ends (.loadWardenFw tag) e
  | 6 => s.ends (.restart tag) e
  | 7 => s.ends (.clearCause tag) e
  | 8 => s.ends (.enterShoulder tag) e
  | 9 => s.ends (.fuseKey tag) e
  | _ => s.ends (.revokeKey tag) e

/-- R67: a mailbox command of opcode `op` is taken up and served: the sideband and capability answer, none runs, and the state
serves it. -/
abbrev mailboxTakes (d : Dev) (op : Nat) : Prop :=
  d.sys.phase ≠ .inReset ∧ d.sys.powered = true ∧ d.notP4 = true ∧ d.flag F.WDN_MBX_STATUS_busy 0 = false ∧ d.mbxServes op = true

/-- R67, R70: the command has ended with a result: done, not busy, and its tag in the first byte of the window. -/
def mailboxDone (e : Dev) (tag : BitVec 8) (result : Nat) : Prop :=
  e.fld F.WDN_MBX_STATUS_result 0 = result ∧ e.flag F.WDN_MBX_STATUS_busy 0 = false ∧ e.flag F.WDN_MBX_STATUS_done 0 = true ∧
    NMap.getD (α := Byte) e.sys.mbx 0 0 = tag

/-- The byte at `i` of the mailbox's data window. -/
def windowByte (d : Dev) (i : Nat) : Byte := NMap.getD (α := Byte) d.sys.mbx i 0

/-- A block staged in warden RAM of at most `most` blocks: block 0 begins an image, the others come in order (R67, R68). -/
abbrev stages (ram : List Byte) (block most : Nat) : Prop := block < most ∧ (block = 0 ∨ block * 256 = ram.length)

end Sys2Proof.Spec

open Sys2Proof.Spec

/-- O52 (R42, R64 to R68, R70): a command of the mailbox is dropped in reset, rejected while another runs and refused in a state that
does not serve it; STATUS, READ_LOG, WRITE_FLASH, the two staging commands, RESTART, CLEAR_CAUSE, ENTER_SHOULDER, FUSE_KEY and
REVOKE_KEY each have their effect and result; a drain for the hard shoulder and a flash write end in it and with it. -/
def Obligations.MailboxCommands : Prop :=
  ∀ (s : State) (tag : BitVec 8), let d := s.dev
    let win := (List.range 256).map (windowByte d)
    let arg (i : Nat) := d.reg .WDN_MBX_ARG i
    (∀ op, 1 ≤ op → op ≤ 10 →
      (d.sys.phase = .inReset ∨ d.sys.powered = false → mailboxEnds s op tag d) ∧
      (d.sys.phase ≠ .inReset → d.sys.powered = true → d.notP4 = true →
        (d.flag F.WDN_MBX_STATUS_busy 0 = true → ∃ e, mailboxEnds s op tag e ∧ e.flag F.WDN_MBX_STATUS_busy_reject 0 = true ∧
          d.onlyRegs e [.WDN_MBX_CMD, .WDN_MBX_STATUS]) ∧
        (d.flag F.WDN_MBX_STATUS_busy 0 = false → d.mbxServes op = false → ∃ e, mailboxEnds s op tag e ∧ mailboxDone e tag 1 ∧
          d.onlyRegs { e with sys := d.sys } [.WDN_MBX_CMD, .WDN_MBX_STATUS] ∧
          { e.sys with mbx := d.sys.mbx, mbxTag := d.sys.mbxTag } = d.sys ∧ ∀ i, i ≠ 0 → windowByte e i = windowByte d i))) ∧
    (mailboxTakes d 1 → ∃ e, s.ends (.status tag) e ∧ mailboxDone e tag 0 ∧ d.onlyRegs { e with sys := d.sys } [.WDN_MBX_CMD, .WDN_MBX_STATUS] ∧
      ∀ i, 1 ≤ i → i < 16 + d.digestBytes.length → windowByte e i =
        ([tag, BitVec.ofNat 8 d.mbxState, BitVec.ofNat 8 (d.fld F.WDN_MBX_STATUS_cause 0),
          BitVec.ofNat 8 (d.fld F.HIF_STATUS_self_boot_failed 0)] ++ leBytes d.sys.selfMap 8 ++ List.replicate 4 0 ++
          d.digestBytes).getD i 0) ∧
    (mailboxTakes d 2 → bitAt (arg 0) 31 = false → ∃ e, s.ends (.readLog tag) e ∧ mailboxDone e tag 0 ∧
      ∀ i, 1 ≤ i → i < 256 → windowByte e i = ((d.wlog.flatMap fun r => leBytes r.toNat 32).drop (arg 0)).getD i 0) ∧
    (mailboxTakes d 2 → bitAt (arg 0) 31 = true → repairHalf < bits (arg 0) 30 0 + 256 → ∃ e, s.ends (.readLog tag) e ∧ mailboxDone e tag 2) ∧
    (mailboxTakes d 2 → bitAt (arg 0) 31 = true → bits (arg 0) 30 0 + 256 ≤ repairHalf → ∃ e, s.ends (.readLog tag) e ∧ mailboxDone e tag 0 ∧
      ∀ i, 1 ≤ i → i < 256 → windowByte e i =
        (d.sys.flashBytes (repairBase (d.sys.repairActive.getD 0) + bits (arg 0) 30 0) 256).getD i 0) ∧
    (mailboxTakes d 3 →
      let bad := arg 1 = 0 ∨ 256 < arg 1 ∨ d.sys.flashSize < arg 0 + arg 1
      (bad → ∃ e, s.ends (.writeFlash tag) e ∧ mailboxDone e tag 2 ∧ e.sys.flashOp = d.sys.flashOp) ∧
      (¬ bad → d.flashShut (arg 0) (arg 1) = true → ∃ e, s.ends (.writeFlash tag) e ∧ mailboxDone e tag 1 ∧ e.sys.flashOp = d.sys.flashOp) ∧
      (¬ bad → d.flashShut (arg 0) (arg 1) = false → ∃ e, s.ends (.writeFlash tag) e ∧ e.flag F.WDN_MBX_STATUS_busy 0 = true ∧
        e.sys.flashOp = some (arg 0, win.take (arg 1)) ∧ e.sys.flash = d.sys.flash)) ∧
    (mailboxTakes d 4 →
      (stages d.sys.bookRam (arg 0) 8192 → ∃ e, s.ends (.stageBook tag) e ∧ mailboxDone e tag 0 ∧
        e.sys.bookRam = (if arg 0 = 0 then [] else d.sys.bookRam) ++ win) ∧
      (¬ stages d.sys.bookRam (arg 0) 8192 → ∃ e, s.ends (.stageBook tag) e ∧ mailboxDone e tag 2 ∧ e.sys.bookRam = d.sys.bookRam)) ∧
    (mailboxTakes d 5 →
      (stages d.sys.fwRam (arg 0) 16384 → ∃ e, s.ends (.loadWardenFw tag) e ∧ mailboxDone e tag 0 ∧
        e.sys.fwRam = (if arg 0 = 0 then [] else d.sys.fwRam) ++ win) ∧
      (¬ stages d.sys.fwRam (arg 0) 16384 → ∃ e, s.ends (.loadWardenFw tag) e ∧ mailboxDone e tag 2 ∧ e.sys.fwRam = d.sys.fwRam)) ∧
    (mailboxTakes d 6 → ∃ e, s.ends (.restart tag) e ∧ mailboxDone e tag 0 ∧ e.sys.phase = .firmware ∧ e.sys.restarting = true ∧
      e.sys.fwUse = d.sys.fwRam ∧ e.sys.bookUse = d.sys.bookRam ∧ e.cores = [] ∧ e.sys.hostTrained = d.sys.hostTrained) ∧
    (mailboxTakes d 7 → ∃ e, s.ends (.clearCause tag) e ∧ mailboxDone e tag 0 ∧ e.fld F.WDN_MBX_STATUS_cause 0 = 0 ∧
      d.onlyRegs { e with sys := d.sys } [.WDN_MBX_CMD, .WDN_MBX_STATUS]) ∧
    (mailboxTakes d 8 → ∃ e, s.ends (.enterShoulder tag) e ∧ e.sys.shoulderDrain = true ∧ e.flag F.WDN_MBX_STATUS_busy 0 = true ∧
      ∀ p < 16, (d.part p).enabled = true → (e.pstate p).draining = true) ∧
    (mailboxTakes d 9 →
      let slot := arg 0
      (slot = 0 ∨ 3 < slot → ∃ e, s.ends (.fuseKey tag) e ∧ mailboxDone e tag 2) ∧
      (1 ≤ slot → slot ≤ 3 → (NMap.find? s.fuses.keyHash slot).isSome = true → ∃ e, s.ends (.fuseKey tag) e ∧ mailboxDone e tag 1) ∧
      (1 ≤ slot → slot ≤ 3 → NMap.find? s.fuses.keyHash slot = none → ∃ (e : Dev),
        exec (.fuseKey tag) s = .next { s with
          fuses := { s.fuses with keyHash := NMap.insert s.fuses.keyHash slot (BitVec.ofNat 384 (beNat (win.take 48))) }
          dev := e.settle } ∧ mailboxDone e tag 0)) ∧
    (mailboxTakes d 10 →
      let slot := arg 0
      let own := d.flag F.RLB_STATUS_sealed 0 = true ∧ d.fld F.RLB_STATUS_key_slot 0 = slot
      (3 < slot → ∃ e, s.ends (.revokeKey tag) e ∧ mailboxDone e tag 2) ∧
      (slot ≤ 3 → own → ∃ e, s.ends (.revokeKey tag) e ∧ mailboxDone e tag 1) ∧
      (slot ≤ 3 → ¬ own → ∃ (e : Dev), exec (.revokeKey tag) s = .next { s with
          fuses := { s.fuses with revoked := s.fuses.revoked ||| BitVec.ofNat 4 (2 ^ slot) }, dev := e.settle } ∧
        mailboxDone e tag 0)) ∧
    (∀ lanes, laneMapOk lanes = true → s.live = true →
      let still := ∀ p < 16, (d.part p).enabled = true → d.drained p = true
      (d.sys.shoulderDrain = false → s.ends (.shoulderDrainComplete lanes) d ∧ s.ends (.shoulderDrainLimit lanes) d) ∧
      (d.sys.shoulderDrain = true → ¬ still → s.ends (.shoulderDrainComplete lanes) d) ∧
      (d.sys.shoulderDrain = true → ∃ e, s.ends (.shoulderDrainLimit lanes) e ∧ e.sys.phase = .shoulder ∧ e.sys.shoulderDrain = false ∧
        e.fld F.WDN_MBX_STATUS_cause 0 = 0x21 ∧ mailboxDone e (BitVec.ofNat 8 d.sys.mbxTag) 0 ∧ e.cores = [] ∧
        (still → s.ends (.shoulderDrainComplete lanes) e))) ∧
    (∀ mm, d.sys.flashOp = none → s.ends (.flashWriteComplete mm) d) ∧
    (∀ off bs, d.sys.flashOp = some (off, bs) →
      (∃ e, s.ends (.flashWriteComplete true) e ∧ e.sys.flashOp = none ∧ mailboxDone e (BitVec.ofNat 8 d.sys.mbxTag) 3) ∧
      ∃ e, s.ends (.flashWriteComplete false) e ∧ e.sys.flashOp = none ∧ mailboxDone e (BitVec.ofNat 8 d.sys.mbxTag) 0 ∧
        e.sys.flash = (d.sys.writeFlash off bs).flash)

/-- (R584, R585, R593) A byte that SMBus or UART writes in the data window is stored there, and one outside the capability is
ignored; a read answers the bytes of the capability; a UART request with a bad CRC or range is answered with its status; nothing
answers in reset. -/
def Sys2Proof.Spec.sidebandPaths : Prop :=
  ∀ (s : State), let d := s.dev
    let up := d.sys.powered = true ∧ d.sys.phase ≠ .inReset
    let told (e : Dev) (r : List Byte) := { e with sys := { e.sys with uartOut := d.sys.uartOut } } = d ∧
      e.sys.uartOut = r ++ leBytes (crcOf 3 r) 2
    s.ends .uartTimeout d ∧
    (∀ off bs, off < 2 ^ 16 →
      (¬ up → s.ends (.smbusWrite off bs) d) ∧
      (up → off + bs.length ≤ 8 ∨ 0x120 ≤ off → s.ends (.smbusWrite off bs) { d with sys := { d.sys with smbOff := off + bs.length } }) ∧
      (up → 0x20 ≤ off → off + bs.length ≤ 0x120 → ∃ e, s.ends (.smbusWrite off bs) e ∧
        { e with sys := { e.sys with mbx := d.sys.mbx, smbOff := d.sys.smbOff } } = d ∧ e.sys.smbOff = off + bs.length ∧
        ∀ i, windowByte e i = if off - 0x20 ≤ i ∧ i < off - 0x20 + bs.length then bs.getD (i - (off - 0x20)) 0 else windowByte d i) ∧
      (∀ i, i < 4 → off = 0x10 + 4 * i → bs.length = 4 → up → ∃ e, s.ends (.smbusWrite off bs) e ∧
        e.reg .WDN_MBX_ARG i = leNat bs ∧ ∀ r j, ¬ (r = .WDN_MBX_ARG ∧ j = i) → e.reg r j = d.reg r j)) ∧
    (∀ n, (¬ up → s.ends (.smbusRead n) d) ∧
      (up → s.ends (.smbusRead n) { d with sys := { d.sys with
        smbOff := d.sys.smbOff + n, smbOut := (List.range n).map fun i => d.mbxByte (d.sys.smbOff + i) } })) ∧
    (∀ off bs (crc : BitVec 16), off < 2 ^ 16 → 1 ≤ bs.length → bs.length ≤ 256 →
      let good := crcOf 3 (uartHead 0x57 off bs.length ++ bs) = crc.toNat
      let inside := 8 ≤ off ∧ off + bs.length ≤ 0x120
      (¬ up → s.ends (.uartWrite off bs crc) d) ∧
      (up → ¬ good → ∃ e, s.ends (.uartWrite off bs crc) e ∧ told e [1]) ∧
      (up → good → ¬ inside → ∃ e, s.ends (.uartWrite off bs crc) e ∧ told e [2]) ∧
      (up → good → 0x20 ≤ off → inside → ∃ e, s.ends (.uartWrite off bs crc) e ∧ told { e with sys := { e.sys with mbx := d.sys.mbx } } [0] ∧
        ∀ i, windowByte e i = if off - 0x20 ≤ i ∧ i < off - 0x20 + bs.length then bs.getD (i - (off - 0x20)) 0 else windowByte d i)) ∧
    ∀ off n (crc : BitVec 16), off < 2 ^ 16 → 1 ≤ n → n ≤ 256 →
      let good := crcOf 3 (uartHead 0x52 off n) = crc.toNat
      let inside := 8 ≤ off ∧ off + n ≤ 0x120
      (¬ up → s.ends (.uartRead off n crc) d) ∧
      (up → ¬ good → ∃ e, s.ends (.uartRead off n crc) e ∧ told e [1]) ∧
      (up → good → ¬ inside → ∃ e, s.ends (.uartRead off n crc) e ∧ told e [2]) ∧
      (up → good → inside → ∃ e, s.ends (.uartRead off n crc) e ∧ told e (0 :: (List.range n).map fun i => d.mbxByte (off + i)))

/-- O53 (R562, R563, R584, R585, R593): the JTAG, SMBus and UART paths. -/
def Obligations.JtagAndSideband : Prop := Spec.jtagPort ∧ Spec.sidebandPaths

/-- O54 (R54 to R60, R461): an amendment submitted while one is in progress is rejected; one whose image is poisoned or fails a
check sets its code and changes nothing else of the book; one that passes waits for its partition to drain. Once it has, its
sections are in force, digest and count are the new ones and the code tells so; a drain that takes too long abandons it. -/
def Obligations.RouteAmendments : Prop :=
  ∀ (s : State), let d := s.dev
    let code := d.fld F.RLB_AMEND_STATUS_code 0
    (s.open_ = true →
      (1 ≤ code ∧ code ≤ 3 → s.ends .amendmentSubmit (d.setFld F.RLB_AMEND_STATUS_busy_reject 0 1)) ∧
      (¬ (1 ≤ code ∧ code ≤ 3) → d.sys.amend = none → d.sys.amendQ = [] →
        let (d1, img, bad) := d.amRead
        (bad = true ∨ (amRefusal s.fuses d1 img false).isSome = true → d1.sys = d.sys → ∃ e, s.ends .amendmentSubmit e ∧
          e.fld F.RLB_AMEND_STATUS_code 0 = (if bad then 10 else (amRefusal s.fuses d1 img false).getD 0) ∧
          e.fld F.RLB_AMEND_STATUS_partition 0 = amTarget img % 16 ∧ e.sys = d.sys ∧ e.parts = d1.parts ∧
          ∀ i, e.reg .RLB_DIGEST i = d1.reg .RLB_DIGEST i) ∧
        (bad = false → amRefusal s.fuses d1 img false = none → ∃ e, s.ends .amendmentSubmit e ∧
          e.fld F.RLB_AMEND_STATUS_code 0 = 2 ∧ e.fld F.RLB_STATUS_state 0 = 3 ∧
          e.sys.amend = some (.route (amTarget img) img) ∧ (e.pstate (amTarget img)).draining = true))) ∧
    (s.live = true → ∀ lanes, laneMapOk lanes = true →
      (d.sys.amend = none → s.ends (.amendmentDrainComplete lanes) d ∧ s.ends .amendmentDrainTimeout d) ∧
      (∀ p img, d.sys.amend = some (.route p img) →
        (d.drained p = false → s.ends (.amendmentDrainComplete lanes) d) ∧
        (d.drained p = true → d.sys.amendQ = [] → d.fld F.RLB_AMEND_COUNT_value 0 < 2 ^ 32 - 1 →
          ∃ e, s.ends (.amendmentDrainComplete lanes) e ∧
          e.sys.sections = amSections d.sys.sections img ∧ e.parts = partTable (amSections d.sys.sections img) ∧
          e.fld F.RLB_AMEND_STATUS_code 0 = 4 ∧ e.fld F.RLB_STATUS_state 0 = 2 ∧
          e.fld F.RLB_AMEND_COUNT_value 0 = d.fld F.RLB_AMEND_COUNT_value 0 + 1 ∧
          e.reg .RLB_CRC 0 = crcContinue 2 (d.reg .RLB_CRC 0) img % 2 ^ 64 ∧ e.digestBytes = sha384 (d.digestBytes ++ img) ∧
          e.sys.amend = none ∧ (e.pstate p).draining = false) ∧
        (d.sys.amendQ = [] → ∃ e, s.ends .amendmentDrainTimeout e ∧ e.fld F.RLB_AMEND_STATUS_code 0 = 11 ∧
          e.fld F.RLB_STATUS_state 0 = 2 ∧ e.sys.amend = none ∧ e.sys.sections = d.sys.sections ∧ e.parts = d.parts ∧
          (e.pstate p).draining = false)) ∧
      ∀ p, d.sys.amend = some (.repair p) →
        (d.drained p = false → s.ends (.amendmentDrainComplete lanes) d) ∧
        (d.sys.amendQ = [] → (∃ e, s.ends .amendmentDrainTimeout e ∧ e.sys.amend = none ∧ e.sys.sections = d.sys.sections ∧
            ∀ n, e.reg .WDN_PROP n = d.reg .WDN_PROP n) ∧
          (d.drained p = true → ∃ e, s.ends (.amendmentDrainComplete lanes) e ∧ e.sys.amend = none ∧
            e.sys.sections = d.sys.sections ∧ (e.pstate p).draining = false)))

namespace Sys2Proof.Spec

/-- Registers of 32 bits whose writes have no effect but on what they hold. -/
def plainRegs : List Reg :=
  [.HIF_STATUS, .HIF_W4_KEY, .HIF_SELF_HART, .HIF_CTX_TAGS, .PWR_QUAD_STATUS, .WDN_STATUS, .WDN_ERR_TAIL, .WDN_EVENT_CTRL,
   .PRT_STATUS, .PRT_SLOW_CTRL, .XLT_HKEY, .XLT_REQ_CTRL, .XLT_PSTATUS, .MS_WDOG_CTRL, .DBG_FREEZE_LINKS, .DBG_JTAG_CTRL,
   .LNK_STATUS, .LNK_PQ_STATUS]

end Sys2Proof.Spec

/-- O55 (R7, R8, R53, R70, R414, R441, R444): a register write of a source that does not reach BAR0, or of a BAR0 that is not open, does
nothing, and one through the port that is not the primary one is counted; one that reaches a plain register stores its RW bits
and clears the W1C bits it writes 1 to; one that reaches a sealed field is counted with its offset and leaves the sealed bits; a misaligned one has no
effect; the mailbox capability takes an aligned word. -/
def Obligations.RegisterWrites : Prop :=
  ∀ (s : State) (off n : Nat) (v : Word) (wfi : Bool) (lanes : List (Nat × List Nat)), laneMapOk lanes = true → 1 ≤ n → n ≤ 8 →
    let d := s.dev
    let env : WriteEnv := { wfi := wfi, lanes := lanes }
    let reaches (src : Nat) := if src < 2 then d.portUp src = true else d.sys.harts ≠ 0
    (∀ src < 3, off < 2 ^ 26 →
      let c := Instr.registerWrite src 0 off n v wfi lanes
      let primary := src = 2 ∨ d.fld F.HIF_STATUS_primary 0 = src
      (¬ (reaches src ∧ d.bar0Open off = true) → s.ends c d) ∧
      (reaches src → d.bar0Open off = true → ¬ primary → s.ends c (d.barWake.count F.HIF_DROPPED_WRITES_count 0)) ∧
      (reaches src → d.bar0Open off = true → primary → d.notP4 = true →
        s.ends c (d.bar0Write s.fuses env off n v.toNat) ∧
        (¬ (n = 4 ∧ off % 4 = 0 ∨ n = 8 ∧ off % 8 = 0) → s.ends c d) ∧
        (d.regAt off = none → n = 4 → s.ends c d) ∧
        (∀ r i base, d.regAt off = some (r, i, base) → n = 4 → off % 4 = 0 →
          (r ∈ plainRegs → ∃ e, s.ends c e ∧ d.onlyRegsAt e [r] i ∧ ∀ b < 32,
            bitAt (e.reg r i) b = if bitAt (r.mask (· == .RW)) b then bitAt v.toNat b
              else if bitAt (r.mask (· == .W1C)) b then bitAt (d.reg r i) b && !bitAt v.toNat b else bitAt (d.reg r i) b) ∧
          (r = .MS_WDOG_PERIOD → d.fld F.RLB_LOCKED_WRITE_COUNT_value 0 < 2 ^ 32 - 1 → ∃ e, s.ends c e ∧
            d.onlyRegs e [.RLB_LOCKED_WRITE_COUNT, .RLB_LOCKED_WRITE_ADDR] ∧
            e.fld F.RLB_LOCKED_WRITE_COUNT_value 0 = d.fld F.RLB_LOCKED_WRITE_COUNT_value 0 + 1 ∧
            e.fld F.RLB_LOCKED_WRITE_ADDR_offset 0 = off)))) ∧
    (∀ src < 3, off < 2 ^ 24 →
      let c := Instr.registerWrite src 1 off n v wfi lanes
      (¬ (reaches src ∧ d.awake = true) → s.ends c d) ∧
      (reaches src → d.awake = true → d.notP4 = true → s.ends c (d.pageWrite s.fuses env off n v.toNat))) ∧
    (∀ src < 3, off < 0x120 →
      let c := Instr.registerWrite src 2 off n v wfi lanes
      (¬ (src < 2 ∧ d.portUp src = true ∧ n = 4 ∧ off % 4 = 0) → s.ends c d) ∧
      (src < 2 → d.portUp src = true → n = 4 → off % 4 = 0 → 0x20 ≤ off → ∃ e, s.ends c e ∧ e.regs = d.regs ∧
        ∀ i, windowByte e i = if off - 0x20 ≤ i ∧ i < off - 0x20 + 4 then BitVec.ofNat 8 (v.toNat >>> (8 * (i - (off - 0x20))))
          else windowByte d i))

/-! ## The block as a whole -/

/-- O56 R381: a forced wake completes the wait of the convoy it names, which continues after its wait instruction, without changing the
milestone or anything that other waits and barriers hold; a convoy that is not sleeping is not changed, and the write sets its
error. -/
def Obligations.ForcedWakes : Prop :=
  ∀ (s : State) (c j n : Nat), s.open_ = true → c < 256 → j < 8 → n < 16 → let d := s.dev
    let k := c * 8 + j
    (∀ v w, c < 200 → d.sleeper k n = some (v, w) → ∃ e u, s.ends (.msForceWake c j n) e ∧ e.convoy? k n = some u ∧
      u.pc = v.pc + 8 ∧ u.wait = none ∧ u.v = v.v ∧ u.p = v.p ∧ u.u = v.u ∧
      (u.state = if v.stepping = true ∧ v.stall = none then .halted else .running) ∧
      e.fld F.MS_FORCE_WAKE_error 0 = 0 ∧ e.ms = d.ms ∧ e.qs = d.qs ∧
      ∀ k' n' x, ¬ (k' = k ∧ n' = n) → d.convoy? k' n' = some x →
        ∃ y, e.convoy? k' n' = some y ∧ y.state = x.state ∧ y.wait = x.wait ∧ y.parked = x.parked ∧ y.active = x.active) ∧
    (200 ≤ c ∨ d.sleeper k n = none → ∃ e, s.ends (.msForceWake c j n) e ∧ d.onlyRegs e [.MS_FORCE_WAKE] ∧
      e.fld F.MS_FORCE_WAKE_error 0 = 1)

/-- O57 R422: a reset discards every command that has not been granted and sets HIF_Q_GRANTED, HIF_Q_HEAD and HIF_Q_TAIL equal, without
an event or a signal, and granted commands stay; a resume while the context is faulted has no effect but resume_refused. The states
are those that R421 lets a reset leave. -/
def Obligations.QueueResetAndRefusedResume : Prop :=
  ∀ (s : State) (a q : Nat), s.open_ = true → queueOk a q = true → let d := s.dev
    (d.qState a q ∈ [1, 2, 3] → ∃ e, s.ends (.queueReset a q) e ∧
      (e.queue a q).fetched = [] ∧ (e.queue a q).granted = (d.queue a q).granted ∧
      e.qTail a q = d.qTail a q ∧ e.qHead a q = e.qTail a q ∧ e.qGranted a q = e.qTail a q ∧
      e.evHead a q = d.evHead a q ∧ e.mem = d.mem ∧ e.irqs = d.irqs ∧ e.signals = d.signals ∧ e.ms = d.ms) ∧
    (d.ctxFaulted a = true → s.ends (.queueResume a q) (d.setFld F.HIF_Q_STATUS_resume_refused (queueKey a q) 1))

namespace Sys2Proof.Spec

/-- What every step keeps: nothing raised is left unreported; slot 0 of the fuses holds Omhild's key and no slot but 0 to 3 holds one
(R42); the rollback floor has at most 64 entries (R52). -/
def Inv (s : State) : Prop :=
  s.dev.quiet = true ∧ NMap.find? s.fuses.keyHash 0 = some Config.factoryKeyHash ∧
  (∀ k, 4 ≤ k → NMap.find? s.fuses.keyHash k = none) ∧ s.fuses.floor.length ≤ 64

/-- Fuses are only ever blown: a key stays, a revoked slot stays revoked, and the floor only grows. -/
def fusesGrow (f g : Fuses) : Prop :=
  (∀ k h, NMap.find? f.keyHash k = some h → NMap.find? g.keyHash k = some h) ∧ f.revoked &&& ~~~g.revoked = 0 ∧
  ∃ l, g.floor = l ++ f.floor

end Sys2Proof.Spec

/-- O58 Step: the command in front is run on the state with the queue's rest; with none, the timestamp counts on by one period of the
always-on clock and nothing else changes (the model's choice, log entry 1). -/
def Obligations.StepRunsTheFrontCommand : Prop :=
  ∀ (s : State),
    (∀ c rest, step { s with pending := c :: rest } = exec c { s with pending := rest }) ∧
    step { s with pending := [] } = .next { s with dev := { s.dev with time := (s.dev.time + 10) % 2 ^ 64 }, pending := [] }

/-- O59 Reset (R9, R42, R62): the state after reset has every register at its reset value, no command, no convoy and nothing in memory, the
device in reset with Omhild's key alone in the fuses, and meets the invariant; the reset values are the spec's where it gives them. -/
def Obligations.ResetState : Prop :=
  let s := State.reset
  s.pending = [] ∧ s.dev.sys.phase = .inReset ∧ s.dev.sys.resetN = false ∧
  (∀ r i, s.dev.reg r i = (r.resetValue i).toNat) ∧ s.dev.root = 6400 ∧
  (∀ c < 200, s.dev.fld F.PWR_CLUSTER_STATUS_divider c = 4) ∧
  (∀ k n, s.dev.convoy? k n = none) ∧ (∀ a, s.dev.memByte a = 0) ∧
  (∀ a q, s.dev.qState a q = 0) ∧ s.fuses.revoked = 0 ∧ s.fuses.floor = [] ∧ Spec.Inv s

/-- O60 Invariant (R42, R52, R539): a step of a state that meets the invariant leaves one that does, no step lets a fuse go back, no command is
without a meaning, and a well-formed command in front always completes. -/
def Obligations.EveryStepKeepsTheInvariant : Prop :=
  ∀ (s : State), Spec.Inv s →
    (∀ t, step s = .next t → Spec.Inv t ∧ Spec.fusesGrow s.fuses t.fuses ∧ t.pending = s.pending.tail) ∧
    (∀ c rest, s.pending = c :: rest → c.wellFormed = true → ∃ t, step s = .next t) ∧
    ∀ c rest, s.pending = c :: rest → c.wellFormed = false → step s = .fault .illFormed
end

