-- ==== Sys2Proof/Laws/NMap.lean ====
section
/-! SUPPORT. What the sparse maps answer after each of their operations, and that the operations keep the canonical form. -/

namespace Sys2Proof

variable {α : Type}

@[simp] theorem NMap.find?_nil (k : Nat) : NMap.find? ([] : NMap α) k = none := rfl

@[simp] theorem NMap.find?_insert_same (m : NMap α) (k : Nat) (v : α) : NMap.find? (NMap.insert m k v) k = some v := by
  induction m with
  | nil => simp [NMap.insert, NMap.find?]
  | cons x m ih =>
    obtain ⟨j, w⟩ := x
    unfold NMap.insert
    split
    · simp [NMap.find?]
    · split
      · simp [NMap.find?]
      · rename_i h; simp [NMap.find?, Ne.symm h, ih]

theorem NMap.find?_insert_ne (m : NMap α) {j k : Nat} (v : α) (h : j ≠ k) :
    NMap.find? (NMap.insert m k v) j = NMap.find? m j := by
  induction m with
  | nil => simp [NMap.insert, NMap.find?, Ne.symm h]
  | cons x m ih =>
    obtain ⟨i, w⟩ := x
    unfold NMap.insert
    split
    · simp [NMap.find?, Ne.symm h]
    · split
      · rename_i hk; subst hk; simp [NMap.find?, Ne.symm h]
      · simp only [NMap.find?, ih]

@[simp] theorem NMap.find?_erase_same (m : NMap α) (k : Nat) : NMap.find? (NMap.erase m k) k = none := by
  induction m with
  | nil => rfl
  | cons x m ih =>
    obtain ⟨i, w⟩ := x
    unfold NMap.erase
    split
    · exact ih
    · rename_i h; simp [NMap.find?, h, ih]

theorem NMap.find?_erase_ne (m : NMap α) {j k : Nat} (h : j ≠ k) : NMap.find? (NMap.erase m k) j = NMap.find? m j := by
  induction m with
  | nil => rfl
  | cons x m ih =>
    obtain ⟨i, w⟩ := x
    unfold NMap.erase
    split
    · rename_i hk; subst hk; simp [NMap.find?, Ne.symm h, ih]
    · simp only [NMap.find?, ih]

@[simp] theorem NMap.getD_insert_same (m : NMap α) (k : Nat) (v d : α) : NMap.getD (NMap.insert m k v) k d = v := by
  simp [NMap.getD]

theorem NMap.getD_insert_ne (m : NMap α) {j k : Nat} (v d : α) (h : j ≠ k) :
    NMap.getD (NMap.insert m k v) j d = NMap.getD m j d := by
  simp [NMap.getD, NMap.find?_insert_ne m v h]

@[simp] theorem NMap.getD_erase_same (m : NMap α) (k : Nat) (d : α) : NMap.getD (NMap.erase m k) k d = d := by
  simp [NMap.getD]

theorem NMap.getD_erase_ne (m : NMap α) {j k : Nat} (d : α) (h : j ≠ k) :
    NMap.getD (NMap.erase m k) j d = NMap.getD m j d := by
  simp [NMap.getD, NMap.find?_erase_ne m h]

@[simp] theorem NMap.getD_put_same [DecidableEq α] (m : NMap α) (k : Nat) (v d : α) :
    NMap.getD (NMap.put m k v d) k d = v := by
  unfold NMap.put; split <;> simp_all

theorem NMap.getD_put_ne [DecidableEq α] (m : NMap α) {j k : Nat} (v d d' : α) (h : j ≠ k) :
    NMap.getD (NMap.put m k v d) j d' = NMap.getD m j d' := by
  unfold NMap.put; split
  · exact NMap.getD_erase_ne m d' h
  · exact NMap.getD_insert_ne m v d' h

/-! ### The canonical form -/

/-- The canonical form as a proposition about every entry: each is above the bound and not the default. -/
theorem NMap.wf_iff [DecidableEq α] (d : α) (m : NMap α) :
    NMap.wf d m = true ↔ (∀ x ∈ m, x.2 ≠ d) ∧ m.Pairwise fun x y => x.1 < y.1 := by
  induction m with
  | nil => simp [NMap.wf]
  | cons x m ih =>
    obtain ⟨j, v⟩ := x
    cases m with
    | nil => simp [NMap.wf]
    | cons y m =>
      obtain ⟨k, w⟩ := y
      simp only [NMap.wf, Bool.and_eq_true, decide_eq_true_eq, ih]
      constructor
      · rintro ⟨⟨hv, hjk⟩, hd, hp⟩
        refine ⟨?_, ?_⟩
        · intro z hz
          rcases List.mem_cons.1 hz with rfl | hz
          · exact hv
          · exact hd z hz
        · refine List.pairwise_cons.2 ⟨?_, hp⟩
          intro z hz
          rcases List.mem_cons.1 hz with rfl | hz'
          · exact hjk
          · exact lt_trans hjk ((List.pairwise_cons.1 hp).1 z hz')
      · rintro ⟨hd, hp⟩
        have h := List.pairwise_cons.1 hp
        exact ⟨⟨hd (j, v) (by simp), h.1 (k, w) (by simp)⟩, fun z hz => hd z (List.mem_cons_of_mem _ hz), h.2⟩

theorem NMap.mem_insert {m : NMap α} {k : Nat} {v : α} {x : Nat × α} (h : x ∈ NMap.insert m k v) : x = (k, v) ∨ x ∈ m := by
  induction m with
  | nil => simpa [NMap.insert] using h
  | cons y m ih =>
    obtain ⟨j, w⟩ := y
    unfold NMap.insert at h
    split at h
    · simpa using h
    · split at h
      · rcases List.mem_cons.1 h with h | h
        · exact .inl h
        · exact .inr (List.mem_cons_of_mem _ h)
      · rcases List.mem_cons.1 h with h | h
        · exact .inr (by simp [h])
        · exact (ih h).imp id (List.mem_cons_of_mem _)

theorem NMap.mem_erase {m : NMap α} {k : Nat} {x : Nat × α} (h : x ∈ NMap.erase m k) : x ∈ m := by
  induction m with
  | nil => simp [NMap.erase] at h
  | cons y m ih =>
    obtain ⟨j, w⟩ := y
    unfold NMap.erase at h
    split at h
    · exact List.mem_cons_of_mem _ (ih h)
    · rcases List.mem_cons.1 h with h | h
      · simp [h]
      · exact List.mem_cons_of_mem _ (ih h)

theorem NMap.pairwise_insert {m : NMap α} {k : Nat} {v : α} (h : m.Pairwise fun x y => x.1 < y.1) :
    (NMap.insert m k v).Pairwise fun x y => x.1 < y.1 := by
  induction m with
  | nil => simp [NMap.insert]
  | cons y m ih =>
    obtain ⟨j, w⟩ := y
    have hp := List.pairwise_cons.1 h
    unfold NMap.insert
    split
    · rename_i hk
      refine List.pairwise_cons.2 ⟨?_, h⟩
      intro z hz
      rcases List.mem_cons.1 hz with rfl | hz
      · exact hk
      · exact lt_trans hk (hp.1 z hz)
    · split
      · rename_i hk; subst hk
        exact List.pairwise_cons.2 ⟨hp.1, hp.2⟩
      · refine List.pairwise_cons.2 ⟨?_, ih hp.2⟩
        intro z hz
        rcases NMap.mem_insert hz with rfl | hz
        · show j < k; omega
        · exact hp.1 z hz

theorem NMap.pairwise_erase {m : NMap α} {k : Nat} (h : m.Pairwise fun x y => x.1 < y.1) :
    (NMap.erase m k).Pairwise fun x y => x.1 < y.1 := by
  induction m with
  | nil => simp [NMap.erase]
  | cons y m ih =>
    obtain ⟨j, w⟩ := y
    have hp := List.pairwise_cons.1 h
    unfold NMap.erase
    split
    · exact ih hp.2
    · exact List.pairwise_cons.2 ⟨fun z hz => hp.1 z (NMap.mem_erase hz), ih hp.2⟩

/-- Setting an entry keeps the canonical form. -/
theorem NMap.wf_put [DecidableEq α] (m : NMap α) (k : Nat) (v d : α) (h : NMap.wf d m = true) :
    NMap.wf d (NMap.put m k v d) = true := by
  rw [NMap.wf_iff] at h ⊢
  unfold NMap.put
  split
  · exact ⟨fun x hx => h.1 x (NMap.mem_erase hx), NMap.pairwise_erase h.2⟩
  · rename_i hv
    refine ⟨fun x hx => ?_, NMap.pairwise_insert h.2⟩
    rcases NMap.mem_insert hx with rfl | hx
    · exact hv
    · exact h.1 x hx

end Sys2Proof
end

