-- ==== Sys2Proof/Laws/Regs.lean ====
section
/-! SUPPORT. What a register and a field read as after a register or a field has been written. -/

namespace Sys2Proof.Machine

theorem testBit_bits (n hi lo j : Nat) : (bits n hi lo).testBit j = (decide (j < hi + 1 - lo) && n.testBit (lo + j)) := by
  simp [bits, Nat.testBit_mod_two_pow, Nat.testBit_shiftRight]

theorem testBit_setBits (n hi lo v j : Nat) (h : lo ≤ hi) :
    (setBits n hi lo v).testBit j = if j < lo then n.testBit j else if j ≤ hi then v.testBit (j - lo) else n.testBit j := by
  have e : setBits n hi lo v = 2 ^ lo * (2 ^ (hi + 1 - lo) * (n >>> (hi + 1)) + v % 2 ^ (hi + 1 - lo)) + n % 2 ^ lo := by
    have : (2 : Nat) ^ (hi + 1) = 2 ^ lo * 2 ^ (hi + 1 - lo) := by rw [← Nat.pow_add]; congr 1; omega
    simp only [setBits, this]; ring
  rw [e, Nat.testBit_two_pow_mul_add _ (Nat.mod_lt _ (Nat.two_pow_pos _))]
  split
  · rename_i hj; simp [Nat.testBit_mod_two_pow, hj]
  · rename_i hj
    rw [Nat.testBit_two_pow_mul_add _ (Nat.mod_lt _ (Nat.two_pow_pos _))]
    by_cases hh : j ≤ hi
    · have : j - lo < hi + 1 - lo := by omega
      simp [hh, this, Nat.testBit_mod_two_pow]
    · have : ¬ j - lo < hi + 1 - lo := by omega
      simp only [this, hh, if_false, Nat.testBit_shiftRight]
      congr 1; omega

theorem bits_lt (n hi lo : Nat) : bits n hi lo < 2 ^ (hi + 1 - lo) := Nat.mod_lt _ (Nat.two_pow_pos _)

theorem bits_setBits_same (n hi lo v : Nat) (h : lo ≤ hi) : bits (setBits n hi lo v) hi lo = v % 2 ^ (hi + 1 - lo) := by
  apply Nat.eq_of_testBit_eq
  intro j
  rw [testBit_bits, testBit_setBits _ _ _ _ _ h, Nat.testBit_mod_two_pow]
  by_cases hj : j < hi + 1 - lo
  · have h1 : ¬ lo + j < lo := by omega
    have h2 : lo + j ≤ hi := by omega
    simp [hj, h2]
  · simp [hj]

theorem bits_setBits_disjoint (n hi lo v hi' lo' : Nat) (h : lo ≤ hi) (hd : hi' < lo ∨ hi < lo') :
    bits (setBits n hi lo v) hi' lo' = bits n hi' lo' := by
  apply Nat.eq_of_testBit_eq
  intro j
  rw [testBit_bits, testBit_bits, testBit_setBits _ _ _ _ _ h]
  by_cases hj : j < hi' + 1 - lo'
  · rcases hd with hd | hd
    · have : lo' + j < lo := by omega
      simp [hj, this]
    · have h1 : ¬ lo' + j < lo := by omega
      have h2 : ¬ lo' + j ≤ hi := by omega
      simp [hj, h1, h2]
  · simp [hj]

theorem setBits_lt (n hi lo v w : Nat) (h : lo ≤ hi) (hw : hi < w) (hn : n < 2 ^ w) : setBits n hi lo v < 2 ^ w := by
  apply Nat.lt_pow_two_of_testBit
  intro j hj
  have := Nat.testBit_lt_two_pow (Nat.lt_of_lt_of_le hn (Nat.pow_le_pow_right (by decide) hj))
  rw [testBit_setBits _ _ _ _ _ h]
  have h1 : ¬ j < lo := by omega
  have h2 : ¬ j ≤ hi := by omega
  simp [h1, h2, this]

/-! ### Keys -/

theorem Reg.ctorIdx_lt (r : Reg) : r.ctorIdx < 256 := by cases r <;> decide

theorem Reg.ctorIdx_inj {r q : Reg} (h : r.ctorIdx = q.ctorIdx) : r = q := by
  rw [← Reg.ofNat_ctorIdx r, h, Reg.ofNat_ctorIdx]

theorem regKey_inj {r q : Reg} {i j : Nat} (h : regKey r i = regKey q j) : r = q ∧ i = j := by
  have hr := Reg.ctorIdx_lt r
  have hq := Reg.ctorIdx_lt q
  unfold regKey at h
  have h1 : r.ctorIdx = q.ctorIdx := by omega
  exact ⟨Reg.ctorIdx_inj h1, by omega⟩

/-! ### Registers -/

theorem Dev.reg_lt (d : Dev) (r : Reg) (i : Nat) : d.reg r i < 2 ^ 64 := BitVec.isLt _

/-- A written register reads as its new value. -/
@[simp] theorem Dev.reg_setReg_same (d : Dev) (r : Reg) (i v : Nat) : (d.setReg r i v).reg r i = v % 2 ^ 64 := by
  simp [Dev.reg, Dev.setReg]

/-- Another register, or another copy, reads as before. -/
theorem Dev.reg_setReg_ne (d : Dev) {r q : Reg} {i j : Nat} (v : Nat) (h : ¬ (q = r ∧ j = i)) :
    (d.setReg r i v).reg q j = d.reg q j := by
  have : regKey q j ≠ regKey r i := fun e => h (regKey_inj e)
  simp [Dev.reg, Dev.setReg, NMap.getD_put_ne _ _ _ _ this]

/-- A field that lies in its register's 64 bits. -/
def Fld.ok (f : Fld) : Bool := decide (f.lo ≤ f.hi ∧ f.hi < 64)

/-- A written field reads as the low bits of its new value. -/
theorem Dev.fld_setFld_same (d : Dev) (f : Fld) (i v : Nat) (h : f.ok = true) :
    (d.setFld f i v).fld f i = v % 2 ^ (f.hi + 1 - f.lo) := by
  simp only [Fld.ok, decide_eq_true_eq] at h
  unfold Dev.fld Dev.setFld
  rw [Dev.reg_setReg_same, Nat.mod_eq_of_lt (setBits_lt _ _ _ _ _ h.1 h.2 (Dev.reg_lt ..)), bits_setBits_same _ _ _ _ h.1]

/-- A field of another register, or of another copy, reads as before. -/
theorem Dev.fld_setFld_ne (d : Dev) {f g : Fld} {i j : Nat} (v : Nat) (h : ¬ (g.reg = f.reg ∧ j = i)) :
    (d.setFld f i v).fld g j = d.fld g j := by
  unfold Dev.fld Dev.setFld
  rw [Dev.reg_setReg_ne _ _ h]

/-- A register other than the field's reads as before. -/
theorem Dev.reg_setFld_ne (d : Dev) {f : Fld} {q : Reg} {i j : Nat} (v : Nat) (h : ¬ (q = f.reg ∧ j = i)) :
    (d.setFld f i v).reg q j = d.reg q j := Dev.reg_setReg_ne _ _ h

/-- Another field of the same register reads as before. -/
theorem Dev.fld_setFld_disjoint (d : Dev) {f g : Fld} (i v : Nat) (hr : g.reg = f.reg) (h : f.ok = true)
    (hd : g.hi < f.lo ∨ f.hi < g.lo) : (d.setFld f i v).fld g i = d.fld g i := by
  simp only [Fld.ok, decide_eq_true_eq] at h
  unfold Dev.fld Dev.setFld
  rw [hr, Dev.reg_setReg_same, Nat.mod_eq_of_lt (setBits_lt _ _ _ _ _ h.1 h.2 (Dev.reg_lt ..)),
    bits_setBits_disjoint _ _ _ _ _ _ h.1 hd]

/-- Register writes see a register of a device through its register file alone. -/
theorem Dev.reg_of_regs {d e : Dev} (h : d.regs = e.regs) (r : Reg) (i : Nat) : d.reg r i = e.reg r i := by
  simp [Dev.reg, h]

end Sys2Proof.Machine
end

