-- ==== Sys2Proof/Laws/Run.lean ====
section
/-! SUPPORT. What running a meaning answers, and what the end of a command does: `State.run` and its kin, and `Dev.settle`,
each said once. -/

namespace Sys2Proof.Machine

variable {s t : State} {f : Dev → Dev} {g : Fuses × Dev → Fuses × Dev} {ok : Bool}

/-- A meaning answers a next state exactly where its command is well formed. -/
theorem State.run_next : s.run ok f = .next t ↔ ok = true ∧ t = (if s.dev.awake then s.setDev (f s.dev).settle else s) := by
  unfold State.run; cases ok
  · simp
  · simp only [if_true, Host.Outcome.next.injEq, true_and]; exact eq_comm

theorem State.runBar_next : s.runBar ok f = .next t ↔
    ok = true ∧ t = (if s.dev.awake then s.setDev (f s.dev.barWake).settle else s) := State.run_next

theorem State.runOn_next : s.runOn ok f = .next t ↔ ok = true ∧ t = s.setDev (f s.dev).settle := by
  unfold State.runOn; cases ok
  · simp
  · simp only [if_true, Host.Outcome.next.injEq, true_and]; exact eq_comm

theorem State.runSys_next : s.runSys ok g = .next t ↔
    ok = true ∧ t = { s with fuses := (g (s.fuses, s.dev)).1, dev := (g (s.fuses, s.dev)).2.settle } := by
  unfold State.runSys; cases ok
  · simp
  · simp only [if_true, Host.Outcome.next.injEq, true_and]; exact eq_comm

/-! ### The end of a command -/

@[simp] theorem Dev.logErrs_errQ (d : Dev) : d.logErrs.errQ = [] := rfl
@[simp] theorem Dev.logErrs_vaults (d : Dev) : d.logErrs.vaults = d.vaults := rfl

/-- Every error record of a command has been written when it ends. -/
@[simp] theorem Dev.settle_errQ (d : Dev) : d.settle.errQ = [] := rfl

theorem Dev.watchSymbols_of_quiet {d : Dev} (h : d.quiet = true) : d.watchSymbols = d := by
  simp only [Dev.quiet, Bool.and_eq_true, List.all_eq_true] at h
  have hf : d.vaults.filter (fun x => !x.2.retrain && x.2.over) = [] := by
    rw [List.filter_eq_nil_iff]; intro x hx; have := h.2 x hx; revert this; cases x.2.retrain <;> cases x.2.over <;> simp
  have hm : d.vaults.map (fun x => (x.1, ({ x.2 with retrain := x.2.retrain || x.2.over } : VaultState))) = d.vaults := by
    conv => rhs; rw [← List.map_id d.vaults]
    apply List.map_congr_left
    rintro ⟨v, s⟩ hx
    have := h.2 _ hx
    revert this
    rcases s with ⟨a, b, c, e, r⟩
    cases r <;> simp [VaultState.over]
  unfold Dev.watchSymbols Dev.each
  simp only [hf, hm, List.foldl_nil]

/-- A command that raised nothing ends as it is. -/
theorem Dev.settle_of_quiet {d : Dev} (h : d.quiet = true) : d.settle = d := by
  have he : d.errQ = [] := by simp only [Dev.quiet, Bool.and_eq_true, List.isEmpty_iff] at h; exact h.1
  have hw : d.writeErrs = d := by cases d; simp_all [Dev.writeErrs, Dev.each]
  have hl : d.logErrs = d := by cases d; simp_all [Dev.logErrs]
  unfold Dev.settle
  rw [Dev.watchSymbols_of_quiet h, hw, Dev.watchSymbols_of_quiet h, hl]

/-- On a live device a well-formed command that raises nothing ends in its effect. -/
theorem State.run_quiet (hs : s.live = true) (hq : (f s.dev).quiet = true) : s.run true f = .next (s.setDev (f s.dev)) := by
  have ha : s.dev.awake = true := (Bool.and_eq_true _ _ ▸ hs).1
  simp [State.run, ha, Dev.settle_of_quiet hq]

/-- Outside P4 a write through a BAR wakes nothing. -/
theorem Dev.barWake_of_notP4 {d : Dev} (h : d.notP4 = true) : d.barWake = d := by
  unfold Dev.notP4 at h
  unfold Dev.barWake
  split <;> simp_all

theorem State.runBar_quiet (hs : s.open_ = true) (hq : (f s.dev).quiet = true) :
    s.runBar true f = .next (s.setDev (f s.dev)) := by
  have h := Bool.and_eq_true _ _ ▸ hs
  unfold State.runBar
  have hb := Dev.barWake_of_notP4 h.2
  rw [State.run_quiet h.1 (by rw [hb]; exact hq), hb]

/-- What is quiet depends on the unwritten records and the vaults alone. -/
theorem Dev.quiet_of_eq {d e : Dev} (h1 : e.errQ = d.errQ) (h2 : e.vaults = d.vaults) : e.quiet = d.quiet := by
  simp [Dev.quiet, h1, h2]

end Sys2Proof.Machine
end

