-- ==== Sys2Proof/Laws/Convoy.lean ====
section
/-! SUPPORT. Cores and convoys after an update, and what issuing an instruction does. -/

namespace Sys2Proof.Machine

/-! ### Places -/

@[simp] theorem Dev.core_setCore_same (d : Dev) (k : Nat) (c : Core) : (d.setCore k c).core k = c := by
  simp [Dev.core, Dev.setCore]

theorem Dev.core_setCore_ne (d : Dev) {j k : Nat} (c : Core) (h : j ≠ k) : (d.setCore k c).core j = d.core j := by
  simp [Dev.core, Dev.setCore, NMap.getD_put_ne _ _ _ _ h]

@[simp] theorem Dev.convoy?_setConvoy_same (d : Dev) (k n : Nat) (v : Convoy) : (d.setConvoy k n v).convoy? k n = some v := by
  simp [Dev.convoy?, Dev.setConvoy]

theorem Dev.convoy?_setConvoy_ne (d : Dev) {k n j m : Nat} (v : Convoy) (h : ¬ (j = k ∧ m = n)) :
    (d.setConvoy k n v).convoy? j m = d.convoy? j m := by
  unfold Dev.convoy? Dev.setConvoy
  by_cases hj : j = k
  · subst hj
    rw [Dev.core_setCore_same]
    exact NMap.find?_insert_ne _ _ fun e => h ⟨rfl, e⟩
  · rw [Dev.core_setCore_ne _ _ hj]

@[simp] theorem Dev.reg_setConvoy (d : Dev) (k n : Nat) (v : Convoy) (r : Reg) (i : Nat) :
    (d.setConvoy k n v).reg r i = d.reg r i := rfl

/-! ### Commands that change registers alone -/

theorem Dev.onlyRegs_refl (d : Dev) (rs : List Reg) : d.onlyRegs d rs := ⟨rfl, fun _ _ _ => rfl⟩

theorem Dev.onlyRegs_trans {d e g : Dev} {rs : List Reg} (h1 : d.onlyRegs e rs) (h2 : e.onlyRegs g rs) : d.onlyRegs g rs :=
  ⟨(congrArg (fun x : Dev => { x with regs := d.regs }) h2.1).trans h1.1,
    fun r i h => (h2.2 r i h).trans (h1.2 r i h)⟩

theorem Dev.onlyRegs_setReg (d : Dev) {r : Reg} {rs : List Reg} (i v : Nat) (h : r ∈ rs) : d.onlyRegs (d.setReg r i v) rs :=
  ⟨rfl, fun _ _ hq => Dev.reg_setReg_ne _ _ fun e => hq (e.1 ▸ h)⟩

theorem Dev.onlyRegs_setFld (d : Dev) {f : Fld} {rs : List Reg} (i v : Nat) (h : f.reg ∈ rs) :
    d.onlyRegs (d.setFld f i v) rs := Dev.onlyRegs_setReg _ _ _ h

theorem Dev.onlyRegs_bump (d : Dev) {c o : Fld} {rs : List Reg} (i n : Nat) (hc : c.reg ∈ rs) (ho : o.reg ∈ rs) :
    d.onlyRegs (d.bump c o i n) rs := by
  unfold Dev.bump
  dsimp only
  split
  · exact Dev.onlyRegs_trans (Dev.onlyRegs_setFld _ _ _ hc) (Dev.onlyRegs_setFld _ _ _ ho)
  · exact Dev.onlyRegs_setFld _ _ _ hc

theorem Dev.onlyRegs_foldl {α : Type} {rs : List Reg} (g : Dev → α → Dev) (l : List α)
    (h : ∀ (d : Dev) x, d.onlyRegs (g d x) rs) (d : Dev) : d.onlyRegs (l.foldl g d) rs := by
  induction l generalizing d with
  | nil => exact Dev.onlyRegs_refl _ _
  | cons a l ih => exact Dev.onlyRegs_trans (h d a) (ih _)

/-- An event at a core changes its programmable counters alone. -/
theorem Dev.onlyRegs_coreEvent (d : Dev) (k code n : Nat) : d.onlyRegs (d.coreEvent k code n) [.DBG_CORE_CNT] := by
  unfold Dev.coreEvent
  split
  · exact Dev.onlyRegs_refl _ _
  · refine Dev.onlyRegs_foldl _ _ (fun d a => ?_) d
    dsimp only
    split
    · exact Dev.onlyRegs_bump _ _ _ (by simp) (by simp)
    · exact Dev.onlyRegs_refl _ _

/-! ### Changes to one convoy -/

theorem Dev.onlyConvoy_trans {d e g : Dev} {k n : Nat} (h1 : d.onlyConvoy e k n) (h2 : e.onlyConvoy g k n) :
    d.onlyConvoy g k n := by
  obtain ⟨a1, b1, c1, e1, f1⟩ := h1
  obtain ⟨a2, b2, c2, e2, f2⟩ := h2
  refine ⟨(congrArg (fun x : Dev => { x with cores := d.cores, regs := d.regs, tag := d.tag }) a2).trans a1,
    fun r i h => (b2 r i h).trans (b1 r i h), fun j h => (c2 j h).trans (c1 j h), fun m h => (e2 m h).trans (e1 m h),
    (congrArg (fun x : Core => { x with convoys := (d.core k).convoys }) f2).trans f1⟩

theorem Dev.onlyConvoy_setConvoy (d : Dev) (k n : Nat) (v : Convoy) : d.onlyConvoy (d.setConvoy k n v) k n := by
  refine ⟨rfl, fun _ _ _ => rfl, fun j h => Dev.core_setCore_ne _ _ h, fun m h => ?_, ?_⟩
  · exact Dev.convoy?_setConvoy_ne _ _ fun e => h e.2
  · simp [Dev.setConvoy]

theorem Dev.onlyConvoy_of_regs {d e : Dev} (k n : Nat) (h : d.onlyRegs e [.DBG_CORE_CNT]) : d.onlyConvoy e k n := by
  have hc : e.cores = d.cores := by have := congrArg Dev.cores h.1; exact this
  have hk (j : Nat) : e.core j = d.core j := by simp [Dev.core, hc]
  refine ⟨?_, fun r i hr => h.2 r i (by simpa using hr), fun j _ => hk j, fun m _ => by simp [Dev.convoy?, hk], by simp [hk]⟩
  exact congrArg (fun x : Dev => { x with cores := d.cores, tag := d.tag }) h.1

theorem Dev.onlyConvoy_tag (d : Dev) (k n : Nat) (t : Option (Nat × Nat × Nat)) : d.onlyConvoy { d with tag := t } k n :=
  ⟨rfl, fun _ _ _ => rfl, fun _ _ => rfl, fun _ _ => rfl, rfl⟩

theorem Dev.onlyConvoy_quiet {d e : Dev} {k n : Nat} (h : d.onlyConvoy e k n) : e.quiet = d.quiet :=
  Dev.quiet_of_eq (by have := congrArg Dev.errQ h.1; exact this) (by have := congrArg Dev.vaults h.1; exact this)

/-! ### Issue -/

/-- A convoy that is ready issues: its instruction runs on the device as issued, and is concluded at its address. -/
theorem Dev.issue_ready {s : State} {k n : Nat} {v : Convoy} (h : s.ready k n v = true) (pipe : Pipe)
    (f : Dev → Convoy → Eff) (elig : Dev → Convoy → Bool) (keep : Bool) (he : elig s.dev v = true) :
    s.dev.issue k n pipe f elig keep =
      { Dev.conclude k n v.pc (f (s.dev.issued k n v (v.forPipe pipe keep)) (v.forPipe pipe keep)) with tag := none } := by
  simp only [State.ready, Bool.and_eq_true, beq_iff_eq, Bool.not_eq_true'] at h
  obtain ⟨⟨⟨⟨⟨⟨⟨_, _⟩, hv⟩, hc⟩, hd⟩, hg⟩, hst⟩, ht⟩ := h
  have hp : v.pendTrap = none := by simpa using ht
  unfold Dev.issue Dev.issued Convoy.forPipe
  simp [hv, hc, hd, hg, hst, he, hp]

/-- As issued, only the convoy, its tag and the counters of its issue have changed. -/
theorem Dev.onlyConvoy_issued (d : Dev) (k n : Nat) (v v' : Convoy) : d.onlyConvoy (d.issued k n v v') k n :=
  Dev.onlyConvoy_trans
    (Dev.onlyConvoy_trans (Dev.onlyConvoy_tag ..) (Dev.onlyConvoy_of_regs k n (Dev.onlyRegs_coreEvent ..)))
    (Dev.onlyConvoy_setConvoy ..)

/-- The end of an instruction that leaves its convoy as `u`. -/
theorem Dev.set_conclude (d : Dev) (k n : Nat) (pc : Word) (u : Convoy) :
    d.onlyConvoy (Dev.conclude k n pc (d.setConvoy k n u, none)) k n ∧
      (Dev.conclude k n pc (d.setConvoy k n u, none)).convoy? k n = some u.stepEnd := by
  simp only [Dev.conclude, Dev.afterStep, Dev.convoy?_setConvoy_same]
  split
  · rename_i h
    refine ⟨Dev.onlyConvoy_trans (Dev.onlyConvoy_setConvoy ..) (Dev.onlyConvoy_setConvoy ..), ?_⟩
    rw [Dev.convoy?_setConvoy_same]; simp only [Convoy.stepEnd, h, if_true]
  · rename_i h
    refine ⟨Dev.onlyConvoy_setConvoy .., ?_⟩
    rw [Dev.convoy?_setConvoy_same]; simp only [Convoy.stepEnd, h]; rfl

/-- What a ready convoy's instruction that changes the convoy alone answers: the next state, in which the convoy is as the
instruction leaves it. -/
theorem Dev.issue_convoy {s : State} {k n : Nat} {v u : Convoy} (h : s.ready k n v = true) (pipe : Pipe)
    (f : Dev → Convoy → Eff) (elig : Dev → Convoy → Bool) (keep : Bool) (he : elig s.dev v = true)
    (hf : ∀ d : Dev, s.dev.onlyConvoy d k n → f d (v.forPipe pipe keep) = (d.setConvoy k n u, none)) :
    ∃ t, s.run (convoyOk k n) (fun d => d.issue k n pipe f elig keep) = .next t ∧ t.fuses = s.fuses ∧
      t.pending = s.pending ∧ s.dev.onlyConvoy t.dev k n ∧ t.dev.convoy? k n = some u.stepEnd := by
  have hr := h
  simp only [State.ready, Bool.and_eq_true, beq_iff_eq, Bool.not_eq_true'] at hr
  obtain ⟨⟨⟨⟨⟨⟨⟨hlive, hok⟩, _⟩, _⟩, _⟩, _⟩, _⟩, _⟩ := hr
  have hi : s.dev.onlyConvoy (s.dev.issue k n pipe f elig keep) k n ∧
      (s.dev.issue k n pipe f elig keep).convoy? k n = some u.stepEnd := by
    rw [Dev.issue_ready h pipe _ _ _ he]
    have h0 := Dev.onlyConvoy_issued s.dev k n v (v.forPipe pipe keep)
    rw [hf _ h0]
    have hc := Dev.set_conclude (s.dev.issued k n v (v.forPipe pipe keep)) k n v.pc u
    revert hc h0
    generalize Dev.conclude k n v.pc _ = e
    generalize s.dev.issued k n v (v.forPipe pipe keep) = d1
    intro h0 hc
    exact ⟨Dev.onlyConvoy_trans (Dev.onlyConvoy_trans h0 hc.1) (Dev.onlyConvoy_tag ..), hc.2⟩
  revert hi
  generalize hp : s.dev.issue k n pipe f elig keep = e
  intro hi
  refine ⟨s.setDev e, ?_, rfl, rfl, hi.1, hi.2⟩
  have hq : s.dev.quiet = true := by simp only [State.live, Bool.and_eq_true] at hlive; exact hlive.2
  have hq' : e.quiet = true := (Dev.onlyConvoy_quiet hi.1).trans hq
  subst hp
  rw [hok]
  exact State.run_quiet (f := fun d => d.issue k n pipe f elig keep) hlive hq'

/-- As `issue_convoy`, for an instruction whose effect lies in the convoy alone: it goes on at the next word. -/
theorem State.runPure_ready {s : State} {k n : Nat} {v u : Convoy} (h : s.ready k n v = true) (pipe : Pipe)
    (f : Convoy → Exec Convoy) (hf : f (v.forPipe pipe false) = .ok u) :
    ∃ t, s.runPure k n pipe f = .next t ∧ t.fuses = s.fuses ∧ t.pending = s.pending ∧ s.dev.onlyConvoy t.dev k n ∧
      t.dev.convoy? k n = some u.next :=
  Dev.issue_convoy h pipe _ _ _ rfl fun d _ => by simp only [hf, Dev.retire, Dev.lift]

/-- As `issue_convoy`, for an instruction that may read the device. -/
theorem State.runIssue_ready {s : State} {k n : Nat} {v u : Convoy} (h : s.ready k n v = true) (pipe : Pipe)
    (f : Dev → Convoy → Exec Dev)
    (hf : ∀ d : Dev, s.dev.onlyConvoy d k n → f d (v.forPipe pipe false) = .ok (d.setConvoy k n u)) :
    ∃ t, s.runIssue k n pipe f = .next t ∧ t.fuses = s.fuses ∧ t.pending = s.pending ∧ s.dev.onlyConvoy t.dev k n ∧
      t.dev.convoy? k n = some u.stepEnd :=
  Dev.issue_convoy h pipe _ _ _ rfl fun d hd => by simp only [hf d hd, Dev.lift]

end Sys2Proof.Machine
end

