-- ==== Sys2Proof/Laws/Memory.lean ====
section
/-! SUPPORT. Memory: what a byte reads as after each memory operation, and that every one of them keeps the canonical form. -/

namespace Sys2Proof.Machine

/-! ### What a byte reads as -/

@[simp] theorem Dev.memByte_setByte_same (d : Dev) (a : Nat) (b : Byte) : (d.setByte a b).memByte a = b :=
  NMap.getD_put_same ..

theorem Dev.memByte_setByte_ne (d : Dev) {a c : Nat} (b : Byte) (h : c ≠ a) : (d.setByte a b).memByte c = d.memByte c :=
  NMap.getD_put_ne _ _ _ _ h

/-- A byte after a run of bytes is stored: one of them, or as before. -/
theorem getD_putBytes (bs : List Byte) (m : List Host.Cell) (a c : Nat) :
    NMap.getD (α := Byte) (putBytes m a bs) c 0 =
      if a ≤ c ∧ c < a + bs.length then bs.getD (c - a) 0 else NMap.getD (α := Byte) m c 0 := by
  induction bs generalizing m a with
  | nil =>
    have : ¬ (a ≤ c ∧ c < a + ([] : List Byte).length) := by simp
    rw [if_neg this]; rfl
  | cons b bs ih =>
    rw [putBytes, ih]
    by_cases hc : c = a
    · subst hc
      rw [if_neg (by omega), NMap.getD_put_same, if_pos (by simp)]
      simp
    · rw [NMap.getD_put_ne _ _ _ _ hc]
      by_cases h : a + 1 ≤ c ∧ c < a + 1 + bs.length
      · rw [if_pos h, if_pos (by simp; omega)]
        obtain ⟨k, hk⟩ : ∃ k, c - a = k + 1 := ⟨c - a - 1, by omega⟩
        rw [hk, List.getD_cons_succ]
        congr 1
        omega
      · rw [if_neg h, if_neg (by simp; omega)]

/-- Outside the line stored, every byte is as before. -/
theorem Dev.memByte_setRawLine_ne (d : Dev) (l : Nat) (v : LineData) (a : Nat) (h : a / 128 ≠ l) :
    (d.setRawLine l v).memByte a = d.memByte a := by
  have hl : ∀ n k, (leBytes n k).length = k := by
    intro n k
    induction k generalizing n with
    | zero => rfl
    | succ k ih => simp [leBytes, ih]
  show NMap.getD (putBytes d.mem (l * 128) (leBytes v.toNat 128)) a 0 = _
  rw [getD_putBytes, if_neg (by rw [hl]; omega)]
  rfl

/-! ### The canonical form -/

theorem Memory.wf_put (m : List Host.Cell) (a : Nat) (b : Byte) (h : Memory.wf m = true) :
    Memory.wf (NMap.put (α := Byte) m a b 0) = true := NMap.wf_put m a b 0 h

theorem Memory.wf_setByte (d : Dev) (a : Nat) (b : Byte) (h : Memory.wf d.mem = true) : Memory.wf (d.setByte a b).mem = true :=
  Memory.wf_put _ _ _ h

theorem Memory.wf_putBytes (bs : List Byte) (m : List Host.Cell) (a : Nat) (h : Memory.wf m = true) :
    Memory.wf (putBytes m a bs) = true := by
  induction bs generalizing m a with
  | nil => exact h
  | cons b bs ih => exact ih _ _ (Memory.wf_put _ _ _ h)

theorem Memory.wf_setRawLine (d : Dev) (l : Nat) (v : LineData) (h : Memory.wf d.mem = true) :
    Memory.wf (d.setRawLine l v).mem = true := Memory.wf_putBytes _ _ _ h

/-- Memory of which parts are lost keeps the form: what power-down, scrubbing and self-test do. -/
theorem Memory.wf_filter (m : List Host.Cell) (p : Host.Cell → Bool) (h : Memory.wf m = true) : Memory.wf (m.filter p) = true := by
  rw [Memory.wf, NMap.wf_iff] at h ⊢
  exact ⟨fun x hx => h.1 x (List.mem_filter.mp hx).1, h.2.filter _⟩

theorem Memory.wf_reset : Memory.wf State.reset.dev.mem = true := rfl

end Sys2Proof.Machine
end

