-- ==== Sys2Proof/Laws/Operands.lean ====
section
/-! SUPPORT. What the shared shapes of the per-lane instructions do: `Convoy.vecOp`, `vecImm` and `vecCmp`, each said once. -/

namespace Sys2Proof.Machine

/-! ### Masks and lanes -/

theorem mem_maskList (m k t : Nat) : t ∈ maskList m k ↔ t < k ∧ m.testBit t = true := by
  simp [maskList, bitAt, Nat.testBit, Nat.shiftRight_eq_div_pow]

theorem mem_lanesOf (m : Word) (t : Nat) : t ∈ lanesOf m ↔ t < 64 ∧ m.getLsbD t = true := by
  simp [lanesOf, mem_maskList, BitVec.testBit_toNat]

theorem listMask_testBit (l : List Nat) (i : Nat) : (listMask l).testBit i = decide (i ∈ l) := by
  have key : ∀ (l : List Nat) (a : Nat),
      (l.foldl (fun a i => if bitAt a i then a else a + 2 ^ i) a).testBit i = (a.testBit i || decide (i ∈ l)) := by
    intro l
    induction l with
    | nil => intro a; simp
    | cons j l ih =>
      intro a
      rw [List.foldl_cons, ih]
      have hb : bitAt a j = a.testBit j := by
        simp [bitAt, Nat.testBit, Nat.and_one_is_mod, Nat.and_comm]
      have step : (if bitAt a j then a else a + 2 ^ j).testBit i = (a.testBit i || decide (i = j)) := by
        split
        · rename_i h
          by_cases hij : i = j
          · subst hij; simp [← hb, h]
          · simp [hij]
        · rename_i h
          have hf : a.testBit j = false := by rw [← hb]; simpa using h
          have : a + 2 ^ j = setBits a j j 1 := by
            have h0 : a / 2 ^ j % 2 = 0 := by
              have := hb.trans hf
              simpa [bitAt, Nat.shiftRight_eq_div_pow] using this
            have h1 := Nat.div_add_mod a (2 ^ j)
            have h2 := Nat.div_add_mod (a / 2 ^ j) 2
            rw [Nat.div_div_eq_div_mul, show 2 ^ j * 2 = 2 ^ (j + 1) from (Nat.pow_succ ..).symm] at h2
            have h3 : a / 2 ^ (j + 1) * 2 ^ (j + 1) = 2 ^ j * (2 * (a / 2 ^ (j + 1))) := by rw [Nat.pow_succ]; ring
            have h4 : 2 * (a / 2 ^ (j + 1)) = a / 2 ^ j := by omega
            simp only [setBits, Nat.shiftRight_eq_div_pow, h3, h4]
            rw [show j + 1 - j = 1 by omega]; omega
          rw [this, testBit_setBits _ _ _ _ _ (le_refl _)]
          by_cases hij : i = j
          · subst hij; simp
          · by_cases hlt : i < j
            · simp [hlt, hij]
            · have : ¬ i ≤ j := by omega
              simp [hlt, hij, this]
      rw [step]
      by_cases hij : i = j <;> simp [hij]
  simpa [listMask] using key l 0

theorem maskOf_getLsbD (l : List Nat) (t : Nat) (ht : t < 64) : (maskOf l).getLsbD t = decide (t ∈ l) := by
  rw [maskOf, BitVec.getLsbD_ofNat, listMask_testBit]; simp [ht]

/-! ### V registers -/

/-- A lane of a V register as it lies in the convoy. -/
def Convoy.lane (v : Convoy) (r t : Nat) : BitVec 32 := NMap.getD v.v (r * 64 + t) 0

theorem Convoy.vr_eq (v : Convoy) (r t : Nat) : v.vr r t = if r < v.vRegs then (v.lane r t).toNat else 0 := rfl

theorem Convoy.lane_setVr (v : Convoy) {r t r' t' : Nat} (x : Nat) (ht : t < 64) (ht' : t' < 64) :
    (v.setVr r t x).lane r' t' = if r' = r ∧ t' = t then BitVec.ofNat 32 x else v.lane r' t' := by
  unfold Convoy.lane Convoy.setVr
  split
  · rename_i h; rw [h.1, h.2, NMap.getD_put_same]
  · rename_i h; rw [NMap.getD_put_ne]; omega

theorem Convoy.setVr_rest (v : Convoy) (r t x : Nat) : { v.setVr r t x with v := v.v } = v := rfl

theorem Convoy.setVrs_rest (v : Convoy) (r t x n : Nat) : { v.setVrs r t x n with v := v.v } = v := by
  induction n generalizing v r x with
  | zero => rfl
  | succ n ih => exact congrArg (fun a : Convoy => { a with v := v.v }) (ih (v.setVr r t x) (r + 1) (x / 2 ^ 32))

theorem Convoy.lane_setVrs (v : Convoy) {r t r' t' : Nat} (x n : Nat) (ht : t < 64) (ht' : t' < 64) :
    (v.setVrs r t x n).lane r' t' =
      if t' = t ∧ r ≤ r' ∧ r' < r + n then BitVec.ofNat 32 (x / 2 ^ (32 * (r' - r))) else v.lane r' t' := by
  induction n generalizing v r x with
  | zero =>
    have : ¬ (t' = t ∧ r ≤ r' ∧ r' < r + 0) := by omega
    rw [if_neg this]; rfl
  | succ n ih =>
    show ((v.setVr r t x).setVrs (r + 1) t (x / 2 ^ 32) n).lane r' t' = _
    rw [ih, Convoy.lane_setVr _ _ ht ht']
    by_cases h1 : t' = t ∧ r + 1 ≤ r' ∧ r' < r + 1 + n
    · have h2 : t' = t ∧ r ≤ r' ∧ r' < r + (n + 1) := by omega
      rw [if_pos h1, if_pos h2, Nat.div_div_eq_div_mul, ← Nat.pow_add]
      congr 3; omega
    · rw [if_neg h1]
      by_cases h3 : r' = r ∧ t' = t
      · have h2 : t' = t ∧ r ≤ r' ∧ r' < r + (n + 1) := by omega
        rw [if_pos h3, if_pos h2, h3.1]; simp
      · have h2 : ¬ (t' = t ∧ r ≤ r' ∧ r' < r + (n + 1)) := by omega
        rw [if_neg h3, if_neg h2]

/-- A group written in each lane of a list holds its lane's value there; every other register and lane is as it was. -/
theorem Convoy.lane_each (l : List Nat) (hl : ∀ t ∈ l, t < 64) (F : Nat → Nat) (vd n : Nat) (v : Convoy) :
    { l.foldl (fun a t => a.setVrs vd t (F t) n) v with v := v.v } = v ∧
    ∀ r t, t < 64 → (l.foldl (fun a t => a.setVrs vd t (F t) n) v).lane r t =
      if t ∈ l ∧ vd ≤ r ∧ r < vd + n then BitVec.ofNat 32 (F t / 2 ^ (32 * (r - vd))) else v.lane r t := by
  induction l generalizing v with
  | nil => exact ⟨rfl, fun r t _ => by simp⟩
  | cons a l ih =>
    obtain ⟨h1, h2⟩ := ih (fun t ht => hl t (List.mem_cons_of_mem _ ht)) (v.setVrs vd a (F a) n)
    refine ⟨(congrArg (fun x : Convoy => { x with v := v.v }) h1).trans (Convoy.setVrs_rest ..), fun r t ht => ?_⟩
    rw [List.foldl_cons, h2 r t ht, Convoy.lane_setVrs _ _ _ (hl a (by simp)) ht]
    by_cases hm : t ∈ l
    · by_cases hr : vd ≤ r ∧ r < vd + n
      · simp [hm, hr]
      · have : ¬ (t = a ∧ vd ≤ r ∧ r < vd + n) := fun h => hr h.2
        simp [hm, hr]
    · by_cases ha : t = a
      · subst ha; simp [hm]
      · simp [hm, ha]

/-- A per-lane result of one register or a pair, as the statements speak of it. -/
theorem Convoy.eachLane_result (v : Convoy) (x vd n : Nat) (F : Nat → Nat) (hn : n = 1 ∨ n = 2) (hw : vd + n ≤ v.vRegs) :
    v.laneResult (v.eachLane x fun t a => a.setVrs vd t (F t) n) x vd n fun l => F l % 2 ^ (32 * n) := by
  obtain ⟨h1, h2⟩ := Convoy.lane_each (lanesOf (v.effective x)) (fun t ht => ((mem_lanesOf _ _).1 ht).1) F vd n v
  unfold Convoy.eachLane
  generalize (lanesOf (v.effective x)).foldl (fun a t => a.setVrs vd t (F t) n) v = u at h1 h2
  have hreg : u.vRegs = v.vRegs := by have := congrArg Convoy.vRegs h1; exact this
  refine ⟨h1, fun l hl he => ?_, fun r l hl h => ?_⟩
  · have hm : l ∈ lanesOf (v.effective x) := (mem_lanesOf _ _).2 ⟨hl, he⟩
    rcases hn with rfl | rfl
    · have : vd < u.vRegs := by omega
      simp [Convoy.val, Convoy.vr_eq, this, h2 vd l hl, hm]
    · have a1 : vd < u.vRegs := by omega
      have a2 : vd + 1 < u.vRegs := by omega
      simp [Convoy.val, Convoy.vr64, Convoy.vr_eq, a1, a2, h2 vd l hl, h2 (vd + 1) l hl, hm]
      omega
  · have : ¬ (l ∈ lanesOf (v.effective x) ∧ vd ≤ r ∧ r < vd + n) := by
      rintro ⟨hm, hr⟩
      rcases h with h | h
      · exact h hr
      · simp [((mem_lanesOf _ _).1 hm).2] at h
    rw [Convoy.vr_eq, Convoy.vr_eq, hreg, h2 r l hl, if_neg this]

/-! ### Causes -/

/-- No cause, no trap. -/
theorem raising_none {α : Type} (cs : List (Nat × Word)) (g : Exec α) (h : ∀ c ∈ cs, c.2 = 0) : raising cs g = g := by
  have : cs.filter (fun c => c.2 != 0) = [] := by
    rw [List.filter_eq_nil_iff]; intro c hc; simp [h c hc]
  unfold raising
  rw [this]
  rfl

theorem groupCauses_read {v : Convoy} {w r n : Nat} (h : groupReads r n = true) : ∀ c ∈ groupCauses v w r n false, c.2 = 0 := by
  simp only [groupReads, Bool.and_eq_true, beq_iff_eq, decide_eq_true_eq] at h
  have h2 : ¬ 128 < r + n := by omega
  intro c hc
  simp only [groupCauses, List.mem_cons, List.not_mem_nil, or_false] at hc
  rcases hc with rfl | rfl | rfl <;> simp [causeIf, h.1, h2]

theorem groupCauses_write {v : Convoy} {w r n : Nat} (h : v.groupWrites r n = true) :
    ∀ c ∈ groupCauses v w r n true, c.2 = 0 := by
  simp only [Convoy.groupWrites, groupReads, Bool.and_eq_true, beq_iff_eq, decide_eq_true_eq] at h
  obtain ⟨⟨h1, h2⟩, h3⟩ := h
  have h2' : ¬ 128 < r + n := by omega
  have h3' : ¬ v.vRegs < r + n := by omega
  intro c hc
  simp only [groupCauses, List.mem_cons, List.not_mem_nil, or_false] at hc
  rcases hc with rfl | rfl | rfl <;> simp [causeIf, h1, h2', h3']

/-! ### The shapes -/

/-- A per-lane instruction of format V whose word raises nothing writes its result lane by lane and changes nothing else. -/
theorem Convoy.vecOp_result {v : Convoy} {x : Nat} {types : List Nat} {used : Nat} {useA useB useC ok : Bool}
    {dregs : Nat → Nat} (f : Nat → Nat → Nat → Nat → Nat → Nat)
    (h : v.vForm x types used useA useB useC (dregs (fType x)) = true) (hok : ok = true)
    (hd : dregs (fType x) = 1 ∨ dregs (fType x) = 2) :
    ∃ u, v.vecOp x types used useA useB useC ok dregs f = .ok u ∧
      v.laneResult u x (fVd x) (dregs (fType x)) fun l =>
        f (fType x) l (v.val (typeRegs (fType x)) (fVa x) l) (v.opB x (typeRegs (fType x)) l)
          (v.val (typeRegs (fType x)) (fVc x) l) % 2 ^ (32 * dregs (fType x)) := by
  simp only [Convoy.vForm, Bool.and_eq_true, Bool.or_eq_true, Bool.not_eq_true', Bool.and_eq_false_iff] at h
  obtain ⟨⟨⟨⟨⟨⟨h1, h2⟩, h3⟩, ha⟩, hb⟩, hc⟩, hw⟩ := h
  refine ⟨_, ?_, Convoy.eachLane_result v x (fVd x) (dregs (fType x)) _ hd ?_⟩
  · unfold Convoy.vecOp Convoy.legal
    have hl : (onlyUses x (used ||| fbits 17 14 ||| fbits 50 44 ||| (if useA then fbits 43 37 else 0) |||
        (if useB then fbits 36 30 ||| fbits 22 21 else 0) ||| (if useC then fbits 29 23 else 0)) &&
        types.contains (fType x) && (!useB || bselOk x) && ok) = true := by
      simp only [Bool.and_eq_true, Bool.or_eq_true, Bool.not_eq_true']
      exact ⟨⟨⟨h1, h2⟩, h3⟩, hok⟩
    dsimp only
    rw [if_pos hl, raising_none]
    intro c hm
    simp only [List.mem_append] at hm
    rcases hm with ((hm | hm) | hm) | hm
    · split at hm
      · rename_i hu; exact groupCauses_read (ha.resolve_left (by simp [hu])) c hm
      · simp at hm
    · split at hm
      · rename_i hu; exact groupCauses_read (hb.resolve_left (by rintro (e | e) <;> simp_all)) c hm
      · simp at hm
    · split at hm
      · rename_i hu; exact groupCauses_read (hc.resolve_left (by simp [hu])) c hm
      · simp at hm
    · exact groupCauses_write hw c hm
  · simp only [Convoy.groupWrites, Bool.and_eq_true, decide_eq_true_eq] at hw; exact hw.2

/-- As `vecOp_result`, for format I. -/
theorem Convoy.vecImm_result {v : Convoy} {x : Nat} {types : List Nat} {useA : Bool} (f : Nat → Nat → Nat → Nat)
    (h : v.iForm x types useA = true) :
    ∃ u, v.vecImm x types useA f = .ok u ∧
      v.laneResult u x (fVd x) (typeRegs (fIType x)) fun l =>
        f (fIType x) (v.val (typeRegs (fIType x)) (fVa x) l) (immOperand (fIType x) (fImm32 x)) %
          2 ^ (32 * typeRegs (fIType x)) := by
  simp only [Convoy.iForm, Bool.and_eq_true, Bool.or_eq_true, Bool.not_eq_true'] at h
  obtain ⟨⟨⟨h1, h2⟩, ha⟩, hw⟩ := h
  refine ⟨_, ?_, Convoy.eachLane_result v x (fVd x) (typeRegs (fIType x)) _ ?_ ?_⟩
  · unfold Convoy.vecImm Convoy.legal
    have hl : (onlyUses x (fbits 50 44 ||| fbits 36 33 ||| fbits 31 0 ||| (if useA then fbits 43 37 else 0)) &&
        types.contains (fIType x)) = true := by
      simp only [Bool.and_eq_true]; exact ⟨h1, h2⟩
    dsimp only
    rw [if_pos hl, raising_none]
    intro c hm
    simp only [List.mem_append] at hm
    rcases hm with hm | hm
    · split at hm
      · rename_i hu; exact groupCauses_read (ha.resolve_left (by simp [hu])) c hm
      · simp at hm
    · exact groupCauses_write hw c hm
  · unfold typeRegs; split <;> simp
  · simp only [Convoy.groupWrites, Bool.and_eq_true, decide_eq_true_eq] at hw; exact hw.2

theorem Convoy.pr_setPr_same (v : Convoy) (r : Nat) (m : Word) : (v.setPr r m).pr r = m := by
  simp [Convoy.pr, Convoy.setPr]

theorem Convoy.pr_setPr_ne (v : Convoy) {r q : Nat} (m : Word) (h : q ≠ r) : (v.setPr r m).pr q = v.pr q := by
  simp [Convoy.pr, Convoy.setPr, NMap.getD_put_ne _ _ _ _ h]

/-- A predicate set in the effective set from a list of lanes. -/
theorem Convoy.setPrIn_result (v : Convoy) (x p : Nat) (f : Nat → Bool) :
    v.predResult (v.setPrIn p (v.effective x) (maskOf ((lanesOf (v.effective x)).filter f))) x p f := by
  refine ⟨rfl, fun l hl => ?_, fun q hq => Convoy.pr_setPr_ne v _ hq⟩
  unfold Convoy.setPrIn
  rw [Convoy.pr_setPr_same]
  simp only [BitVec.getLsbD_or, BitVec.getLsbD_and, BitVec.getLsbD_not, hl, decide_true, Bool.true_and,
    maskOf_getLsbD _ _ hl, List.mem_filter, mem_lanesOf, true_and]
  cases (v.effective x).getLsbD l <;> simp

/-- A per-lane compare whose word raises nothing. -/
theorem Convoy.vecCmp_result {v : Convoy} {x : Nat} {types : List Nat} {used : Nat} {ok : Bool} (f : Nat → Nat → Nat → Bool)
    (h : cmpForm x types used = true) (hok : ok = true) :
    ∃ u, v.vecCmp x types used ok f = .ok u ∧
      v.predResult u x (fPd x) fun l => f (fType x) (v.val (typeRegs (fType x)) (fVa x) l) (v.opB x (typeRegs (fType x)) l) := by
  simp only [cmpForm, Bool.and_eq_true, Bool.or_eq_true] at h
  obtain ⟨⟨⟨⟨h1, h2⟩, h3⟩, ha⟩, hb⟩ := h
  refine ⟨_, ?_, Convoy.setPrIn_result v x (fPd x) _⟩
  unfold Convoy.vecCmp Convoy.legal
  have hl : (onlyUses x (used ||| fbits 17 14 ||| fbits 43 37 ||| fbits 36 30 ||| fbits 22 21 ||| fbits 10 7 |||
      fbits 6 4) && types.contains (fType x) && bselOk x && ok) = true := by
    simp only [Bool.and_eq_true]; exact ⟨⟨⟨h1, h2⟩, h3⟩, hok⟩
  dsimp only
  rw [if_pos hl, raising_none]
  intro c hm
  simp only [List.mem_append] at hm
  rcases hm with hm | hm
  · exact groupCauses_read ha c hm
  · split at hm
    · rename_i hu; exact groupCauses_read (hb.resolve_left (by simp [hu])) c hm
    · simp at hm

end Sys2Proof.Machine
end

