-- ==== Sys2Proof/Laws/State.lean ====
section
/-! SUPPORT. What each update of the state leaves as it was: one lemma per field per update, so that no proof unfolds a record
update. -/

namespace Sys2Proof.Machine

@[simp] theorem State.setDev_dev (s : State) (d : Dev) : (s.setDev d).dev = d := rfl
@[simp] theorem State.setDev_fuses (s : State) (d : Dev) : (s.setDev d).fuses = s.fuses := rfl
@[simp] theorem State.setDev_pending (s : State) (d : Dev) : (s.setDev d).pending = s.pending := rfl
@[simp] theorem State.setDev_setDev (s : State) (d e : Dev) : (s.setDev d).setDev e = s.setDev e := rfl
@[simp] theorem State.setDev_self (s : State) : s.setDev s.dev = s := rfl
@[simp] theorem State.setPending_dev (s : State) (l : List Instr) : (s.setPending l).dev = s.dev := rfl
@[simp] theorem State.setPending_fuses (s : State) (l : List Instr) : (s.setPending l).fuses = s.fuses := rfl
@[simp] theorem State.setPending_pending (s : State) (l : List Instr) : (s.setPending l).pending = l := rfl
@[simp] theorem Dev.tick_time (d : Dev) : d.tick.time = (d.time + 10) % 2 ^ 64 := rfl

section
variable (d : Dev) (r : Reg) (i v : Nat)

@[simp] theorem Dev.setReg_time : (d.setReg r i v).time = d.time := rfl
@[simp] theorem Dev.setReg_freeCtr : (d.setReg r i v).freeCtr = d.freeCtr := rfl
@[simp] theorem Dev.setReg_errQ : (d.setReg r i v).errQ = d.errQ := rfl
@[simp] theorem Dev.setReg_tag : (d.setReg r i v).tag = d.tag := rfl
@[simp] theorem Dev.setReg_accum : (d.setReg r i v).accum = d.accum := rfl
@[simp] theorem Dev.setReg_parts : (d.setReg r i v).parts = d.parts := rfl
@[simp] theorem Dev.setReg_fmts : (d.setReg r i v).fmts = d.fmts := rfl
@[simp] theorem Dev.setReg_mem : (d.setReg r i v).mem = d.mem := rfl
@[simp] theorem Dev.setReg_poison : (d.setReg r i v).poison = d.poison := rfl
@[simp] theorem Dev.setReg_upsets : (d.setReg r i v).upsets = d.upsets := rfl
@[simp] theorem Dev.setReg_hostFail : (d.setReg r i v).hostFail = d.hostFail := rfl
@[simp] theorem Dev.setReg_hostMarked : (d.setReg r i v).hostMarked = d.hostMarked := rfl
@[simp] theorem Dev.setReg_hostReply : (d.setReg r i v).hostReply = d.hostReply := rfl
@[simp] theorem Dev.setReg_chanShift : (d.setReg r i v).chanShift = d.chanShift := rfl
@[simp] theorem Dev.setReg_ranks : (d.setReg r i v).ranks = d.ranks := rfl
@[simp] theorem Dev.setReg_cores : (d.setReg r i v).cores = d.cores := rfl
@[simp] theorem Dev.setReg_agents : (d.setReg r i v).agents = d.agents := rfl
@[simp] theorem Dev.setReg_stores : (d.setReg r i v).stores = d.stores := rfl
@[simp] theorem Dev.setReg_storeAsid : (d.setReg r i v).storeAsid = d.storeAsid := rfl
@[simp] theorem Dev.setReg_homes : (d.setReg r i v).homes = d.homes := rfl
@[simp] theorem Dev.setReg_vaults : (d.setReg r i v).vaults = d.vaults := rfl
@[simp] theorem Dev.setReg_hostHeld : (d.setReg r i v).hostHeld = d.hostHeld := rfl
@[simp] theorem Dev.setReg_xlt : (d.setReg r i v).xlt = d.xlt := rfl
@[simp] theorem Dev.setReg_clusterTlb : (d.setReg r i v).clusterTlb = d.clusterTlb := rfl
@[simp] theorem Dev.setReg_moverTlb : (d.setReg r i v).moverTlb = d.moverTlb := rfl
@[simp] theorem Dev.setReg_cachePos : (d.setReg r i v).cachePos = d.cachePos := rfl
@[simp] theorem Dev.setReg_inval : (d.setReg r i v).inval = d.inval := rfl
@[simp] theorem Dev.setReg_keys : (d.setReg r i v).keys = d.keys := rfl
@[simp] theorem Dev.setReg_kek : (d.setReg r i v).kek = d.kek := rfl
@[simp] theorem Dev.setReg_keyOp : (d.setReg r i v).keyOp = d.keyOp := rfl
@[simp] theorem Dev.setReg_ms : (d.setReg r i v).ms = d.ms := rfl
@[simp] theorem Dev.setReg_watch : (d.setReg r i v).watch = d.watch := rfl
@[simp] theorem Dev.setReg_signals : (d.setReg r i v).signals = d.signals := rfl
@[simp] theorem Dev.setReg_irqs : (d.setReg r i v).irqs = d.irqs := rfl
@[simp] theorem Dev.setReg_wlog : (d.setReg r i v).wlog = d.wlog := rfl
@[simp] theorem Dev.setReg_qs : (d.setReg r i v).qs = d.qs := rfl
@[simp] theorem Dev.setReg_pst : (d.setReg r i v).pst = d.pst := rfl
@[simp] theorem Dev.setReg_movers : (d.setReg r i v).movers = d.movers := rfl
@[simp] theorem Dev.setReg_links : (d.setReg r i v).links = d.links := rfl
@[simp] theorem Dev.setReg_lowHalf : (d.setReg r i v).lowHalf = d.lowHalf := rfl
@[simp] theorem Dev.setReg_cvuStalled : (d.setReg r i v).cvuStalled = d.cvuStalled := rfl
@[simp] theorem Dev.setReg_cvuAborting : (d.setReg r i v).cvuAborting = d.cvuAborting := rfl
@[simp] theorem Dev.setReg_pwr : (d.setReg r i v).pwr = d.pwr := rfl
@[simp] theorem Dev.setReg_sys : (d.setReg r i v).sys = d.sys := rfl

end

section
variable (d : Dev) (f : Fld) (i v : Nat)

@[simp] theorem Dev.setFld_time : (d.setFld f i v).time = d.time := rfl
@[simp] theorem Dev.setFld_freeCtr : (d.setFld f i v).freeCtr = d.freeCtr := rfl
@[simp] theorem Dev.setFld_errQ : (d.setFld f i v).errQ = d.errQ := rfl
@[simp] theorem Dev.setFld_tag : (d.setFld f i v).tag = d.tag := rfl
@[simp] theorem Dev.setFld_accum : (d.setFld f i v).accum = d.accum := rfl
@[simp] theorem Dev.setFld_parts : (d.setFld f i v).parts = d.parts := rfl
@[simp] theorem Dev.setFld_fmts : (d.setFld f i v).fmts = d.fmts := rfl
@[simp] theorem Dev.setFld_mem : (d.setFld f i v).mem = d.mem := rfl
@[simp] theorem Dev.setFld_poison : (d.setFld f i v).poison = d.poison := rfl
@[simp] theorem Dev.setFld_upsets : (d.setFld f i v).upsets = d.upsets := rfl
@[simp] theorem Dev.setFld_hostFail : (d.setFld f i v).hostFail = d.hostFail := rfl
@[simp] theorem Dev.setFld_hostMarked : (d.setFld f i v).hostMarked = d.hostMarked := rfl
@[simp] theorem Dev.setFld_hostReply : (d.setFld f i v).hostReply = d.hostReply := rfl
@[simp] theorem Dev.setFld_chanShift : (d.setFld f i v).chanShift = d.chanShift := rfl
@[simp] theorem Dev.setFld_ranks : (d.setFld f i v).ranks = d.ranks := rfl
@[simp] theorem Dev.setFld_cores : (d.setFld f i v).cores = d.cores := rfl
@[simp] theorem Dev.setFld_agents : (d.setFld f i v).agents = d.agents := rfl
@[simp] theorem Dev.setFld_stores : (d.setFld f i v).stores = d.stores := rfl
@[simp] theorem Dev.setFld_storeAsid : (d.setFld f i v).storeAsid = d.storeAsid := rfl
@[simp] theorem Dev.setFld_homes : (d.setFld f i v).homes = d.homes := rfl
@[simp] theorem Dev.setFld_vaults : (d.setFld f i v).vaults = d.vaults := rfl
@[simp] theorem Dev.setFld_hostHeld : (d.setFld f i v).hostHeld = d.hostHeld := rfl
@[simp] theorem Dev.setFld_xlt : (d.setFld f i v).xlt = d.xlt := rfl
@[simp] theorem Dev.setFld_clusterTlb : (d.setFld f i v).clusterTlb = d.clusterTlb := rfl
@[simp] theorem Dev.setFld_moverTlb : (d.setFld f i v).moverTlb = d.moverTlb := rfl
@[simp] theorem Dev.setFld_cachePos : (d.setFld f i v).cachePos = d.cachePos := rfl
@[simp] theorem Dev.setFld_inval : (d.setFld f i v).inval = d.inval := rfl
@[simp] theorem Dev.setFld_keys : (d.setFld f i v).keys = d.keys := rfl
@[simp] theorem Dev.setFld_kek : (d.setFld f i v).kek = d.kek := rfl
@[simp] theorem Dev.setFld_keyOp : (d.setFld f i v).keyOp = d.keyOp := rfl
@[simp] theorem Dev.setFld_ms : (d.setFld f i v).ms = d.ms := rfl
@[simp] theorem Dev.setFld_watch : (d.setFld f i v).watch = d.watch := rfl
@[simp] theorem Dev.setFld_signals : (d.setFld f i v).signals = d.signals := rfl
@[simp] theorem Dev.setFld_irqs : (d.setFld f i v).irqs = d.irqs := rfl
@[simp] theorem Dev.setFld_wlog : (d.setFld f i v).wlog = d.wlog := rfl
@[simp] theorem Dev.setFld_qs : (d.setFld f i v).qs = d.qs := rfl
@[simp] theorem Dev.setFld_pst : (d.setFld f i v).pst = d.pst := rfl
@[simp] theorem Dev.setFld_movers : (d.setFld f i v).movers = d.movers := rfl
@[simp] theorem Dev.setFld_links : (d.setFld f i v).links = d.links := rfl
@[simp] theorem Dev.setFld_lowHalf : (d.setFld f i v).lowHalf = d.lowHalf := rfl
@[simp] theorem Dev.setFld_cvuStalled : (d.setFld f i v).cvuStalled = d.cvuStalled := rfl
@[simp] theorem Dev.setFld_cvuAborting : (d.setFld f i v).cvuAborting = d.cvuAborting := rfl
@[simp] theorem Dev.setFld_pwr : (d.setFld f i v).pwr = d.pwr := rfl
@[simp] theorem Dev.setFld_sys : (d.setFld f i v).sys = d.sys := rfl

end

section
variable (d : Dev)

@[simp] theorem Dev.tick_regs : d.tick.regs = d.regs := rfl
@[simp] theorem Dev.tick_freeCtr : d.tick.freeCtr = d.freeCtr := rfl
@[simp] theorem Dev.tick_errQ : d.tick.errQ = d.errQ := rfl
@[simp] theorem Dev.tick_tag : d.tick.tag = d.tag := rfl
@[simp] theorem Dev.tick_accum : d.tick.accum = d.accum := rfl
@[simp] theorem Dev.tick_parts : d.tick.parts = d.parts := rfl
@[simp] theorem Dev.tick_fmts : d.tick.fmts = d.fmts := rfl
@[simp] theorem Dev.tick_mem : d.tick.mem = d.mem := rfl
@[simp] theorem Dev.tick_poison : d.tick.poison = d.poison := rfl
@[simp] theorem Dev.tick_upsets : d.tick.upsets = d.upsets := rfl
@[simp] theorem Dev.tick_hostFail : d.tick.hostFail = d.hostFail := rfl
@[simp] theorem Dev.tick_hostMarked : d.tick.hostMarked = d.hostMarked := rfl
@[simp] theorem Dev.tick_hostReply : d.tick.hostReply = d.hostReply := rfl
@[simp] theorem Dev.tick_chanShift : d.tick.chanShift = d.chanShift := rfl
@[simp] theorem Dev.tick_ranks : d.tick.ranks = d.ranks := rfl
@[simp] theorem Dev.tick_cores : d.tick.cores = d.cores := rfl
@[simp] theorem Dev.tick_agents : d.tick.agents = d.agents := rfl
@[simp] theorem Dev.tick_stores : d.tick.stores = d.stores := rfl
@[simp] theorem Dev.tick_storeAsid : d.tick.storeAsid = d.storeAsid := rfl
@[simp] theorem Dev.tick_homes : d.tick.homes = d.homes := rfl
@[simp] theorem Dev.tick_vaults : d.tick.vaults = d.vaults := rfl
@[simp] theorem Dev.tick_hostHeld : d.tick.hostHeld = d.hostHeld := rfl
@[simp] theorem Dev.tick_xlt : d.tick.xlt = d.xlt := rfl
@[simp] theorem Dev.tick_clusterTlb : d.tick.clusterTlb = d.clusterTlb := rfl
@[simp] theorem Dev.tick_moverTlb : d.tick.moverTlb = d.moverTlb := rfl
@[simp] theorem Dev.tick_cachePos : d.tick.cachePos = d.cachePos := rfl
@[simp] theorem Dev.tick_inval : d.tick.inval = d.inval := rfl
@[simp] theorem Dev.tick_keys : d.tick.keys = d.keys := rfl
@[simp] theorem Dev.tick_kek : d.tick.kek = d.kek := rfl
@[simp] theorem Dev.tick_keyOp : d.tick.keyOp = d.keyOp := rfl
@[simp] theorem Dev.tick_ms : d.tick.ms = d.ms := rfl
@[simp] theorem Dev.tick_watch : d.tick.watch = d.watch := rfl
@[simp] theorem Dev.tick_signals : d.tick.signals = d.signals := rfl
@[simp] theorem Dev.tick_irqs : d.tick.irqs = d.irqs := rfl
@[simp] theorem Dev.tick_wlog : d.tick.wlog = d.wlog := rfl
@[simp] theorem Dev.tick_qs : d.tick.qs = d.qs := rfl
@[simp] theorem Dev.tick_pst : d.tick.pst = d.pst := rfl
@[simp] theorem Dev.tick_movers : d.tick.movers = d.movers := rfl
@[simp] theorem Dev.tick_links : d.tick.links = d.links := rfl
@[simp] theorem Dev.tick_lowHalf : d.tick.lowHalf = d.lowHalf := rfl
@[simp] theorem Dev.tick_cvuStalled : d.tick.cvuStalled = d.cvuStalled := rfl
@[simp] theorem Dev.tick_cvuAborting : d.tick.cvuAborting = d.cvuAborting := rfl
@[simp] theorem Dev.tick_pwr : d.tick.pwr = d.pwr := rfl
@[simp] theorem Dev.tick_sys : d.tick.sys = d.sys := rfl

end

section
variable (d : Dev) (a : Nat) (b : Byte)

@[simp] theorem Dev.setByte_regs : (d.setByte a b).regs = d.regs := rfl
@[simp] theorem Dev.setByte_time : (d.setByte a b).time = d.time := rfl
@[simp] theorem Dev.setByte_freeCtr : (d.setByte a b).freeCtr = d.freeCtr := rfl
@[simp] theorem Dev.setByte_errQ : (d.setByte a b).errQ = d.errQ := rfl
@[simp] theorem Dev.setByte_tag : (d.setByte a b).tag = d.tag := rfl
@[simp] theorem Dev.setByte_accum : (d.setByte a b).accum = d.accum := rfl
@[simp] theorem Dev.setByte_parts : (d.setByte a b).parts = d.parts := rfl
@[simp] theorem Dev.setByte_fmts : (d.setByte a b).fmts = d.fmts := rfl
@[simp] theorem Dev.setByte_poison : (d.setByte a b).poison = d.poison := rfl
@[simp] theorem Dev.setByte_upsets : (d.setByte a b).upsets = d.upsets := rfl
@[simp] theorem Dev.setByte_hostFail : (d.setByte a b).hostFail = d.hostFail := rfl
@[simp] theorem Dev.setByte_hostMarked : (d.setByte a b).hostMarked = d.hostMarked := rfl
@[simp] theorem Dev.setByte_hostReply : (d.setByte a b).hostReply = d.hostReply := rfl
@[simp] theorem Dev.setByte_chanShift : (d.setByte a b).chanShift = d.chanShift := rfl
@[simp] theorem Dev.setByte_ranks : (d.setByte a b).ranks = d.ranks := rfl
@[simp] theorem Dev.setByte_cores : (d.setByte a b).cores = d.cores := rfl
@[simp] theorem Dev.setByte_agents : (d.setByte a b).agents = d.agents := rfl
@[simp] theorem Dev.setByte_stores : (d.setByte a b).stores = d.stores := rfl
@[simp] theorem Dev.setByte_storeAsid : (d.setByte a b).storeAsid = d.storeAsid := rfl
@[simp] theorem Dev.setByte_homes : (d.setByte a b).homes = d.homes := rfl
@[simp] theorem Dev.setByte_vaults : (d.setByte a b).vaults = d.vaults := rfl
@[simp] theorem Dev.setByte_hostHeld : (d.setByte a b).hostHeld = d.hostHeld := rfl
@[simp] theorem Dev.setByte_xlt : (d.setByte a b).xlt = d.xlt := rfl
@[simp] theorem Dev.setByte_clusterTlb : (d.setByte a b).clusterTlb = d.clusterTlb := rfl
@[simp] theorem Dev.setByte_moverTlb : (d.setByte a b).moverTlb = d.moverTlb := rfl
@[simp] theorem Dev.setByte_cachePos : (d.setByte a b).cachePos = d.cachePos := rfl
@[simp] theorem Dev.setByte_inval : (d.setByte a b).inval = d.inval := rfl
@[simp] theorem Dev.setByte_keys : (d.setByte a b).keys = d.keys := rfl
@[simp] theorem Dev.setByte_kek : (d.setByte a b).kek = d.kek := rfl
@[simp] theorem Dev.setByte_keyOp : (d.setByte a b).keyOp = d.keyOp := rfl
@[simp] theorem Dev.setByte_ms : (d.setByte a b).ms = d.ms := rfl
@[simp] theorem Dev.setByte_watch : (d.setByte a b).watch = d.watch := rfl
@[simp] theorem Dev.setByte_signals : (d.setByte a b).signals = d.signals := rfl
@[simp] theorem Dev.setByte_irqs : (d.setByte a b).irqs = d.irqs := rfl
@[simp] theorem Dev.setByte_wlog : (d.setByte a b).wlog = d.wlog := rfl
@[simp] theorem Dev.setByte_qs : (d.setByte a b).qs = d.qs := rfl
@[simp] theorem Dev.setByte_pst : (d.setByte a b).pst = d.pst := rfl
@[simp] theorem Dev.setByte_movers : (d.setByte a b).movers = d.movers := rfl
@[simp] theorem Dev.setByte_links : (d.setByte a b).links = d.links := rfl
@[simp] theorem Dev.setByte_lowHalf : (d.setByte a b).lowHalf = d.lowHalf := rfl
@[simp] theorem Dev.setByte_cvuStalled : (d.setByte a b).cvuStalled = d.cvuStalled := rfl
@[simp] theorem Dev.setByte_cvuAborting : (d.setByte a b).cvuAborting = d.cvuAborting := rfl
@[simp] theorem Dev.setByte_pwr : (d.setByte a b).pwr = d.pwr := rfl
@[simp] theorem Dev.setByte_sys : (d.setByte a b).sys = d.sys := rfl

end

section
variable (d : Dev) (l : Nat) (v : LineData)

@[simp] theorem Dev.setRawLine_regs : (d.setRawLine l v).regs = d.regs := rfl
@[simp] theorem Dev.setRawLine_time : (d.setRawLine l v).time = d.time := rfl
@[simp] theorem Dev.setRawLine_freeCtr : (d.setRawLine l v).freeCtr = d.freeCtr := rfl
@[simp] theorem Dev.setRawLine_errQ : (d.setRawLine l v).errQ = d.errQ := rfl
@[simp] theorem Dev.setRawLine_tag : (d.setRawLine l v).tag = d.tag := rfl
@[simp] theorem Dev.setRawLine_accum : (d.setRawLine l v).accum = d.accum := rfl
@[simp] theorem Dev.setRawLine_parts : (d.setRawLine l v).parts = d.parts := rfl
@[simp] theorem Dev.setRawLine_fmts : (d.setRawLine l v).fmts = d.fmts := rfl
@[simp] theorem Dev.setRawLine_poison : (d.setRawLine l v).poison = d.poison := rfl
@[simp] theorem Dev.setRawLine_upsets : (d.setRawLine l v).upsets = d.upsets := rfl
@[simp] theorem Dev.setRawLine_hostFail : (d.setRawLine l v).hostFail = d.hostFail := rfl
@[simp] theorem Dev.setRawLine_hostMarked : (d.setRawLine l v).hostMarked = d.hostMarked := rfl
@[simp] theorem Dev.setRawLine_hostReply : (d.setRawLine l v).hostReply = d.hostReply := rfl
@[simp] theorem Dev.setRawLine_chanShift : (d.setRawLine l v).chanShift = d.chanShift := rfl
@[simp] theorem Dev.setRawLine_ranks : (d.setRawLine l v).ranks = d.ranks := rfl
@[simp] theorem Dev.setRawLine_cores : (d.setRawLine l v).cores = d.cores := rfl
@[simp] theorem Dev.setRawLine_agents : (d.setRawLine l v).agents = d.agents := rfl
@[simp] theorem Dev.setRawLine_stores : (d.setRawLine l v).stores = d.stores := rfl
@[simp] theorem Dev.setRawLine_storeAsid : (d.setRawLine l v).storeAsid = d.storeAsid := rfl
@[simp] theorem Dev.setRawLine_homes : (d.setRawLine l v).homes = d.homes := rfl
@[simp] theorem Dev.setRawLine_vaults : (d.setRawLine l v).vaults = d.vaults := rfl
@[simp] theorem Dev.setRawLine_hostHeld : (d.setRawLine l v).hostHeld = d.hostHeld := rfl
@[simp] theorem Dev.setRawLine_xlt : (d.setRawLine l v).xlt = d.xlt := rfl
@[simp] theorem Dev.setRawLine_clusterTlb : (d.setRawLine l v).clusterTlb = d.clusterTlb := rfl
@[simp] theorem Dev.setRawLine_moverTlb : (d.setRawLine l v).moverTlb = d.moverTlb := rfl
@[simp] theorem Dev.setRawLine_cachePos : (d.setRawLine l v).cachePos = d.cachePos := rfl
@[simp] theorem Dev.setRawLine_inval : (d.setRawLine l v).inval = d.inval := rfl
@[simp] theorem Dev.setRawLine_keys : (d.setRawLine l v).keys = d.keys := rfl
@[simp] theorem Dev.setRawLine_kek : (d.setRawLine l v).kek = d.kek := rfl
@[simp] theorem Dev.setRawLine_keyOp : (d.setRawLine l v).keyOp = d.keyOp := rfl
@[simp] theorem Dev.setRawLine_ms : (d.setRawLine l v).ms = d.ms := rfl
@[simp] theorem Dev.setRawLine_watch : (d.setRawLine l v).watch = d.watch := rfl
@[simp] theorem Dev.setRawLine_signals : (d.setRawLine l v).signals = d.signals := rfl
@[simp] theorem Dev.setRawLine_irqs : (d.setRawLine l v).irqs = d.irqs := rfl
@[simp] theorem Dev.setRawLine_wlog : (d.setRawLine l v).wlog = d.wlog := rfl
@[simp] theorem Dev.setRawLine_qs : (d.setRawLine l v).qs = d.qs := rfl
@[simp] theorem Dev.setRawLine_pst : (d.setRawLine l v).pst = d.pst := rfl
@[simp] theorem Dev.setRawLine_movers : (d.setRawLine l v).movers = d.movers := rfl
@[simp] theorem Dev.setRawLine_links : (d.setRawLine l v).links = d.links := rfl
@[simp] theorem Dev.setRawLine_lowHalf : (d.setRawLine l v).lowHalf = d.lowHalf := rfl
@[simp] theorem Dev.setRawLine_cvuStalled : (d.setRawLine l v).cvuStalled = d.cvuStalled := rfl
@[simp] theorem Dev.setRawLine_cvuAborting : (d.setRawLine l v).cvuAborting = d.cvuAborting := rfl
@[simp] theorem Dev.setRawLine_pwr : (d.setRawLine l v).pwr = d.pwr := rfl
@[simp] theorem Dev.setRawLine_sys : (d.setRawLine l v).sys = d.sys := rfl

end

section
variable (d : Dev) (a : Nat) (g : CacheAgent)

@[simp] theorem Dev.setAgent_regs : (d.setAgent a g).regs = d.regs := rfl
@[simp] theorem Dev.setAgent_time : (d.setAgent a g).time = d.time := rfl
@[simp] theorem Dev.setAgent_freeCtr : (d.setAgent a g).freeCtr = d.freeCtr := rfl
@[simp] theorem Dev.setAgent_errQ : (d.setAgent a g).errQ = d.errQ := rfl
@[simp] theorem Dev.setAgent_tag : (d.setAgent a g).tag = d.tag := rfl
@[simp] theorem Dev.setAgent_accum : (d.setAgent a g).accum = d.accum := rfl
@[simp] theorem Dev.setAgent_parts : (d.setAgent a g).parts = d.parts := rfl
@[simp] theorem Dev.setAgent_fmts : (d.setAgent a g).fmts = d.fmts := rfl
@[simp] theorem Dev.setAgent_mem : (d.setAgent a g).mem = d.mem := rfl
@[simp] theorem Dev.setAgent_poison : (d.setAgent a g).poison = d.poison := rfl
@[simp] theorem Dev.setAgent_upsets : (d.setAgent a g).upsets = d.upsets := rfl
@[simp] theorem Dev.setAgent_hostFail : (d.setAgent a g).hostFail = d.hostFail := rfl
@[simp] theorem Dev.setAgent_hostMarked : (d.setAgent a g).hostMarked = d.hostMarked := rfl
@[simp] theorem Dev.setAgent_hostReply : (d.setAgent a g).hostReply = d.hostReply := rfl
@[simp] theorem Dev.setAgent_chanShift : (d.setAgent a g).chanShift = d.chanShift := rfl
@[simp] theorem Dev.setAgent_ranks : (d.setAgent a g).ranks = d.ranks := rfl
@[simp] theorem Dev.setAgent_cores : (d.setAgent a g).cores = d.cores := rfl
@[simp] theorem Dev.setAgent_stores : (d.setAgent a g).stores = d.stores := rfl
@[simp] theorem Dev.setAgent_storeAsid : (d.setAgent a g).storeAsid = d.storeAsid := rfl
@[simp] theorem Dev.setAgent_homes : (d.setAgent a g).homes = d.homes := rfl
@[simp] theorem Dev.setAgent_vaults : (d.setAgent a g).vaults = d.vaults := rfl
@[simp] theorem Dev.setAgent_hostHeld : (d.setAgent a g).hostHeld = d.hostHeld := rfl
@[simp] theorem Dev.setAgent_xlt : (d.setAgent a g).xlt = d.xlt := rfl
@[simp] theorem Dev.setAgent_clusterTlb : (d.setAgent a g).clusterTlb = d.clusterTlb := rfl
@[simp] theorem Dev.setAgent_moverTlb : (d.setAgent a g).moverTlb = d.moverTlb := rfl
@[simp] theorem Dev.setAgent_cachePos : (d.setAgent a g).cachePos = d.cachePos := rfl
@[simp] theorem Dev.setAgent_inval : (d.setAgent a g).inval = d.inval := rfl
@[simp] theorem Dev.setAgent_keys : (d.setAgent a g).keys = d.keys := rfl
@[simp] theorem Dev.setAgent_kek : (d.setAgent a g).kek = d.kek := rfl
@[simp] theorem Dev.setAgent_keyOp : (d.setAgent a g).keyOp = d.keyOp := rfl
@[simp] theorem Dev.setAgent_ms : (d.setAgent a g).ms = d.ms := rfl
@[simp] theorem Dev.setAgent_watch : (d.setAgent a g).watch = d.watch := rfl
@[simp] theorem Dev.setAgent_signals : (d.setAgent a g).signals = d.signals := rfl
@[simp] theorem Dev.setAgent_irqs : (d.setAgent a g).irqs = d.irqs := rfl
@[simp] theorem Dev.setAgent_wlog : (d.setAgent a g).wlog = d.wlog := rfl
@[simp] theorem Dev.setAgent_qs : (d.setAgent a g).qs = d.qs := rfl
@[simp] theorem Dev.setAgent_pst : (d.setAgent a g).pst = d.pst := rfl
@[simp] theorem Dev.setAgent_movers : (d.setAgent a g).movers = d.movers := rfl
@[simp] theorem Dev.setAgent_links : (d.setAgent a g).links = d.links := rfl
@[simp] theorem Dev.setAgent_lowHalf : (d.setAgent a g).lowHalf = d.lowHalf := rfl
@[simp] theorem Dev.setAgent_cvuStalled : (d.setAgent a g).cvuStalled = d.cvuStalled := rfl
@[simp] theorem Dev.setAgent_cvuAborting : (d.setAgent a g).cvuAborting = d.cvuAborting := rfl
@[simp] theorem Dev.setAgent_pwr : (d.setAgent a g).pwr = d.pwr := rfl
@[simp] theorem Dev.setAgent_sys : (d.setAgent a g).sys = d.sys := rfl

end

section
variable (d : Dev) (h : Nat) (x : Home)

@[simp] theorem Dev.setHome_regs : (d.setHome h x).regs = d.regs := rfl
@[simp] theorem Dev.setHome_time : (d.setHome h x).time = d.time := rfl
@[simp] theorem Dev.setHome_freeCtr : (d.setHome h x).freeCtr = d.freeCtr := rfl
@[simp] theorem Dev.setHome_errQ : (d.setHome h x).errQ = d.errQ := rfl
@[simp] theorem Dev.setHome_tag : (d.setHome h x).tag = d.tag := rfl
@[simp] theorem Dev.setHome_accum : (d.setHome h x).accum = d.accum := rfl
@[simp] theorem Dev.setHome_parts : (d.setHome h x).parts = d.parts := rfl
@[simp] theorem Dev.setHome_fmts : (d.setHome h x).fmts = d.fmts := rfl
@[simp] theorem Dev.setHome_mem : (d.setHome h x).mem = d.mem := rfl
@[simp] theorem Dev.setHome_poison : (d.setHome h x).poison = d.poison := rfl
@[simp] theorem Dev.setHome_upsets : (d.setHome h x).upsets = d.upsets := rfl
@[simp] theorem Dev.setHome_hostFail : (d.setHome h x).hostFail = d.hostFail := rfl
@[simp] theorem Dev.setHome_hostMarked : (d.setHome h x).hostMarked = d.hostMarked := rfl
@[simp] theorem Dev.setHome_hostReply : (d.setHome h x).hostReply = d.hostReply := rfl
@[simp] theorem Dev.setHome_chanShift : (d.setHome h x).chanShift = d.chanShift := rfl
@[simp] theorem Dev.setHome_ranks : (d.setHome h x).ranks = d.ranks := rfl
@[simp] theorem Dev.setHome_cores : (d.setHome h x).cores = d.cores := rfl
@[simp] theorem Dev.setHome_agents : (d.setHome h x).agents = d.agents := rfl
@[simp] theorem Dev.setHome_stores : (d.setHome h x).stores = d.stores := rfl
@[simp] theorem Dev.setHome_storeAsid : (d.setHome h x).storeAsid = d.storeAsid := rfl
@[simp] theorem Dev.setHome_vaults : (d.setHome h x).vaults = d.vaults := rfl
@[simp] theorem Dev.setHome_hostHeld : (d.setHome h x).hostHeld = d.hostHeld := rfl
@[simp] theorem Dev.setHome_xlt : (d.setHome h x).xlt = d.xlt := rfl
@[simp] theorem Dev.setHome_clusterTlb : (d.setHome h x).clusterTlb = d.clusterTlb := rfl
@[simp] theorem Dev.setHome_moverTlb : (d.setHome h x).moverTlb = d.moverTlb := rfl
@[simp] theorem Dev.setHome_cachePos : (d.setHome h x).cachePos = d.cachePos := rfl
@[simp] theorem Dev.setHome_inval : (d.setHome h x).inval = d.inval := rfl
@[simp] theorem Dev.setHome_keys : (d.setHome h x).keys = d.keys := rfl
@[simp] theorem Dev.setHome_kek : (d.setHome h x).kek = d.kek := rfl
@[simp] theorem Dev.setHome_keyOp : (d.setHome h x).keyOp = d.keyOp := rfl
@[simp] theorem Dev.setHome_ms : (d.setHome h x).ms = d.ms := rfl
@[simp] theorem Dev.setHome_watch : (d.setHome h x).watch = d.watch := rfl
@[simp] theorem Dev.setHome_signals : (d.setHome h x).signals = d.signals := rfl
@[simp] theorem Dev.setHome_irqs : (d.setHome h x).irqs = d.irqs := rfl
@[simp] theorem Dev.setHome_wlog : (d.setHome h x).wlog = d.wlog := rfl
@[simp] theorem Dev.setHome_qs : (d.setHome h x).qs = d.qs := rfl
@[simp] theorem Dev.setHome_pst : (d.setHome h x).pst = d.pst := rfl
@[simp] theorem Dev.setHome_movers : (d.setHome h x).movers = d.movers := rfl
@[simp] theorem Dev.setHome_links : (d.setHome h x).links = d.links := rfl
@[simp] theorem Dev.setHome_lowHalf : (d.setHome h x).lowHalf = d.lowHalf := rfl
@[simp] theorem Dev.setHome_cvuStalled : (d.setHome h x).cvuStalled = d.cvuStalled := rfl
@[simp] theorem Dev.setHome_cvuAborting : (d.setHome h x).cvuAborting = d.cvuAborting := rfl
@[simp] theorem Dev.setHome_pwr : (d.setHome h x).pwr = d.pwr := rfl
@[simp] theorem Dev.setHome_sys : (d.setHome h x).sys = d.sys := rfl

end

section
variable (d : Dev) (k : Nat) (c : Core)

@[simp] theorem Dev.setCore_regs : (d.setCore k c).regs = d.regs := rfl
@[simp] theorem Dev.setCore_time : (d.setCore k c).time = d.time := rfl
@[simp] theorem Dev.setCore_freeCtr : (d.setCore k c).freeCtr = d.freeCtr := rfl
@[simp] theorem Dev.setCore_errQ : (d.setCore k c).errQ = d.errQ := rfl
@[simp] theorem Dev.setCore_tag : (d.setCore k c).tag = d.tag := rfl
@[simp] theorem Dev.setCore_accum : (d.setCore k c).accum = d.accum := rfl
@[simp] theorem Dev.setCore_parts : (d.setCore k c).parts = d.parts := rfl
@[simp] theorem Dev.setCore_fmts : (d.setCore k c).fmts = d.fmts := rfl
@[simp] theorem Dev.setCore_mem : (d.setCore k c).mem = d.mem := rfl
@[simp] theorem Dev.setCore_poison : (d.setCore k c).poison = d.poison := rfl
@[simp] theorem Dev.setCore_upsets : (d.setCore k c).upsets = d.upsets := rfl
@[simp] theorem Dev.setCore_hostFail : (d.setCore k c).hostFail = d.hostFail := rfl
@[simp] theorem Dev.setCore_hostMarked : (d.setCore k c).hostMarked = d.hostMarked := rfl
@[simp] theorem Dev.setCore_hostReply : (d.setCore k c).hostReply = d.hostReply := rfl
@[simp] theorem Dev.setCore_chanShift : (d.setCore k c).chanShift = d.chanShift := rfl
@[simp] theorem Dev.setCore_ranks : (d.setCore k c).ranks = d.ranks := rfl
@[simp] theorem Dev.setCore_agents : (d.setCore k c).agents = d.agents := rfl
@[simp] theorem Dev.setCore_stores : (d.setCore k c).stores = d.stores := rfl
@[simp] theorem Dev.setCore_storeAsid : (d.setCore k c).storeAsid = d.storeAsid := rfl
@[simp] theorem Dev.setCore_homes : (d.setCore k c).homes = d.homes := rfl
@[simp] theorem Dev.setCore_vaults : (d.setCore k c).vaults = d.vaults := rfl
@[simp] theorem Dev.setCore_hostHeld : (d.setCore k c).hostHeld = d.hostHeld := rfl
@[simp] theorem Dev.setCore_xlt : (d.setCore k c).xlt = d.xlt := rfl
@[simp] theorem Dev.setCore_clusterTlb : (d.setCore k c).clusterTlb = d.clusterTlb := rfl
@[simp] theorem Dev.setCore_moverTlb : (d.setCore k c).moverTlb = d.moverTlb := rfl
@[simp] theorem Dev.setCore_cachePos : (d.setCore k c).cachePos = d.cachePos := rfl
@[simp] theorem Dev.setCore_inval : (d.setCore k c).inval = d.inval := rfl
@[simp] theorem Dev.setCore_keys : (d.setCore k c).keys = d.keys := rfl
@[simp] theorem Dev.setCore_kek : (d.setCore k c).kek = d.kek := rfl
@[simp] theorem Dev.setCore_keyOp : (d.setCore k c).keyOp = d.keyOp := rfl
@[simp] theorem Dev.setCore_ms : (d.setCore k c).ms = d.ms := rfl
@[simp] theorem Dev.setCore_watch : (d.setCore k c).watch = d.watch := rfl
@[simp] theorem Dev.setCore_signals : (d.setCore k c).signals = d.signals := rfl
@[simp] theorem Dev.setCore_irqs : (d.setCore k c).irqs = d.irqs := rfl
@[simp] theorem Dev.setCore_wlog : (d.setCore k c).wlog = d.wlog := rfl
@[simp] theorem Dev.setCore_qs : (d.setCore k c).qs = d.qs := rfl
@[simp] theorem Dev.setCore_pst : (d.setCore k c).pst = d.pst := rfl
@[simp] theorem Dev.setCore_movers : (d.setCore k c).movers = d.movers := rfl
@[simp] theorem Dev.setCore_links : (d.setCore k c).links = d.links := rfl
@[simp] theorem Dev.setCore_lowHalf : (d.setCore k c).lowHalf = d.lowHalf := rfl
@[simp] theorem Dev.setCore_cvuStalled : (d.setCore k c).cvuStalled = d.cvuStalled := rfl
@[simp] theorem Dev.setCore_cvuAborting : (d.setCore k c).cvuAborting = d.cvuAborting := rfl
@[simp] theorem Dev.setCore_pwr : (d.setCore k c).pwr = d.pwr := rfl
@[simp] theorem Dev.setCore_sys : (d.setCore k c).sys = d.sys := rfl

end

section
variable (d : Dev) (k n : Nat) (v : Convoy)

@[simp] theorem Dev.setConvoy_regs : (d.setConvoy k n v).regs = d.regs := rfl
@[simp] theorem Dev.setConvoy_time : (d.setConvoy k n v).time = d.time := rfl
@[simp] theorem Dev.setConvoy_freeCtr : (d.setConvoy k n v).freeCtr = d.freeCtr := rfl
@[simp] theorem Dev.setConvoy_errQ : (d.setConvoy k n v).errQ = d.errQ := rfl
@[simp] theorem Dev.setConvoy_tag : (d.setConvoy k n v).tag = d.tag := rfl
@[simp] theorem Dev.setConvoy_accum : (d.setConvoy k n v).accum = d.accum := rfl
@[simp] theorem Dev.setConvoy_parts : (d.setConvoy k n v).parts = d.parts := rfl
@[simp] theorem Dev.setConvoy_fmts : (d.setConvoy k n v).fmts = d.fmts := rfl
@[simp] theorem Dev.setConvoy_mem : (d.setConvoy k n v).mem = d.mem := rfl
@[simp] theorem Dev.setConvoy_poison : (d.setConvoy k n v).poison = d.poison := rfl
@[simp] theorem Dev.setConvoy_upsets : (d.setConvoy k n v).upsets = d.upsets := rfl
@[simp] theorem Dev.setConvoy_hostFail : (d.setConvoy k n v).hostFail = d.hostFail := rfl
@[simp] theorem Dev.setConvoy_hostMarked : (d.setConvoy k n v).hostMarked = d.hostMarked := rfl
@[simp] theorem Dev.setConvoy_hostReply : (d.setConvoy k n v).hostReply = d.hostReply := rfl
@[simp] theorem Dev.setConvoy_chanShift : (d.setConvoy k n v).chanShift = d.chanShift := rfl
@[simp] theorem Dev.setConvoy_ranks : (d.setConvoy k n v).ranks = d.ranks := rfl
@[simp] theorem Dev.setConvoy_agents : (d.setConvoy k n v).agents = d.agents := rfl
@[simp] theorem Dev.setConvoy_stores : (d.setConvoy k n v).stores = d.stores := rfl
@[simp] theorem Dev.setConvoy_storeAsid : (d.setConvoy k n v).storeAsid = d.storeAsid := rfl
@[simp] theorem Dev.setConvoy_homes : (d.setConvoy k n v).homes = d.homes := rfl
@[simp] theorem Dev.setConvoy_vaults : (d.setConvoy k n v).vaults = d.vaults := rfl
@[simp] theorem Dev.setConvoy_hostHeld : (d.setConvoy k n v).hostHeld = d.hostHeld := rfl
@[simp] theorem Dev.setConvoy_xlt : (d.setConvoy k n v).xlt = d.xlt := rfl
@[simp] theorem Dev.setConvoy_clusterTlb : (d.setConvoy k n v).clusterTlb = d.clusterTlb := rfl
@[simp] theorem Dev.setConvoy_moverTlb : (d.setConvoy k n v).moverTlb = d.moverTlb := rfl
@[simp] theorem Dev.setConvoy_cachePos : (d.setConvoy k n v).cachePos = d.cachePos := rfl
@[simp] theorem Dev.setConvoy_inval : (d.setConvoy k n v).inval = d.inval := rfl
@[simp] theorem Dev.setConvoy_keys : (d.setConvoy k n v).keys = d.keys := rfl
@[simp] theorem Dev.setConvoy_kek : (d.setConvoy k n v).kek = d.kek := rfl
@[simp] theorem Dev.setConvoy_keyOp : (d.setConvoy k n v).keyOp = d.keyOp := rfl
@[simp] theorem Dev.setConvoy_ms : (d.setConvoy k n v).ms = d.ms := rfl
@[simp] theorem Dev.setConvoy_watch : (d.setConvoy k n v).watch = d.watch := rfl
@[simp] theorem Dev.setConvoy_signals : (d.setConvoy k n v).signals = d.signals := rfl
@[simp] theorem Dev.setConvoy_irqs : (d.setConvoy k n v).irqs = d.irqs := rfl
@[simp] theorem Dev.setConvoy_wlog : (d.setConvoy k n v).wlog = d.wlog := rfl
@[simp] theorem Dev.setConvoy_qs : (d.setConvoy k n v).qs = d.qs := rfl
@[simp] theorem Dev.setConvoy_pst : (d.setConvoy k n v).pst = d.pst := rfl
@[simp] theorem Dev.setConvoy_movers : (d.setConvoy k n v).movers = d.movers := rfl
@[simp] theorem Dev.setConvoy_links : (d.setConvoy k n v).links = d.links := rfl
@[simp] theorem Dev.setConvoy_lowHalf : (d.setConvoy k n v).lowHalf = d.lowHalf := rfl
@[simp] theorem Dev.setConvoy_cvuStalled : (d.setConvoy k n v).cvuStalled = d.cvuStalled := rfl
@[simp] theorem Dev.setConvoy_cvuAborting : (d.setConvoy k n v).cvuAborting = d.cvuAborting := rfl
@[simp] theorem Dev.setConvoy_pwr : (d.setConvoy k n v).pwr = d.pwr := rfl
@[simp] theorem Dev.setConvoy_sys : (d.setConvoy k n v).sys = d.sys := rfl

end

section
variable (d : Dev) (k w : Nat) (x : WG)

@[simp] theorem Dev.setWg_regs : (d.setWg k w x).regs = d.regs := rfl
@[simp] theorem Dev.setWg_time : (d.setWg k w x).time = d.time := rfl
@[simp] theorem Dev.setWg_freeCtr : (d.setWg k w x).freeCtr = d.freeCtr := rfl
@[simp] theorem Dev.setWg_errQ : (d.setWg k w x).errQ = d.errQ := rfl
@[simp] theorem Dev.setWg_tag : (d.setWg k w x).tag = d.tag := rfl
@[simp] theorem Dev.setWg_accum : (d.setWg k w x).accum = d.accum := rfl
@[simp] theorem Dev.setWg_parts : (d.setWg k w x).parts = d.parts := rfl
@[simp] theorem Dev.setWg_fmts : (d.setWg k w x).fmts = d.fmts := rfl
@[simp] theorem Dev.setWg_mem : (d.setWg k w x).mem = d.mem := rfl
@[simp] theorem Dev.setWg_poison : (d.setWg k w x).poison = d.poison := rfl
@[simp] theorem Dev.setWg_upsets : (d.setWg k w x).upsets = d.upsets := rfl
@[simp] theorem Dev.setWg_hostFail : (d.setWg k w x).hostFail = d.hostFail := rfl
@[simp] theorem Dev.setWg_hostMarked : (d.setWg k w x).hostMarked = d.hostMarked := rfl
@[simp] theorem Dev.setWg_hostReply : (d.setWg k w x).hostReply = d.hostReply := rfl
@[simp] theorem Dev.setWg_chanShift : (d.setWg k w x).chanShift = d.chanShift := rfl
@[simp] theorem Dev.setWg_ranks : (d.setWg k w x).ranks = d.ranks := rfl
@[simp] theorem Dev.setWg_agents : (d.setWg k w x).agents = d.agents := rfl
@[simp] theorem Dev.setWg_stores : (d.setWg k w x).stores = d.stores := rfl
@[simp] theorem Dev.setWg_storeAsid : (d.setWg k w x).storeAsid = d.storeAsid := rfl
@[simp] theorem Dev.setWg_homes : (d.setWg k w x).homes = d.homes := rfl
@[simp] theorem Dev.setWg_vaults : (d.setWg k w x).vaults = d.vaults := rfl
@[simp] theorem Dev.setWg_hostHeld : (d.setWg k w x).hostHeld = d.hostHeld := rfl
@[simp] theorem Dev.setWg_xlt : (d.setWg k w x).xlt = d.xlt := rfl
@[simp] theorem Dev.setWg_clusterTlb : (d.setWg k w x).clusterTlb = d.clusterTlb := rfl
@[simp] theorem Dev.setWg_moverTlb : (d.setWg k w x).moverTlb = d.moverTlb := rfl
@[simp] theorem Dev.setWg_cachePos : (d.setWg k w x).cachePos = d.cachePos := rfl
@[simp] theorem Dev.setWg_inval : (d.setWg k w x).inval = d.inval := rfl
@[simp] theorem Dev.setWg_keys : (d.setWg k w x).keys = d.keys := rfl
@[simp] theorem Dev.setWg_kek : (d.setWg k w x).kek = d.kek := rfl
@[simp] theorem Dev.setWg_keyOp : (d.setWg k w x).keyOp = d.keyOp := rfl
@[simp] theorem Dev.setWg_ms : (d.setWg k w x).ms = d.ms := rfl
@[simp] theorem Dev.setWg_watch : (d.setWg k w x).watch = d.watch := rfl
@[simp] theorem Dev.setWg_signals : (d.setWg k w x).signals = d.signals := rfl
@[simp] theorem Dev.setWg_irqs : (d.setWg k w x).irqs = d.irqs := rfl
@[simp] theorem Dev.setWg_wlog : (d.setWg k w x).wlog = d.wlog := rfl
@[simp] theorem Dev.setWg_qs : (d.setWg k w x).qs = d.qs := rfl
@[simp] theorem Dev.setWg_pst : (d.setWg k w x).pst = d.pst := rfl
@[simp] theorem Dev.setWg_movers : (d.setWg k w x).movers = d.movers := rfl
@[simp] theorem Dev.setWg_links : (d.setWg k w x).links = d.links := rfl
@[simp] theorem Dev.setWg_lowHalf : (d.setWg k w x).lowHalf = d.lowHalf := rfl
@[simp] theorem Dev.setWg_cvuStalled : (d.setWg k w x).cvuStalled = d.cvuStalled := rfl
@[simp] theorem Dev.setWg_cvuAborting : (d.setWg k w x).cvuAborting = d.cvuAborting := rfl
@[simp] theorem Dev.setWg_pwr : (d.setWg k w x).pwr = d.pwr := rfl
@[simp] theorem Dev.setWg_sys : (d.setWg k w x).sys = d.sys := rfl

end

section
variable (d : Dev) (a q : Nat) (x : QueueState)

@[simp] theorem Dev.setQueue_regs : (d.setQueue a q x).regs = d.regs := rfl
@[simp] theorem Dev.setQueue_time : (d.setQueue a q x).time = d.time := rfl
@[simp] theorem Dev.setQueue_freeCtr : (d.setQueue a q x).freeCtr = d.freeCtr := rfl
@[simp] theorem Dev.setQueue_errQ : (d.setQueue a q x).errQ = d.errQ := rfl
@[simp] theorem Dev.setQueue_tag : (d.setQueue a q x).tag = d.tag := rfl
@[simp] theorem Dev.setQueue_accum : (d.setQueue a q x).accum = d.accum := rfl
@[simp] theorem Dev.setQueue_parts : (d.setQueue a q x).parts = d.parts := rfl
@[simp] theorem Dev.setQueue_fmts : (d.setQueue a q x).fmts = d.fmts := rfl
@[simp] theorem Dev.setQueue_mem : (d.setQueue a q x).mem = d.mem := rfl
@[simp] theorem Dev.setQueue_poison : (d.setQueue a q x).poison = d.poison := rfl
@[simp] theorem Dev.setQueue_upsets : (d.setQueue a q x).upsets = d.upsets := rfl
@[simp] theorem Dev.setQueue_hostFail : (d.setQueue a q x).hostFail = d.hostFail := rfl
@[simp] theorem Dev.setQueue_hostMarked : (d.setQueue a q x).hostMarked = d.hostMarked := rfl
@[simp] theorem Dev.setQueue_hostReply : (d.setQueue a q x).hostReply = d.hostReply := rfl
@[simp] theorem Dev.setQueue_chanShift : (d.setQueue a q x).chanShift = d.chanShift := rfl
@[simp] theorem Dev.setQueue_ranks : (d.setQueue a q x).ranks = d.ranks := rfl
@[simp] theorem Dev.setQueue_cores : (d.setQueue a q x).cores = d.cores := rfl
@[simp] theorem Dev.setQueue_agents : (d.setQueue a q x).agents = d.agents := rfl
@[simp] theorem Dev.setQueue_stores : (d.setQueue a q x).stores = d.stores := rfl
@[simp] theorem Dev.setQueue_storeAsid : (d.setQueue a q x).storeAsid = d.storeAsid := rfl
@[simp] theorem Dev.setQueue_homes : (d.setQueue a q x).homes = d.homes := rfl
@[simp] theorem Dev.setQueue_vaults : (d.setQueue a q x).vaults = d.vaults := rfl
@[simp] theorem Dev.setQueue_hostHeld : (d.setQueue a q x).hostHeld = d.hostHeld := rfl
@[simp] theorem Dev.setQueue_xlt : (d.setQueue a q x).xlt = d.xlt := rfl
@[simp] theorem Dev.setQueue_clusterTlb : (d.setQueue a q x).clusterTlb = d.clusterTlb := rfl
@[simp] theorem Dev.setQueue_moverTlb : (d.setQueue a q x).moverTlb = d.moverTlb := rfl
@[simp] theorem Dev.setQueue_cachePos : (d.setQueue a q x).cachePos = d.cachePos := rfl
@[simp] theorem Dev.setQueue_inval : (d.setQueue a q x).inval = d.inval := rfl
@[simp] theorem Dev.setQueue_keys : (d.setQueue a q x).keys = d.keys := rfl
@[simp] theorem Dev.setQueue_kek : (d.setQueue a q x).kek = d.kek := rfl
@[simp] theorem Dev.setQueue_keyOp : (d.setQueue a q x).keyOp = d.keyOp := rfl
@[simp] theorem Dev.setQueue_ms : (d.setQueue a q x).ms = d.ms := rfl
@[simp] theorem Dev.setQueue_watch : (d.setQueue a q x).watch = d.watch := rfl
@[simp] theorem Dev.setQueue_signals : (d.setQueue a q x).signals = d.signals := rfl
@[simp] theorem Dev.setQueue_irqs : (d.setQueue a q x).irqs = d.irqs := rfl
@[simp] theorem Dev.setQueue_wlog : (d.setQueue a q x).wlog = d.wlog := rfl
@[simp] theorem Dev.setQueue_pst : (d.setQueue a q x).pst = d.pst := rfl
@[simp] theorem Dev.setQueue_movers : (d.setQueue a q x).movers = d.movers := rfl
@[simp] theorem Dev.setQueue_links : (d.setQueue a q x).links = d.links := rfl
@[simp] theorem Dev.setQueue_lowHalf : (d.setQueue a q x).lowHalf = d.lowHalf := rfl
@[simp] theorem Dev.setQueue_cvuStalled : (d.setQueue a q x).cvuStalled = d.cvuStalled := rfl
@[simp] theorem Dev.setQueue_cvuAborting : (d.setQueue a q x).cvuAborting = d.cvuAborting := rfl
@[simp] theorem Dev.setQueue_pwr : (d.setQueue a q x).pwr = d.pwr := rfl
@[simp] theorem Dev.setQueue_sys : (d.setQueue a q x).sys = d.sys := rfl

end

section
variable (d : Dev) (p : Nat) (x : PartState)

@[simp] theorem Dev.setPstate_regs : (d.setPstate p x).regs = d.regs := rfl
@[simp] theorem Dev.setPstate_time : (d.setPstate p x).time = d.time := rfl
@[simp] theorem Dev.setPstate_freeCtr : (d.setPstate p x).freeCtr = d.freeCtr := rfl
@[simp] theorem Dev.setPstate_errQ : (d.setPstate p x).errQ = d.errQ := rfl
@[simp] theorem Dev.setPstate_tag : (d.setPstate p x).tag = d.tag := rfl
@[simp] theorem Dev.setPstate_accum : (d.setPstate p x).accum = d.accum := rfl
@[simp] theorem Dev.setPstate_parts : (d.setPstate p x).parts = d.parts := rfl
@[simp] theorem Dev.setPstate_fmts : (d.setPstate p x).fmts = d.fmts := rfl
@[simp] theorem Dev.setPstate_mem : (d.setPstate p x).mem = d.mem := rfl
@[simp] theorem Dev.setPstate_poison : (d.setPstate p x).poison = d.poison := rfl
@[simp] theorem Dev.setPstate_upsets : (d.setPstate p x).upsets = d.upsets := rfl
@[simp] theorem Dev.setPstate_hostFail : (d.setPstate p x).hostFail = d.hostFail := rfl
@[simp] theorem Dev.setPstate_hostMarked : (d.setPstate p x).hostMarked = d.hostMarked := rfl
@[simp] theorem Dev.setPstate_hostReply : (d.setPstate p x).hostReply = d.hostReply := rfl
@[simp] theorem Dev.setPstate_chanShift : (d.setPstate p x).chanShift = d.chanShift := rfl
@[simp] theorem Dev.setPstate_ranks : (d.setPstate p x).ranks = d.ranks := rfl
@[simp] theorem Dev.setPstate_cores : (d.setPstate p x).cores = d.cores := rfl
@[simp] theorem Dev.setPstate_agents : (d.setPstate p x).agents = d.agents := rfl
@[simp] theorem Dev.setPstate_stores : (d.setPstate p x).stores = d.stores := rfl
@[simp] theorem Dev.setPstate_storeAsid : (d.setPstate p x).storeAsid = d.storeAsid := rfl
@[simp] theorem Dev.setPstate_homes : (d.setPstate p x).homes = d.homes := rfl
@[simp] theorem Dev.setPstate_vaults : (d.setPstate p x).vaults = d.vaults := rfl
@[simp] theorem Dev.setPstate_hostHeld : (d.setPstate p x).hostHeld = d.hostHeld := rfl
@[simp] theorem Dev.setPstate_xlt : (d.setPstate p x).xlt = d.xlt := rfl
@[simp] theorem Dev.setPstate_clusterTlb : (d.setPstate p x).clusterTlb = d.clusterTlb := rfl
@[simp] theorem Dev.setPstate_moverTlb : (d.setPstate p x).moverTlb = d.moverTlb := rfl
@[simp] theorem Dev.setPstate_cachePos : (d.setPstate p x).cachePos = d.cachePos := rfl
@[simp] theorem Dev.setPstate_inval : (d.setPstate p x).inval = d.inval := rfl
@[simp] theorem Dev.setPstate_keys : (d.setPstate p x).keys = d.keys := rfl
@[simp] theorem Dev.setPstate_kek : (d.setPstate p x).kek = d.kek := rfl
@[simp] theorem Dev.setPstate_keyOp : (d.setPstate p x).keyOp = d.keyOp := rfl
@[simp] theorem Dev.setPstate_ms : (d.setPstate p x).ms = d.ms := rfl
@[simp] theorem Dev.setPstate_watch : (d.setPstate p x).watch = d.watch := rfl
@[simp] theorem Dev.setPstate_signals : (d.setPstate p x).signals = d.signals := rfl
@[simp] theorem Dev.setPstate_irqs : (d.setPstate p x).irqs = d.irqs := rfl
@[simp] theorem Dev.setPstate_wlog : (d.setPstate p x).wlog = d.wlog := rfl
@[simp] theorem Dev.setPstate_qs : (d.setPstate p x).qs = d.qs := rfl
@[simp] theorem Dev.setPstate_movers : (d.setPstate p x).movers = d.movers := rfl
@[simp] theorem Dev.setPstate_links : (d.setPstate p x).links = d.links := rfl
@[simp] theorem Dev.setPstate_lowHalf : (d.setPstate p x).lowHalf = d.lowHalf := rfl
@[simp] theorem Dev.setPstate_cvuStalled : (d.setPstate p x).cvuStalled = d.cvuStalled := rfl
@[simp] theorem Dev.setPstate_cvuAborting : (d.setPstate p x).cvuAborting = d.cvuAborting := rfl
@[simp] theorem Dev.setPstate_pwr : (d.setPstate p x).pwr = d.pwr := rfl
@[simp] theorem Dev.setPstate_sys : (d.setPstate p x).sys = d.sys := rfl

end

section
variable (d : Dev) (k : Nat) (x : Link)

@[simp] theorem Dev.setLink_regs : (d.setLink k x).regs = d.regs := rfl
@[simp] theorem Dev.setLink_time : (d.setLink k x).time = d.time := rfl
@[simp] theorem Dev.setLink_freeCtr : (d.setLink k x).freeCtr = d.freeCtr := rfl
@[simp] theorem Dev.setLink_errQ : (d.setLink k x).errQ = d.errQ := rfl
@[simp] theorem Dev.setLink_tag : (d.setLink k x).tag = d.tag := rfl
@[simp] theorem Dev.setLink_accum : (d.setLink k x).accum = d.accum := rfl
@[simp] theorem Dev.setLink_parts : (d.setLink k x).parts = d.parts := rfl
@[simp] theorem Dev.setLink_fmts : (d.setLink k x).fmts = d.fmts := rfl
@[simp] theorem Dev.setLink_mem : (d.setLink k x).mem = d.mem := rfl
@[simp] theorem Dev.setLink_poison : (d.setLink k x).poison = d.poison := rfl
@[simp] theorem Dev.setLink_upsets : (d.setLink k x).upsets = d.upsets := rfl
@[simp] theorem Dev.setLink_hostFail : (d.setLink k x).hostFail = d.hostFail := rfl
@[simp] theorem Dev.setLink_hostMarked : (d.setLink k x).hostMarked = d.hostMarked := rfl
@[simp] theorem Dev.setLink_hostReply : (d.setLink k x).hostReply = d.hostReply := rfl
@[simp] theorem Dev.setLink_chanShift : (d.setLink k x).chanShift = d.chanShift := rfl
@[simp] theorem Dev.setLink_ranks : (d.setLink k x).ranks = d.ranks := rfl
@[simp] theorem Dev.setLink_cores : (d.setLink k x).cores = d.cores := rfl
@[simp] theorem Dev.setLink_agents : (d.setLink k x).agents = d.agents := rfl
@[simp] theorem Dev.setLink_stores : (d.setLink k x).stores = d.stores := rfl
@[simp] theorem Dev.setLink_storeAsid : (d.setLink k x).storeAsid = d.storeAsid := rfl
@[simp] theorem Dev.setLink_homes : (d.setLink k x).homes = d.homes := rfl
@[simp] theorem Dev.setLink_vaults : (d.setLink k x).vaults = d.vaults := rfl
@[simp] theorem Dev.setLink_hostHeld : (d.setLink k x).hostHeld = d.hostHeld := rfl
@[simp] theorem Dev.setLink_xlt : (d.setLink k x).xlt = d.xlt := rfl
@[simp] theorem Dev.setLink_clusterTlb : (d.setLink k x).clusterTlb = d.clusterTlb := rfl
@[simp] theorem Dev.setLink_moverTlb : (d.setLink k x).moverTlb = d.moverTlb := rfl
@[simp] theorem Dev.setLink_cachePos : (d.setLink k x).cachePos = d.cachePos := rfl
@[simp] theorem Dev.setLink_inval : (d.setLink k x).inval = d.inval := rfl
@[simp] theorem Dev.setLink_keys : (d.setLink k x).keys = d.keys := rfl
@[simp] theorem Dev.setLink_kek : (d.setLink k x).kek = d.kek := rfl
@[simp] theorem Dev.setLink_keyOp : (d.setLink k x).keyOp = d.keyOp := rfl
@[simp] theorem Dev.setLink_ms : (d.setLink k x).ms = d.ms := rfl
@[simp] theorem Dev.setLink_watch : (d.setLink k x).watch = d.watch := rfl
@[simp] theorem Dev.setLink_signals : (d.setLink k x).signals = d.signals := rfl
@[simp] theorem Dev.setLink_irqs : (d.setLink k x).irqs = d.irqs := rfl
@[simp] theorem Dev.setLink_wlog : (d.setLink k x).wlog = d.wlog := rfl
@[simp] theorem Dev.setLink_qs : (d.setLink k x).qs = d.qs := rfl
@[simp] theorem Dev.setLink_pst : (d.setLink k x).pst = d.pst := rfl
@[simp] theorem Dev.setLink_movers : (d.setLink k x).movers = d.movers := rfl
@[simp] theorem Dev.setLink_lowHalf : (d.setLink k x).lowHalf = d.lowHalf := rfl
@[simp] theorem Dev.setLink_cvuStalled : (d.setLink k x).cvuStalled = d.cvuStalled := rfl
@[simp] theorem Dev.setLink_cvuAborting : (d.setLink k x).cvuAborting = d.cvuAborting := rfl
@[simp] theorem Dev.setLink_pwr : (d.setLink k x).pwr = d.pwr := rfl
@[simp] theorem Dev.setLink_sys : (d.setLink k x).sys = d.sys := rfl

end

section
variable (d : Dev) (m : Nat) (x : Mover)

@[simp] theorem Dev.setMover_regs : (d.setMover m x).regs = d.regs := rfl
@[simp] theorem Dev.setMover_time : (d.setMover m x).time = d.time := rfl
@[simp] theorem Dev.setMover_freeCtr : (d.setMover m x).freeCtr = d.freeCtr := rfl
@[simp] theorem Dev.setMover_errQ : (d.setMover m x).errQ = d.errQ := rfl
@[simp] theorem Dev.setMover_tag : (d.setMover m x).tag = d.tag := rfl
@[simp] theorem Dev.setMover_accum : (d.setMover m x).accum = d.accum := rfl
@[simp] theorem Dev.setMover_parts : (d.setMover m x).parts = d.parts := rfl
@[simp] theorem Dev.setMover_fmts : (d.setMover m x).fmts = d.fmts := rfl
@[simp] theorem Dev.setMover_mem : (d.setMover m x).mem = d.mem := rfl
@[simp] theorem Dev.setMover_poison : (d.setMover m x).poison = d.poison := rfl
@[simp] theorem Dev.setMover_upsets : (d.setMover m x).upsets = d.upsets := rfl
@[simp] theorem Dev.setMover_hostFail : (d.setMover m x).hostFail = d.hostFail := rfl
@[simp] theorem Dev.setMover_hostMarked : (d.setMover m x).hostMarked = d.hostMarked := rfl
@[simp] theorem Dev.setMover_hostReply : (d.setMover m x).hostReply = d.hostReply := rfl
@[simp] theorem Dev.setMover_chanShift : (d.setMover m x).chanShift = d.chanShift := rfl
@[simp] theorem Dev.setMover_ranks : (d.setMover m x).ranks = d.ranks := rfl
@[simp] theorem Dev.setMover_cores : (d.setMover m x).cores = d.cores := rfl
@[simp] theorem Dev.setMover_agents : (d.setMover m x).agents = d.agents := rfl
@[simp] theorem Dev.setMover_stores : (d.setMover m x).stores = d.stores := rfl
@[simp] theorem Dev.setMover_storeAsid : (d.setMover m x).storeAsid = d.storeAsid := rfl
@[simp] theorem Dev.setMover_homes : (d.setMover m x).homes = d.homes := rfl
@[simp] theorem Dev.setMover_vaults : (d.setMover m x).vaults = d.vaults := rfl
@[simp] theorem Dev.setMover_hostHeld : (d.setMover m x).hostHeld = d.hostHeld := rfl
@[simp] theorem Dev.setMover_xlt : (d.setMover m x).xlt = d.xlt := rfl
@[simp] theorem Dev.setMover_clusterTlb : (d.setMover m x).clusterTlb = d.clusterTlb := rfl
@[simp] theorem Dev.setMover_moverTlb : (d.setMover m x).moverTlb = d.moverTlb := rfl
@[simp] theorem Dev.setMover_cachePos : (d.setMover m x).cachePos = d.cachePos := rfl
@[simp] theorem Dev.setMover_inval : (d.setMover m x).inval = d.inval := rfl
@[simp] theorem Dev.setMover_keys : (d.setMover m x).keys = d.keys := rfl
@[simp] theorem Dev.setMover_kek : (d.setMover m x).kek = d.kek := rfl
@[simp] theorem Dev.setMover_keyOp : (d.setMover m x).keyOp = d.keyOp := rfl
@[simp] theorem Dev.setMover_ms : (d.setMover m x).ms = d.ms := rfl
@[simp] theorem Dev.setMover_watch : (d.setMover m x).watch = d.watch := rfl
@[simp] theorem Dev.setMover_signals : (d.setMover m x).signals = d.signals := rfl
@[simp] theorem Dev.setMover_irqs : (d.setMover m x).irqs = d.irqs := rfl
@[simp] theorem Dev.setMover_wlog : (d.setMover m x).wlog = d.wlog := rfl
@[simp] theorem Dev.setMover_qs : (d.setMover m x).qs = d.qs := rfl
@[simp] theorem Dev.setMover_pst : (d.setMover m x).pst = d.pst := rfl
@[simp] theorem Dev.setMover_links : (d.setMover m x).links = d.links := rfl
@[simp] theorem Dev.setMover_lowHalf : (d.setMover m x).lowHalf = d.lowHalf := rfl
@[simp] theorem Dev.setMover_cvuStalled : (d.setMover m x).cvuStalled = d.cvuStalled := rfl
@[simp] theorem Dev.setMover_cvuAborting : (d.setMover m x).cvuAborting = d.cvuAborting := rfl
@[simp] theorem Dev.setMover_pwr : (d.setMover m x).pwr = d.pwr := rfl
@[simp] theorem Dev.setMover_sys : (d.setMover m x).sys = d.sys := rfl

end

section
variable (d : Dev) (p : Nat) (x : XltPart)

@[simp] theorem Dev.setXlt_regs : (d.setXlt p x).regs = d.regs := rfl
@[simp] theorem Dev.setXlt_time : (d.setXlt p x).time = d.time := rfl
@[simp] theorem Dev.setXlt_freeCtr : (d.setXlt p x).freeCtr = d.freeCtr := rfl
@[simp] theorem Dev.setXlt_errQ : (d.setXlt p x).errQ = d.errQ := rfl
@[simp] theorem Dev.setXlt_tag : (d.setXlt p x).tag = d.tag := rfl
@[simp] theorem Dev.setXlt_accum : (d.setXlt p x).accum = d.accum := rfl
@[simp] theorem Dev.setXlt_parts : (d.setXlt p x).parts = d.parts := rfl
@[simp] theorem Dev.setXlt_fmts : (d.setXlt p x).fmts = d.fmts := rfl
@[simp] theorem Dev.setXlt_mem : (d.setXlt p x).mem = d.mem := rfl
@[simp] theorem Dev.setXlt_poison : (d.setXlt p x).poison = d.poison := rfl
@[simp] theorem Dev.setXlt_upsets : (d.setXlt p x).upsets = d.upsets := rfl
@[simp] theorem Dev.setXlt_hostFail : (d.setXlt p x).hostFail = d.hostFail := rfl
@[simp] theorem Dev.setXlt_hostMarked : (d.setXlt p x).hostMarked = d.hostMarked := rfl
@[simp] theorem Dev.setXlt_hostReply : (d.setXlt p x).hostReply = d.hostReply := rfl
@[simp] theorem Dev.setXlt_chanShift : (d.setXlt p x).chanShift = d.chanShift := rfl
@[simp] theorem Dev.setXlt_ranks : (d.setXlt p x).ranks = d.ranks := rfl
@[simp] theorem Dev.setXlt_cores : (d.setXlt p x).cores = d.cores := rfl
@[simp] theorem Dev.setXlt_agents : (d.setXlt p x).agents = d.agents := rfl
@[simp] theorem Dev.setXlt_stores : (d.setXlt p x).stores = d.stores := rfl
@[simp] theorem Dev.setXlt_storeAsid : (d.setXlt p x).storeAsid = d.storeAsid := rfl
@[simp] theorem Dev.setXlt_homes : (d.setXlt p x).homes = d.homes := rfl
@[simp] theorem Dev.setXlt_vaults : (d.setXlt p x).vaults = d.vaults := rfl
@[simp] theorem Dev.setXlt_hostHeld : (d.setXlt p x).hostHeld = d.hostHeld := rfl
@[simp] theorem Dev.setXlt_clusterTlb : (d.setXlt p x).clusterTlb = d.clusterTlb := rfl
@[simp] theorem Dev.setXlt_moverTlb : (d.setXlt p x).moverTlb = d.moverTlb := rfl
@[simp] theorem Dev.setXlt_cachePos : (d.setXlt p x).cachePos = d.cachePos := rfl
@[simp] theorem Dev.setXlt_inval : (d.setXlt p x).inval = d.inval := rfl
@[simp] theorem Dev.setXlt_keys : (d.setXlt p x).keys = d.keys := rfl
@[simp] theorem Dev.setXlt_kek : (d.setXlt p x).kek = d.kek := rfl
@[simp] theorem Dev.setXlt_keyOp : (d.setXlt p x).keyOp = d.keyOp := rfl
@[simp] theorem Dev.setXlt_ms : (d.setXlt p x).ms = d.ms := rfl
@[simp] theorem Dev.setXlt_watch : (d.setXlt p x).watch = d.watch := rfl
@[simp] theorem Dev.setXlt_signals : (d.setXlt p x).signals = d.signals := rfl
@[simp] theorem Dev.setXlt_irqs : (d.setXlt p x).irqs = d.irqs := rfl
@[simp] theorem Dev.setXlt_wlog : (d.setXlt p x).wlog = d.wlog := rfl
@[simp] theorem Dev.setXlt_qs : (d.setXlt p x).qs = d.qs := rfl
@[simp] theorem Dev.setXlt_pst : (d.setXlt p x).pst = d.pst := rfl
@[simp] theorem Dev.setXlt_movers : (d.setXlt p x).movers = d.movers := rfl
@[simp] theorem Dev.setXlt_links : (d.setXlt p x).links = d.links := rfl
@[simp] theorem Dev.setXlt_lowHalf : (d.setXlt p x).lowHalf = d.lowHalf := rfl
@[simp] theorem Dev.setXlt_cvuStalled : (d.setXlt p x).cvuStalled = d.cvuStalled := rfl
@[simp] theorem Dev.setXlt_cvuAborting : (d.setXlt p x).cvuAborting = d.cvuAborting := rfl
@[simp] theorem Dev.setXlt_pwr : (d.setXlt p x).pwr = d.pwr := rfl
@[simp] theorem Dev.setXlt_sys : (d.setXlt p x).sys = d.sys := rfl

end

end Sys2Proof.Machine
end

