-- ==== Sys2Proof/Tests/Slice0.lean ====
section
/-! SUPPORT. The model's own tests: for each statement states and operands that meet its hypotheses, at the values where its
clauses meet; the spec's worked examples; one step of some commands; and for each check of WellFormed a command it refuses. A
verified route book or amendment and a wrapped key are not written out: the clauses that speak of one are the only ones without
a state of their own here. -/

namespace Sys2Proof.Tests

-- One theorem after the other: each would otherwise take a thread of its own.
set_option Elab.async false

open Sys2Proof Sys2Proof.Machine Sys2Proof.Spec

/-! ### Small states -/

/-- A running device: partition 0 holds quad 0, link 0 and 256 system milestones. -/
def devUp : Dev := ((({
  sys := { phase := .running, resetN := true, pgIn := true, pgHigh := true, coreEn := true }
  parts := [(0, { enabled := true, quads := 1, channels := 1, links := 1, msCount := 1, power := 500 })] } : Dev).setFld
    F.XLT_CTX_CTRL_enable 1 1).setFld F.DIR_L2_CONFIG_cluster_kib 0 512).setFld F.CVY_L1_CONFIG_local_kib 0 128
def up (d : Dev) : State := { State.reset with dev := d }
def wg0 : WG := {
  launch := { asid := 1, trapHandler := 0x2000, localBytes := 4096, tiles := 1, detourEntry := 0x3000 }
  coord := (0, 0, 0), count := 1, tiles := 1 }
/-- A convoy with all its lanes active. -/
def cv : Convoy := { wg := 0, index := 0, pc := 0x1000, active := BitVec.allOnes 64, live := BitVec.allOnes 64, vRegs := 128 }
/-- Core 0 with a convoy in slot 0. -/
def dv (v : Convoy) : Dev :=
  { devUp with cores := [(0, { convoys := [(0, v)], wgs := [(0, wg0)] })], storeAsid := [(0, 1)] }
def st (v : Convoy) : State := up (dv v)
/-- A word from its fields: lowest bit and value. -/
def wd (fs : List (Nat × Nat)) : BitVec 56 := BitVec.ofNat 56 (fs.foldl (fun a f => a + f.2 * 2 ^ f.1) 0)

/-- All the conditions of a list hold. -/
def all (l : List Bool) : Bool := l.all id

theorem test_witness_ready : (st cv).ready 0 0 cv = true ∧ (st cv).open_ = true ∧ (st cv).handles 0 cv = true := by decide +kernel

theorem test_witness_integer :
    (∀ r ∈ int2Rows, ∀ ty ∈ r.types, let x := iword r.op (wd [(44, 126), (37, 2), (30, 4), (14, ty)])
      cv.vForm x r.types 0 true true false (typeRegs (fType x)) = true) ∧
    (∀ r ∈ int1Rows, ∀ ty ∈ r.types, let x := iword r.op (wd [(44, 126), (37, 2), (14, ty)])
      cv.vForm x r.types 0 true false false (typeRegs (fType x)) = true) ∧
    (∀ r ∈ intImmRows, ∀ ty ∈ r.types, let x := iword r.op (wd [(44, 126), (37, 2), (33, ty), (0, 2 ^ 32 - 1)])
      cv.iForm x r.types true = true) := by decide +kernel

/-! ### Witnesses of the statements' hypotheses: vector, uniform and control instructions -/

/-- A device that describes formats 5 to 16. -/
def stFmt : State := up { (st cv).dev with fmts := List.replicate 17 { kind := 0 } }
/-- A convoy whose predicate 0 holds in lane 0 alone. -/
def cvP : Convoy := { cv with p := [(0, 1)] }

theorem test_witness_selectMoveAndInsert :
    cv.vForm (iword 0x14 (wd [(14, 1)])) [0, 1] 0 true true true 1 = true ∧
    cv.vForm (iword 0x23 (wd [(14, 1)])) [1] 0 true true true 1 = true ∧
    (∀ ty < 9, cv.vForm (iword 0x25 (wd [(14, ty), (23, 7)])) [0, 1, 2, 3, 4, 5, 6, 7, 8] (fbits 25 23) true true false
        (typeRegs (fType (iword 0x25 (wd [(14, ty), (23, 7)])))) = true ∧
      cv.vForm (iword 0x26 (wd [(14, ty), (30, 62)])) [0, 1, 2, 3, 4, 5, 6, 7, 8] 0 false true false
        (typeRegs (fType (iword 0x26 (wd [(14, ty)])))) = true ∧
      cv.iForm (iword 0x28 (wd [(33, ty), (0, 1)])) [0, 1, 2, 3, 4, 5, 6, 7, 8] false = true) := by decide +kernel

theorem test_witness_compare :
    (∀ ty < 4, cmpForm (iword 0x24 (wd [(14, ty), (7, 5)])) [0, 1, 2, 3] 0 = true) ∧
    (∀ ty ∈ [4, 5, 13, 14], cmpForm (iword 0x35 (wd [(14, ty), (7, 13), (12, 1), (11, 1)])) [4, 5, 13, 14]
      (fbits 12 12 ||| fbits 11 11) = true) := by decide +kernel

theorem test_witness_floatArithmetic :
    (∀ r ∈ fpRows, ∀ ty ∈ [4, 5, 6, 7], let x := iword r.op (wd [(14, ty), (18, if r.op ≤ 0x32 then 3 else 0), (12, if r.op = 0x37 then 0 else 1)])
      cv.vForm x [4, 5, 6, 7] r.used true r.useB r.useC (typeRegs (fType x)) = true ∧ (r.op ≤ 0x32 → fRnd x ≤ 3)) ∧
    ∀ ty ∈ [4, 5, 6, 7], cv.iForm (iword 0x38 (wd [(33, ty)])) [4, 5, 6, 7] true = true := by decide +kernel

theorem test_witness_specialFunctions :
    nan32 0x7f800001 ∧ (∀ r ∈ sfuRows, cv.vForm (iword r.1 (wd [(14, 4)])) [4] 0 true false false 1 = true) ∧
    cv.vForm (iword 0x52 (wd [(14, 4), (18, 3)])) [4] (fbits 20 18) true false false 1 = true ∧
    (∀ ty ∈ [4, 5], cv.vForm (iword 0x3a (wd [(14, ty), (18, 3)])) [4, 5] (fbits 20 18) true false false
        (typeRegs (fType (iword 0x3a (wd [(14, ty)])))) = true ∧
      cv.vForm (iword 0x36 (wd [(14, ty)])) [4, 5] 0 true false false 1 = true) ∧
    (∀ ty < 2, cv.vForm (iword 0x57 (wd [(44, 126), (14, ty)])) [0, 1] 0 true true false 2 = true) := by
  unfold nan32; decide +kernel

theorem test_witness_conversion :
    stFmt.ready 0 0 cv = true ∧
    (let x := iword 0x58 (wd [(14, 5), (0, 0), (18, 4)])
     onlyUses x (fbits 50 44 ||| fbits 43 37 ||| fbits 20 18 ||| fbits 17 14 ||| fbits 13 13 ||| fbits 3 0) = true ∧
     fType x ∈ [0, 1, 2, 3, 4, 5, 8, 9, 10, 11, 12, 13, 14] ∧ fType2 x ∈ [0, 1, 2, 3, 4, 5, 8, 9, 10, 11, 12, 13, 14] ∧
     fRnd x ≤ 4 ∧ groupReads (fVa x) 1 = true ∧ cv.groupWrites (fVd x) 2 = true) ∧
    (∀ rnd ∈ [4, 5], let x := iword 0x59 (wd [(32, 15), (18, rnd), (23, if rnd = 5 then 1 else 0)])
     onlyUses x (fbits 50 44 ||| fbits 43 37 ||| fbits 36 32 ||| fbits 20 18 ||| fbits 13 13 ||| fbits 11 11 |||
      (if fRnd x = 5 then fbits 29 23 ||| fbits 9 4 else 0)) = true ∧ fRnd x ≤ 5 ∧ (stFmt.dev.fmtDesc (fFmt x)).used = true ∧
     cvtnOk (fFmt x) = true ∧ cv.groupWrites (fVd x) 1 = true) ∧
    (let x := iword 0x5a (wd [(32, 16)])
     onlyUses x (fbits 50 44 ||| fbits 43 37 ||| fbits 36 32) = true ∧ (stFmt.dev.fmtDesc (fFmt x)).used = true ∧
     cvtwOk (fFmt x) = true ∧ cv.groupWrites (fVd x) 1 = true) := by decide +kernel

theorem test_witness_laneCrossing :
    (∀ m < 4, let x := iword 0x60 (wd [(7, m), (21, 1), (30, 63)])
      onlyUses x (fbits 50 44 ||| fbits 43 37 ||| fbits 36 30 ||| fbits 22 21 ||| fbits 8 7) = true ∧ bselOk x = true ∧
      cv.groupWrites (fVd x) 1 = true) ∧
    onlyUses (iword 0x63 (wd [(31, 255)])) (fbits 50 31) = true ∧ onlyUses (iword 0x64 (wd [(45, 63)])) (fbits 50 45) = true ∧
    onlyUses (iword 0x66 (wd [(25, 63)])) (fbits 47 45 ||| fbits 30 25) = true ∧
    (∀ g < 2, let x := iword 0x61 (wd [(44, 63), (0, 63), (55, g)])
      onlyUses x (fbits 49 44 ||| fbits 43 37 ||| fbits 5 0) = true ∧ (cv.effective x = 0 ↔ g = 1)) := by decide +kernel

theorem test_witness_specialAndUniform :
    (let x := iword 0x67 (wd [(0, 0x16)])
     onlyUses x (fbits 50 44 ||| fbits 7 0) = true ∧ bits x 7 0 ≤ 0x16 ∧ cv.groupWrites (fVd x) 1 = true) ∧
    (let x := iword 0x68 (wd [(0, 0x16)])
     noGuard x = true ∧ onlyUses x (fbits 50 45 ||| fbits 7 0) = true ∧ bits x 7 0 ≤ 0x16 ∧ bits x 7 0 ∉ [0, 2, 3, 4]) ∧
    (∀ r ∈ uniRows, ∀ i < 2, let x := iword r.1 (wd [(38, i), (0, i * (2 ^ 32 - 1)), (32, (1 - i) * 63)])
      noGuard x = true ∧ (fIsel x = true → fUb x = 0)) ∧
    (∀ op ∈ [0x79, 0x7a], let x := iword op (wd [(45, 63), (38, 1), (0, 7)])
      noGuard x = true ∧ fIsel x = true ∧ fUa x = 0 ∧ fUb x = 0) := by decide +kernel

theorem test_witness_branches :
    noGuard (iword 0x80 0) = true ∧ onlyUses (iword 0x80 0) 0 = true ∧
    (∀ g < 2, let x := iword 0x81 (wd [(21, 2 ^ 20 - 1), (55, g)])
      onlyUses x (fbits 40 21) = true ∧ (if g = 0 then bitAt x 55 = false else bitAt x 55 = true ∧ cv.effective x = 0 ∧ cv.active ≠ 0)) ∧
    (∀ op ∈ [0x82, 0x85], let x := iword op (wd [(41, 63)]); noGuard x = true ∧ onlyUses x (fbits 46 41) = true ∧ cv.ur (fBUa x) % 8 = 0) ∧
    (let x := iword 0x83 (wd [(41, 63), (21, 1)]); noGuard x = true ∧ onlyUses x (fbits 40 21 ||| fbits 46 41) = true) ∧
    (let x := iword 0x84 (wd [(41, 63), (35, 62)])
     noGuard x = true ∧ onlyUses x (fbits 40 35 ||| fbits 46 41) = true ∧ cv.ur (fBUa x) % 8 = 0) ∧
    (let x := iword 0x92 (wd [(35, 0xffff), (27, 0xff)])
     noGuard x = true ∧ onlyUses x (fbits 50 27) = true ∧ (st { cv with preempt := true }).ready 0 0 { cv with preempt := true } = true) := by
  decide +kernel

theorem test_witness_traps :
    (noGuard (iword 0x8f (wd [(21, 63)])) = true ∧ onlyUses (iword 0x8f (wd [(21, 63)])) (fbits 26 21) = true) ∧
    noGuard (iword 0x91 0) = true ∧ opcodeListed 0xff = false ∧
    (let v : Convoy := { cv with inHandler := true, handlerMask := 1 }; let x := iword 0x90 0
     (st v).ready 0 0 v = true ∧ noGuard x = true ∧ onlyUses x (fbits 46 41) = true ∧ v.ur (fBUa x) % 8 = 0 ∧
     v.handlerMask &&& v.live &&& ~~~v.parked ≠ 0) ∧
    (let x := iword 0x81 (wd [(55, 1)])
     (st cvP).ready 0 0 cvP = true ∧ (st cvP).handles 0 cvP = true ∧ onlyUses x (fbits 40 21) = true ∧ bitAt x 55 = true ∧
     cvP.effective x ≠ cvP.active ∧ cvP.effective x ≠ 0) ∧
    noGuard (iword 0x80 (wd [(51, 1)])) = false ∧ onlyUses (iword 0x80 1) 0 = false ∧ fType (iword 0x10 (wd [(14, 4)])) ∉ [0, 1, 2, 3] := by
  decide +kernel

/-- A convoy inside a construct whose junction is at its pc. -/
def cvJ (rejoin : Bool) : Convoy :=
  { cv with active := 1, stack := [{ mask := 6, path := 0x1800, junction := 0x1000, rejoin := rejoin, path0 := 1 }] }

theorem test_witness_maskStack :
    (∀ v ∈ [cvP, { cvP with stack := List.replicate 31 ⟨1, 0, 0, false, 1⟩ }], (st v).ready 0 0 v = true ∧
      (∀ y ∈ [(0, 0), (1, 7), (0, 7)], let x := iword 0x86 (wd [(47, y.1), (48, y.2), (21, 2), (1, 4)])
        noGuard x = true ∧ onlyUses x (fbits 50 47 ||| fbits 40 1) = true ∧
        (let t := v.active &&& v.splitPred x; let m := v.active &&& ~~~v.splitPred x
         if y = (1, 7) then m = 0 else m ≠ 0 ∧ if y = (0, 7) then t = 0 else t ≠ 0 ∧ v.stack.length < 32)) ∧
      (let x := iword 0x88 (wd [(1, 1)]); noGuard x = true ∧ onlyUses x (fbits 20 1) = true) ∧
      (let x := iword 0x89 0; noGuard x = true ∧ onlyUses x (fbits 50 47) = true ∧ v.active &&& ~~~v.splitPred x ≠ 0) ∧
      (let x := iword 0x8a (wd [(55, 1)]); let e := v.effective x
       onlyUses x 0 = true ∧ v.active &&& ~~~e ≠ 0 ∧ v.live &&& ~~~e ≠ 0)) ∧
    (∀ b ∈ [false, true], let v := cvJ b; (st v).ready 0 0 v = true ∧ ∀ e ∈ v.stack, e.junction = v.pc ∧
      (if b then e.mask &&& v.parked = 0 ∧ e.junction.toNat % 8 = 0 ∧ e.mask &&& v.live ≠ 0
       else e.path.toNat % 8 = 0 ∧ e.mask &&& v.live &&& ~~~v.parked ≠ 0)) := by decide +kernel

/-! ### Memory, milestone and matrix instructions -/

/-- The base register of most memory words, U0. -/
def cvU (a : Nat) : Convoy := { cv with u := [(0, BitVec.ofNat 64 a)] }

theorem test_witness_memoryIssue :
    (st cv).dev.roomOutstanding 0 0 = true ∧ ∀ r ∈ memRows, r.2.2.2.1 0 (iword r.1 0) (dv cv) cv = true := by decide +kernel

theorem test_witness_storeSpace :
    ([(1, 4096 - 32), (2, 512 * 1024 - 32)].all fun z =>
      let y := wd [(27, z.1), (24, 5)]; let x := iword 0xa0 y; let w := iword 0xa1 y; let v := cvU z.2
      all [(st v).ready 0 0 v, (dv v).mEligible 0 v x false, formMOk x, v.groupWrites (fVd x) (sizeRegs x),
        (dv v).mEligible 0 v w true, formMOk w, !fSext w, groupReads (fVd w) (sizeRegs w),
        spaceOk (dv v) 0 v x z.1 32 fun l => v.laneAddr x 0 l]) = true := by
  decide +kernel

/-- A device whose core 0 holds the translation of page 5 of context 1 to line 0 of vault 0, writable. -/
def dvT (v : Convoy) : Dev :=
  { dv v with cores := [(0, { convoys := [(0, v)], wgs := [(0, wg0)], tlb := [(0, ⟨1, 5, 12, 5, 0⟩)] })] }

theorem test_witness_globalSpace :
    ([(5, false), (5, true), (6, false)].all fun r =>
      let v := cvU (r.1 * 4096); let x := iword 0xa0 (wd [(24, 2)]); let y := iword 0xa1 (wd [(24, 2)])
      let d : Dev := { dvT v with poison := if r.2 then [0] else [] }
      let d0 := (d.issued 0 0 v v).takeEntry 0
      all [(up d).ready 0 0 v, d.mEligible 0 v x false, d.mEligible 0 v y true, formMOk x, fSpace x = 0,
        formMOk y, !fSext y, fSpace y = 0, v.groupWrites (fVd x) (sizeRegs x), ((v.mLanes x).all fun a => a.2 % sizeBytes x = 0),
        (match d0.translateAll (d0.convoyReq 0 0 v) [] ((v.mLanes x).map (·.2)) ⟨false, false, false⟩ with
          | (d1, .ok ps) =>
            let rs := d1.globalRead 0 (fHint x) (sizeBytes x) (((v.mLanes x).zip ps).map fun a => (a.1.2, a.2))
            r.1 = 5 && if r.2 then poisonLanes (v.mLanes x) rs.2 != 0 else rs.2.all fun z => !z.2
          | (_, .error _) => r.1 = 6),
        (match d0.translateAll (d0.convoyReq 0 0 v) [] ((v.mLanes y).map (·.2)) ⟨true, false, false⟩ with
          | (_, .ok _) => r.1 = 5 | (_, .error _) => r.1 = 6)]) = true := by decide +kernel

theorem test_witness_prefetch :
    ([0, 1].all fun sp => let x := iword 0xa3 (wd [(27, sp), (24, 2)])
      all [(dv cv).mEligible 0 cv x false, formMOk x, !fSext x, fVd x = 0, fSpace x = sp]) = true := by decide +kernel

theorem test_witness_atomics :
    (atomRows.all fun r => r.types.all fun ty => [1, 2].all fun sp =>
      let v := cvU 64
      let x := iword r.op (wd [(27, sp), (22, typeRegs ty - 1), (7, 1), (0, ty), (44, 126), (15, 2), (8, if r.useC then 4 else 0)])
      let g := typeRegs (fAType x)
      all [atomReady (st v) 0 0 v x (fbits 21 15 ||| (if r.useC then fbits 14 8 else 0) ||| fbits 50 44) true, fRet x,
        r.types.contains (fAType x), fAsize x + 1 = g, groupReads (fVs x) g, groupReads (fAVc x) g,
        v.groupWrites (fVd x) g]) = true := by decide +kernel

theorem test_witness_cellsAndReservations :
    ([cvU 64, { cvU 64 with resv := [(0, storeLine 0 64), (1, storeLine 0 64)] }].all fun v => all [
      ([4, 13, 14].all fun ty => let x := iword 0xb9 (wd [(27, 2), (22, 2), (0, ty), (15, 1)])
        all [atomReady (st v) 0 0 v x (fbits 21 15) true, fAType x = ty, fAsize x = 2, fSpace x = 2, !fRet x]),
      ([4, 5].all fun ty => let x := iword 0xba (wd [(27, 2), (22, 2), (0, ty), (7, 1), (44, 2)])
        all [atomReady (st v) 0 0 v x (fbits 50 44) false, fAType x = ty, fAsize x = 2, fSpace x = 2, fRet x,
          v.groupWrites (fVd x) (typeRegs ty)]),
      (let x := iword 0xbb (wd [(27, 2), (22, 2)])
       all [atomReady (st v) 0 0 v x 0 true, fAType x = 0, fAsize x = 2, fSpace x = 2, !fRet x]),
      ([0, 5, 14].all fun ty => let x := iword 0xc0 (wd [(27, 2), (22, typeRegs ty - 1), (0, ty), (44, 2)])
        all [atomReady (st v) 0 0 v x (fbits 50 44) false, !bitAt x 7, asizeBytes x = max 4 (typeWidth ty / 8),
          v.groupWrites (fVd x) (fAsize x + 1)]),
      ([0, 5, 14].all fun ty => let x := iword 0xc1 (wd [(27, 2), (22, typeRegs ty - 1), (0, ty), (15, 2), (8, 7)])
        all [atomReady (st v) 0 0 v x (fbits 21 15 ||| fbits 10 8) true, !bitAt x 7, asizeBytes x = max 4 (typeWidth ty / 8),
          groupReads (fVs x) (fAsize x + 1)])]) = true := by decide +kernel

/-- Core 0 with a second convoy of the workgroup, in slot 1. -/
def dv2 (v w : Convoy) : Dev :=
  { devUp with cores := [(0, { convoys := [(0, v), (1, w)], wgs := [(0, { wg0 with count := 2 })] })], storeAsid := [(0, 1)] }

theorem test_witness_barriers :
    ([false, true].all fun fence =>
      [cv, { cv with index := 1, parked := 1, live := 1, active := 0, state := .arrived, barIdx := 7 }].all fun w =>
      let d := dv2 cv w; let x := iword (if fence then 0x8e else 0x8d) (wd [(48, 7)])
      all [(up d).ready 0 0 cv, noGuard x, onlyUses x (fbits 50 48), cv.active != 0, cv.parked ||| cv.active = cv.live,
        d.wg? 0 cv.wg = some { wg0 with count := 2 }, !bitAt (d.reg .DBG_TRACE_CTRL 0) 63, rising (d.core 0).convoys,
        d.signals = [], (d.core 0).l1.combining = [],
        if w.state = .arrived then (otherConvoys d 0 0 cv.wg).all fun o => o.2.arrivedAt 7 && o.2.state == .arrived
        else (otherConvoys d 0 0 cv.wg).any fun o => !o.2.arrivedAt 7]) = true := by decide +kernel

theorem test_witness_fence :
    ((List.range 4).all fun k => [0, 4].all fun sc => let x := iword 0xc4 (wd [(48, sc), (45, k)])
      all [noGuard x, onlyUses x (fbits 50 45), bits x 50 48 = sc, bits x 47 45 = k]) = true := by decide +kernel

theorem test_witness_milestoneInstructions :
    all [(dv cv).msUsable 0 0, !(dv cv).msUsable 0 (2 ^ 64 - 1),
      ([0xc8, 0xc9, 0xca, 0xcb].all fun op => let x := iword op (wd [(39, 0), (33, 63)]); noGuard x && onlyUses x (fbits 44 33)),
      (let x := iword 0xcc (wd [(45, 63), (39, 0)]); noGuard x && onlyUses x (fbits 50 39)),
      ((List.range 3).all fun sp => let x := iword 0xa2 (wd [(45, 0), (42, sp)])
        all [noGuard x, onlyUses x (fbits 50 45 ||| fbits 44 42), bits x 44 42 ≤ 2, (cvU 128).ur (bits x 50 45) % 128 = 0])] = true := by
  decide +kernel

/-- A device whose core 0 has bytes at the start of its local store. -/
def dvL (v : Convoy) (bs : List Byte) : Dev :=
  { dv v with cores := [(0, { convoys := [(0, v)], wgs := [(0, wg0)], localMem := bs.zipIdx.map fun b => (b.2, b.1) })] }

theorem test_witness_jspill :
    (let v : Convoy := { cvU (4096 - 64) with stack := [⟨1, 2, 3, true, 1⟩] }; let x := iword 0x8b (wd [(48, 1)]); let a := v.stackAddr x
     all [(st v).ready 0 0 v, stackForm x, fPp x = 1, a % 32 = 0, a + 32 * (v.stack.length + 1) ≤ (dv v).spaceSize 0 v 1,
       (dv v).rangeFree 0 v 1 (lineSpan [a] (32 + 32 * v.stack.length)) true]) = true := by decide +kernel

/-- The conditions of a JFILL from the first bytes of the local store, for an image of `n` entries of zeros. -/
def fillMeets (n : Nat) : Bool :=
  let v := cvU 0
  let x := iword 0x8c (wd [(48, 1)])
  let bs := stackBytes (List.replicate n ⟨0, 0, 0, false, 0⟩)
  let d := dvL v [BitVec.ofNat 8 n]
  all [(up d).ready 0 0 v, (up d).handles 0 v, stackForm x, fPp x = 1, v.stackAddr x % 32 = 0,
    d.rangeFree 0 v 1 (lineSpan [v.stackAddr x] 1056) false, spaceBytes d 0 v 1 0 bs.length == bs]

theorem test_witness_jfill : fillMeets 0 = true ∧ fillMeets 32 = true ∧ fillMeets 33 = true := by decide +kernel

/-- Core 0 with an array and with the first lines of vault 0 in its L1, formats described. -/
def dvA (v : Convoy) (a : ArrayState) : Dev :=
  { dv v with
    fmts := List.replicate 17 { kind := 0 }
    cores := [(0, { convoys := [(0, v)], wgs := [(0, wg0)], arr := a, tlb := [(0, ⟨1, 5, 12, 5, 0⟩)],
                     l1 := { lines := (List.range 8).map fun l => (l, ⟨0, 0, fullMask, 0, 0, 0, false⟩) } })] }

theorem test_witness_stage :
    ([(1, 4096 - 1024), (2, 0), (0, 5 * 4096)].all fun z =>
      let v := cvU z.2; let x := iword 0xd0 (wd [(45, 0), (42, z.1), (37, 5)])
      let d := dvA v {}
      all [(up d).ready 0 0 v, d.stageEligible 0 v x, noGuard x, onlyUses x (fbits 50 35 ||| fbits 19 0), bits x 44 42 = z.1,
        d.stageOk 5 false false, v.stageAddr x % 64 = 0,
        if z.1 = 0 then
          let vas := pieces (v.stageAddr x) 1024
          match (d.issued 0 0 v v).translateAll ((d.issued 0 0 v v).convoyReq 0 0 v) [] (vas.map (·.1)) ⟨false, false, false⟩ with
          | (d1, .ok ps) => !(d1.blockRead 0 (vas.zip ps)).2.2
          | (_, .error _) => false
        else v.stageAddr x + imageBytes 5 false false ≤ d.spaceSize 0 v z.1]) = true := by decide +kernel

/-- A buffer filled with zeros of format 5, and an MMA in flight on physical tile 0 with it. -/
def buf5 : StatBuf := { filled := true, fmt := 5 }
def mma0 : MmaRec := {
  slot := 0, wg := 0, pc := 0x1000, word := 0, eff := BitVec.allOnes 64, tile := 0, a := List.replicate 64 0, aScales := [],
  buf := buf5, usedBack := false, ckRow := false, old := [], launch := wg0.launch, mayDivert := false }

theorem test_witness_mma :
    ([false, true].all fun swap =>
      let x := iword 0xd1 (wd [(36, 5), (31, 5), (30, if swap then 1 else 0)])
      let d := dvA cv (if swap then { back := buf5, stagedSinceSwap := true } else { front := buf5 })
      all [(up d).ready 0 0 cv, d.mmaEligible 0 cv x, mmaForm x, (d.mmaCauses 0 cv x).all fun c => c.2 == 0,
        (d.convoyWg 0 cv).tile (bits x 50 48) = some 0]) = true := by decide +kernel

theorem test_witness_mmaCompletion :
    all [(up (dvA cv { stage := some buf5 })).live, coreOk 0, ((dvA cv { inflight := [mma0] }).injection 0).isEmpty,
      (let d := dvA cv { inflight := [mma0] }; let good := d.products mma0; let dist := [(63, 31, 30)]
       disturbOk dist && !(badRows good (disturb good dist) dist).isEmpty),
      decide (rising mma0.old), !bitAt ((dvA cv {}).reg .DBG_TRACE_CTRL 0) 63] = true := by decide +kernel

theorem test_witness_tileAccess :
    all [(dvA cv {}).tileFree 0 0, ((dvA cv {}).convoyWg 0 cv).tile 0 = some 0,
      (let x := iword 0xd4 (wd [(44, 96), (36, 0), (31, 31)])
       onlyUses x (fbits 50 31) && bits x 40 36 + bits x 35 31 + 1 ≤ 32 && bits x 50 44 + bits x 35 31 + 1 ≤ min 128 cv.vRegs),
      !bitAt ((dvA cv {}).arr 0 |>.stat 0) 0, bitAt ((dvA cv { status := [(0, 1)] }).arr 0 |>.stat 0) 0,
      (up (dvA cv { status := [(0, 1)] })).handles 0 cv, onlyUses (iword 0xd6 0) (fbits 43 41),
      onlyUses (iword 0xd7 (wd [(25, 63)])) (fbits 43 41 ||| fbits 30 25),
      (let z : Diversion := { pc := 0x1000, tile := 7, old := [], rows := 1 }; let v : Convoy := { cv with divert := some z }
       let d := dvA v {}
       (up d).live && convoyOk 0 0 && (d.convoy? 0 0 == some v) && decide (rising z.old))] = true := by decide +kernel

/-! ### Workgroups and the debugger -/

theorem test_witness_debugger :
    windowReady (st cv) 0 ∧
    (∀ v ∈ [cv, { cv with state := .halted }, { cv with state := .haltedOnTrap }], windowReady (st v) 0 ∧ (dv v).convoy? 0 0 = some v ∧
      (v.state = .halted → v.masksOk = true ∧ v.resume = .running ∧ v.parked = 0)) ∧
    (let v : Convoy := { cv with haltReq := true }; (st v).live = true ∧ (dv v).inFlight 0 0 = false) ∧
    (cv.readSel 0).isSome = true ∧ ((1 : Word) &&& ~~~cv.live = 0) ∧
    ((1 : Word) &&& ~~~({ cv with live := 2 } : Convoy).live ≠ 0) := by decide +kernel

theorem test_witness_barRelease :
    (let w : Convoy := { cv with index := 1, parked := 1, active := 0, state := .arrived, barIdx := 7 }; let d := dv2 cv w
     windowReady (up d) 0 ∧ d.wg? 0 0 = some { wg0 with count := 2 } ∧ bitAt (d.reg .DBG_TRACE_CTRL 0) 63 = false ∧
     ∃ x ∈ d.wgConvoys 0 0, x.2.parked ≠ 0 ∧ x.2.barIdx = 7) := by decide +kernel

/-- A launch of one chunk queued on cluster 0. -/
def launch0 : Launch :=
  { info := { asid := 1, wg := (64, 1, 1), localBytes := 256, tiles := 1 }, total := 1, chunkSize := 1, queues := [(0, [{ no := 0 }])] }
def dvPl : Dev := ({ devUp with pst := [(0, { launches := [launch0] })] }.setFld F.PRT_STATUS_holder 0 1 |>.setFld F.PRT_STATUS_holder_valid 0 1).setFld F.PRT_STATUS_phase 0 1

theorem test_witness_placement :
    all [(up dvPl).live, coreOk 0, dvPl.clusterPart 0 = some 0, dvPl.nextLaunch 0 0 = some launch0,
      launch0.queueOf 0 = [{ no := 0 }], dvPl.coreFits 0 launch0.info, !bitAt (dvPl.reg .DBG_TRACE_CTRL 0) 63,
      dvPl.wg? 0 15 = none] = true := by decide +kernel

/-! ### Movers, check-value units and vaults -/

/-- A descriptor from its fields: byte offset and value. -/
def mvd (fs : List (Nat × Nat)) : LineData := BitVec.ofNat 1024 (fs.foldl (fun a f => a + f.2 * 2 ^ (8 * f.1)) 0)
/-- One F32 element in LOCAL, from byte 256 to byte 512, by operation `op`. -/
def mvd1 (op : Nat) (more : List (Nat × Nat)) : LineData :=
  mvd ([(0, op), (1, 1), (2, 1), (6, 0x200 + 0x55), (8, 256), (0x10, 512), (0x18, 1), (0x1c, 1), (0x20, 1), (0x24, 1), (0x48, 768)] ++ more)
def mctx : DescCtx := { part := 0, asid := 1, queue := 0, seq := 0, ctxTag := 0, layer := 0, op := 0, localBytes := 4096 }
/-- Mover 0 with an offer made and an accepted descriptor, whose bytes lie at the start of the local store. -/
def dvMv (raw : LineData) (y : Desc) (rest : List Desc) : Dev :=
  let bs : List (Nat × Byte) := ((List.range 128).map fun i => (i, raw.extractLsb' (8 * i) 8)).filter fun b => b.2 != 0
  { devUp with
    fmts := List.replicate 17 { kind := 0 }
    cores := [(0, { convoys := [(0, cv)], wgs := [(0, wg0)], localMem := bs })], storeAsid := [(0, 1)]
    movers := [(0, { offers := [{ id := 7, issuer := .convoy 0 0 0, ctx := mctx, addr := 0, space := 1 }], descs := y :: rest })] }
def desc (raw : LineData) : Desc := { id := 3, issuer := .convoy 0 0 0, ctx := mctx, raw := raw }

/-- What the conditions of an offer's acceptance come to: read, clear and with room, and its refusal. -/
def offerMeets (raw : LineData) (cause : Option Nat) : Bool :=
  let d := dvMv raw (desc 0) []
  let d0 : Dev := { d with tag := some mctx.tag }
  match (d.mover 0).offers.find? (fun y => y.id == 7) with
  | none => false
  | some o => all [(up d).live, o.id == 7, !o.stalled, decide ((d.mover 0).queued < moverDepth 0), d0.offerFirst 0 o, !d0.offerBeyond 0 o,
      match d0.readOffer 0 o with
      | (_, none) => false
      | (d1, some (x, bad)) => !bad && x == raw && d1.refusal 0 o.ctx x.toNat == cause &&
          (cause.isSome || d1.rangesFree o.issuer (d1.rangesOf o.ctx 7 x.toNat))]

theorem test_witness_offers : offerMeets (mvd1 5 []) none = true ∧ offerMeets (mvd1 6 []) (some 1) = true ∧
    offerMeets (mvd1 0 [(0x11, 0xe)]) (some 8) = true ∧ offerMeets (mvd1 0 [(0x70, 2 ^ 63)]) (some 9) = true := by decide +kernel

theorem test_witness_completion :
    (let y : Desc := { desc (mvd1 0 []) with written := true, started := true }
     let d := dvMv 0 y []
     let d0 : Dev := { d with tag := some y.ctx.tag }
     all [(up d).live, (d.mover 0).descs.find? (fun z => z.id == 3) == some y, (d0.writeRecord 0 y).2,
       mMsEn y.raw.toNat, !bitAt ((d0.writeRecord 0 y).1.reg .DBG_TRACE_CTRL 0) 63]) = true := by decide +kernel

/-- An operation's inputs and places are there, or a page of them is not. -/
def moveMeets (op : Nat) (more : List (Nat × Nat)) (there : Bool) : Bool :=
  let y := desc (mvd1 op more)
  let d := dvMv 0 y []
  let d0 : Dev := { d with tag := some y.ctx.tag }
  let r := y.raw.toNat
  all [(up d).live, (d.mover 0).mayRun 0 y, mOp r == op,
    match d0.movInputs 0 y y.got with
    | (_, _, none) => !there
    | (d1, got, some i) => there && (d1.mapOuts (y.ctx.req 0 3) got (outPlaces r (d1.movOuts r i).1) []).2.2.isSome]

/-- The window word of a kernel of 1 × 1. -/
def win1 : List (Nat × Nat) := [(0x58, 0x11111100), (0x40, 1), (0x44, 1)]
theorem test_witness_moves :
    (moveMeets 0 [] true && moveMeets 1 [] true && moveMeets 3 [(0x58, 1)] true && moveMeets 4 [(0x58, 1)] true && moveMeets 5 [] true &&
      (moveMeets 2 win1 true)) = true := by decide +kernel

theorem test_witness_stalledMove :
    (let y := desc (mvd [(0, 0), (1, 1), (2, 1), (8, 256), (0x10, 512), (0x18, 1), (0x1c, 1), (0x20, 1), (0x24, 1)])
     let d := dvMv 0 y []
     all [(up d).live, (d.mover 0).mayRun 0 y, ((Dev.movInputs { d with tag := some y.ctx.tag } 0 y []).2.2).isNone,
       windowOrigin (mvd1 2 win1).toNat (0, 0, 0, 0) == .src (0, 0, 0, 0)]) = true ∧
    coordIn (mDstSizes (mvd1 2 win1).toNat) (0, 0, 0, 0) := by
  unfold coordIn; decide +kernel

/-- Unit 0 in a state, with a length left, its addresses physical. -/
def dvCvu (state len : Nat) : Dev :=
  ((devUp.setFld F.MOV_CVU_STATUS_state 0 state).setFld F.MOV_CVU_LENGTH_length 0 len).setFld F.MOV_CVU_CTRL_phys 0 1

theorem test_witness_scans :
    ([0, 1, 2, 3, 4, 5, 6].all fun st => (up (dvCvu st 1)).open_ && (dvCvu st 1).cvuState 0 == st && (dvCvu st 1).cvuStalled.isEmpty) = true ∧
    (let d := dvCvu 2 256; let e := d.cvuScan 0 1
     e.cvuState 0 = 2 ∧ e.fld F.MOV_CVU_LENGTH_length 0 = 128) ∧
    (let d := dvCvu 1 1; let e := d.cvuScan 0 (d.cvuAll 0)
     e.cvuState 0 = 1 ∧ e.fld F.MOV_CVU_LENGTH_length 0 = 0 ∧ (d.cvuFold 0).2 = .folded) ∧
    (let d : Dev := { dvCvu 1 1 with poison := [0] }; (d.cvuScan 0 (d.cvuAll 0)).cvuState 0 = 5) := by decide +kernel

/-- Vault 0 active, with errors standing on line 5. -/
def dvVlt (ups : List (Nat × Nat)) : Dev := { devUp.setFld F.VLT_STATUS_state 0 2 with upsets := [(5, ups)] }

theorem test_witness_vaults :
    (up (dvVlt [])).live = true ∧ (dvVlt []).vaultAwake 0 = true ∧ devUp.vaultAwake 0 = false ∧ (dvVlt []).flag F.VLT_INJECT_arm 0 = false ∧
    upsetsOk [(2 ^ 23 - 1, 71, 0xffff)] = true ∧ combineErrs [(3, 1), (70, 2)] [] = [(3, 1), (70, 2)] ∧
    (dvVlt [(3, 1), (70, 2)]).upsets.getD 5 [] = [(3, 1), (70, 2)] := by decide +kernel

/-! ### Homes and caches -/

/-- A line of agent 5 or 6, and a directory entry, a transaction and the copies held, for line `l` of vault 0. -/
def ln (st_ : LineSt) : L2Line := { way := 0, st := st_, data := 0, age := 1, key := 0, poison := false }
def dvHome (l : Nat) (e : Option DirEntry) (t : Option HomeTxn) (copies : List (Nat × LineSt)) : Dev :=
  { devUp with
    homes := [(lineHome l, { entries := (match e with | some y => [(l, y)] | none => []), txns := (match t with | some y => [(l, y)] | none => []) })]
    agents := copies.map fun c => (c.1, { lines := [(l, ln c.2)] }) }
def owned (a : Nat) : DirEntry := { st := .X, owner := some a }
def shared (l : List Nat) : DirEntry := { st := .S, sharers := l }

/-- The home of line `l` is free for agent `a`. -/
def freeHome (d : Dev) (a l : Nat) : Bool :=
  all [(up d).live, d.homed l, d.txn l == none, (d.home (lineHome l)).queue.isEmpty, (d.agent a).victim.find? l == none, !d.hostHolds l]

/-- Line 0 and the last of the advertised vaults, and the first of the capacity tier. -/
def someLines : List Nat := [0, 192 * 2 ^ 23 - 1, capLineBase]
def devCap (d : Dev) : Dev := { d with chanShift := 4, ranks := 1 }

theorem test_witness_requests :
    (someLines.all fun l =>
      let d := devCap (dvHome l none none [])
      all [freeHome d 5 l, cachingOk 5 l 63, cachingOk 223 l 0, (d.agent 5).find l == none, d.entry l == none, d.dirWay l matches .inl _,
        ioAgentOk 300, lineOk l, d.keyLoaded 0, decide d.poison.Nodup,
        let e := devCap (dvHome l (some (owned 6)) none [(6, .M)])
        freeHome e 5 l && (e.agent 5).find l == none && e.entry l == some (owned 6)]) = true ∧
    l2Room (dvHome 0 none none []) 5 0 ∧
    ([[5], [5, 6]].all fun h => let d := dvHome 0 (some (shared h)) none [(5, .S), (6, .S)]
      freeHome d 5 0 && (shared h).names 5 && (d.agent 5).find 0 == some (ln .S) &&
        ((shared h).holders.filter fun b => b != 5) == (if h == [5] then [] else [6])) = true := by
  refine ⟨by decide +kernel, Or.inr ⟨0, by decide +kernel, ?_⟩, by decide +kernel⟩
  intro y h
  simp [dvHome, CacheAgent.setLines, Dev.agent, NMap.getD, NMap.find?] at h

theorem test_witness_supplier :
    (let e : DirEntry := { st := .O, owner := some 223, sharers := [0, 199] }
     e.coarse = false ∧ (∀ b, e.owner = some b → b < 224) ∧ isStacked 0 = true ∧ chooseSupplier e 0 0 = some 199) := by
  refine ⟨rfl, ?_, by decide +kernel, by decide +kernel⟩
  rintro b ⟨⟩; decide

/-- A transaction of agent 5 on line 0. -/
def tx (op : HomeOp) : HomeTxn := { req := ⟨0, 5, op, 0⟩ }

theorem test_witness_forwards :
    ([HomeOp.getS, .getM, .snoop].all fun op => [LineSt.M, .O, .E].all fun st_ =>
      let d := dvHome 0 (some (owned 6)) (some { tx op with fwd := some 6 }) [(6, st_)]
      all [(up d).live, lineOk 0, d.txn 0 == some { tx op with fwd := some 6 }, (d.home 0).queue.isEmpty, (d.agent 5).find 0 == none,
        (d.agent 6).find 0 == some (ln st_), d.entry 0 == some (owned 6), !(d.agent 6).hold.contains 0]) = true ∧
    (let d := dvHome 0 (some (shared [5])) (some { tx .upgrade with acks := [6] }) [(5, .S)]
     (up d).live = true ∧ (d.agent 5).find 0 = some (ln .S) ∧ d.txn 0 = some { tx .upgrade with acks := [6] }) ∧
    (let d := dvHome 0 (some (shared [5, 6])) (some { tx .upgrade with toInv := [6], backInv := true }) [(5, .S), (6, .S)]
     (up d).live = true ∧ d.txn 0 = some { tx .upgrade with toInv := [6], backInv := true }) ∧
    ([LineSt.M, .O, .E, .S].all fun st_ => let d := dvHome 0 (some (owned 5)) none [(5, st_)]
      freeHome d 5 0 && (d.agent 5).find 0 == some (ln st_) && d.keyLoaded (ln st_).key) = true := by decide +kernel

theorem test_witness_cacheEvents :
    (let x : L1State := { trackers := [{ count := 3, noAlloc := true }], combining := [⟨0, 0, 0, 1, false⟩] }
     let d := (dvHome 0 (some (owned 0)) none [(0, .E)]).setL1 0 x
     all [(up d).live, coreOk 0, (d.l1 0).trackers[0]?.isSome, !isHost 0, (d.l1 0).combining.find? (fun z => z.line == 0) == some ⟨0, 0, 0, 1, false⟩,
       (d.agent (coreCluster 0)).lines.find? 0 == some (ln .E)]) = true ∧
    (let d := dvHome 0 none none []
     freeHome d 199 0 = true ∧ (d.agent 199).side.length < 64 ∧ (d.home 0).txns = [] ∧ (d.agent 199).victim = []) ∧
    (let d : Dev := { devUp with agents := [(7, { victim := [(0, ln .M)] })] }; (up d).live = true ∧ (d.agent 7).victim ≠ []) ∧
    (∀ b < 2, let d := devUp.setFld F.DIR_FLUSH_busy 199 b
      (up d).open_ = true ∧ d.fld F.PWR_CLUSTER_STATUS_state 199 = 0 ∧ d.fld F.DIR_FLUSH_busy 199 = b) := by decide +kernel

/-! ### Milestones -/

/-- A wait of a convoy for the first milestone of cluster 0 to reach 2. -/
def wt (registered polling satisfied : Bool) : WaitRec :=
  { handle := 0, target := 2, eq := false, since := 0, registered := registered, polling := polling, satisfied := satisfied }
/-- Core 0 with a sleeping convoy, the milestone at `v`, and what its home's watch table holds. -/
def dvWait (w : WaitRec) (v : Nat) (l : List WatchSub) : Dev :=
  { dv { cv with state := .sleeping, wait := some w } with ms := [(0, BitVec.ofNat 64 v)], watch := [(0, l)] }
/-- A command of queue 0 of context 1 that waits too. -/
def cmd0 : Cmd := { asid := 1, queue := 0, seq := 0, raw := 0, wait0 := some (wt true false false) }
def dvCmd : Dev := { dvWait (wt true false false) 0 [] with qs := [(queueKey 1 0, { fetched := [cmd0] })] }

theorem test_witness_signals :
    (let d : Dev := { dvCmd with signals := [⟨16, 0, false, 3⟩, ⟨16, 0, true, 5⟩, ⟨17, 0, true, 5⟩] }
     (up d).live = true ∧ d.signals.length = 3 ∧ handleOk 0 = true ∧ handleOk (2 ^ 64 - 1) = false ∧
     (d.queue 1 0).fetched = [cmd0]) := by decide +kernel

theorem test_witness_waits :
    ([(false, false, false, 2), (false, false, false, 1), (true, false, true, 1), (true, true, false, 2), (true, true, false, 1)].all fun x =>
      [[], [⟨0, 0⟩], List.replicate 1024 ⟨0, 9⟩].all fun l =>
        let w := wt x.1 x.2.1 x.2.2.1; let d := dvWait w x.2.2.2 l
        all [(up d).live, waitRefOk (.convoy 0 0), d.findWait (.convoy 0 0) == some (0, w), d.msVal 0 == x.2.2.2, d.watch.getD 0 [] == l,
          !bitAt (d.reg .DBG_TRACE_CTRL (d.launchOf 0 cv).part) 63]) = true := by decide +kernel

/-- A partition whose hang ring holds two records, with `tail` records read. -/
def dvHang (tail : Nat) : Dev :=
  (((dvWait (wt true false false) 0 []).setReg .MS_WDOG_RING 0 (0x10000 + 1)).setFld F.MS_WDOG_CTRL_enable 0 1).setFld F.MS_WDOG_TAIL_index 0 tail

theorem test_witness_gatingAndWatchdog :
    (let d := dvWait (wt true false false) 0 []
     all [(up d).live, coreOk 0, (d.core 0).convoys != [], (d.core 0).convoys.all fun y => y.2.state == .sleeping && !(y.2.wait.getD (wt true true true)).satisfied,
       (d.sleeper 0 0).isSome, !(d.setFld F.MS_WDOG_CTRL_enable 0 0).flag F.MS_WDOG_CTRL_enable 0, (dv cv).core 0 |>.convoys.all fun y => y.2.state != .sleeping,
       [(0, false), (1, true)].all fun t => let g := dvHang t.1
         g.flag F.MS_WDOG_CTRL_enable 0 && (match g.ring .MS_WDOG_RING 0 with
           | some (_, n) => (ringFree (g.fld F.MS_WDOG_HEAD_index 0) (g.fld F.MS_WDOG_TAIL_index 0) n == 0) == t.2
           | none => false)]) = true ∧
    (dvCmd.queue 1 0).fetched.find? (fun y => y.seq == 0) = some cmd0 ∧ dvCmd.cmdWait 1 0 0 0 = cmd0.wait0 ∧
    (dvCmd.setFld F.MS_WDOG_CTRL_enable 0 0).flag F.MS_WDOG_CTRL_enable (dvCmd.ctxPart 1) = false ∧
    (∀ h ∈ [[], [7]], let x : WG := { wg0 with arrivedAt := [(7, 3)], hungBars := h }
      let d : Dev := { devUp with cores := [(0, { wgs := [(15, x)] })] }
      (up d).live = true ∧ d.wg? 0 15 = some x ∧ NMap.find? x.arrivedAt 7 = some 3) ∧
    (∀ h ∈ [0, 2 ^ 64 - 1], let d := devUp.setReg .MS_SEL 0 h; (up d).open_ = true ∧ d.reg .MS_SEL 0 = h) := by decide +kernel

/-! ### Translation and keys -/

/-- Bytes of stacked memory from a physical address, least significant first. -/
def cells (a x n : Nat) : List Host.Cell :=
  ((List.range n).map fun i => (a + i, BitVec.ofNat 8 (x / 256 ^ i))).filter fun c => c.2 != 0
/-- A response record: entry, tag, status, level, context. -/
def rsp (entry tag status level asid : Nat) : Nat := entry + tag * 2 ^ 64 + status * 2 ^ 80 + level * 2 ^ 88 + asid * 2 ^ 96
/-- An outstanding request for page 6 of context 1. -/
def rq (kind : Nat) (ws : List Waiter) : XltReq :=
  { tag := 9, kind := kind, flags := 0, asid := 1, engine := 0, unit := 0, page := 6, ctxTag := 0, layer := 0, op := 0, waiters := ws }
def stl : Stall := { word := 0xa0 * 2 ^ 56, pages := [6, 7], got := [], lo := 0, hi := 0, write := false }
/-- Partition 0's rings, two response records read in order, and a convoy that waits for page 6. -/
def dvX (r0 r1 : Nat) (q : XltReq) : Dev :=
  ((((({ dv { cv with stall := some stl } with mem := cells 0x10000 r0 16 ++ cells 0x10010 r1 16, xlt := [(0, { out := [q] })] } : Dev).setReg
    .XLT_RSP_RING 0 (0x10000 + 2)).setReg .XLT_REQ_RING 0 (0x20000 + 2)).setFld F.XLT_RSP_TAIL_index 0 2).setFld
    F.XLT_CTX_KEYMASK_slots 1 (2 ^ 64 - 1)).setFld F.XLT_REQ_CTRL_timeout 0 1

/-- The next response is well formed and answers the request. -/
def answered (d : Dev) (q : XltReq) (status : Nat) : Bool :=
  match (d.skipBad 0 20000).response 0 0 with
  | (e, some rec) => all [(up d).live, rStatus rec == status, e.outstanding 0 (rTag rec) == some q, rAsid rec == q.asid, !q.dead, !q.overlapped,
      (e.xltPart 0).waiting.isEmpty,
      match status with
      | 0 => rLevel rec ≤ 2 && leafOk (rEntry rec) (rLevel rec) (q.page * 4096) && e.keyPolicy q.asid (rEntry rec) &&
          (e.placeLine 0 (ptePlacement (rEntry rec)) 0).isSome
      | 1 => ((e.responded 0 1).retireReq 0 q.tag).mayPost 0
      | _ => !e.ctxFaulted q.asid]
  | (_, none) => false

theorem test_witness_responses :
    ([0, 1, 2, 3].all fun st => [[.convoy 0 0], [.mover 0 1], []].all fun ws =>
      let q := rq (if st = 3 then 4 else 1) ws
      let d := dvX (rsp (7 + 6 * 4096) 9 st 0 1) 0 q
      all [answered d q st, (d.stalledOn 0 0 1 6).isSome, (d.wg? 0 0).isSome, d.outstanding 0 9 == some q, d.fld F.XLT_REQ_CTRL_timeout 0 != 0,
        (d.retireReq 0 9).mayPost 0]) = true ∧
    (let d := dvX (rsp (6 * 4096) 0xffff 4 0 1) (rsp (7 + 6 * 4096) 0xffff 0 0 1) (rq 0 [])
     match (d.skipBad 0 20000).response 0 0 with
     | (e, some rec) => match e.response 0 1 with
       | (e2, some m) => all [rStatus rec == 4, rTag rec == 0xffff, rFormOk m, rStatus m == 0, rTag m == 0xffff, rLevel m == rLevel rec,
           rAsid m == rAsid rec, pushOk (rEntry rec) (rLevel rec), leafOk (rEntry m) (rLevel rec) (rEntry rec), e2.keyPolicy (rAsid rec) (rEntry m)]
       | _ => false
     | _ => false) = true := by decide +kernel

theorem test_witness_invalidationAndKeys :
    (∀ b < 2, (up (devUp.setFld F.XLT_INV_STATUS_busy 0 b)).open_ = true ∧ (devUp.setFld F.XLT_INV_STATUS_busy 0 b).fld F.XLT_INV_STATUS_busy 0 = b) ∧
    (∀ o ∈ [false, true], let d : Dev := { devUp with inval := [⟨1, 1, 0, 1⟩], xlt := [(0, { out := [{ rq 0 [] with overlapped := o }] })] }
      (up d).live = true ∧ d.inval = ⟨1, 1, 0, 1⟩ :: []) ∧
    (∀ b < 2, (up (devUp.setFld F.XLT_KEK_CTRL_locked 0 b)).open_ = true ∧ (up (devUp.setFld F.XLT_KEY_STATUS_busy 0 b)).open_ = true) ∧
    (let d : Dev := { devUp with keyOp := some (63, none) }; (up d).live = true ∧ d.keyOp = some (63, none)) := by decide +kernel

/-! ### Host queues, commands and BAR4 -/

/-- Queue 0 of context 1, in partition 0, in state `st_`: rings of two, tail `tail`, its page translated where `there`. -/
def dvQ (st_ tail : Nat) (there : Bool) (q : QueueState) (bytes : List Host.Cell) : Dev :=
  let i := queueKey 1 0
  ((((((((({ devUp with qs := [(i, q)], mem := bytes, xlt := [(0, { cache := if there then [(0, ⟨1, 5, 12, 5, 0⟩)] else [] })] } : Dev).setFld
    F.HIF_Q_STATUS_state i st_).setFld F.HIF_Q_RING_base i 5).setFld F.HIF_Q_RING_log2_entries i 1).setFld F.HIF_Q_EVRING_log2_entries i 1).setFld
    F.HIF_CTX_CFG_enable 1 1).setReg .HIF_Q_TAIL i tail).setFld F.HIF_CTX_TAGS_tag_count 1 1).setFld F.PRT_STATUS_holder 0 1).setFld
    F.PRT_STATUS_holder_valid 0 1 |>.setFld F.PRT_STATUS_phase 0 1

theorem test_witness_queues :
    ((List.range 5).all fun st_ => let d := dvQ st_ 1 true {} []
      all [(up d).open_, d.wakePkg.qSize 1 0 == 2, d.qState 1 0 == st_, d.ctxEnabled 1, !d.ctxFaulted 1, d.evSize 1 0 == 2]) = true ∧
    ([false, true].all fun there => let d := dvQ 1 1 there {} []
      all [d.mayFetch 1 0, (d.queue 1 0).preCancel.isEmpty,
        (d.queueRead (d.queueReq 1 (.fetchq 1 0)) (d.fld F.HIF_Q_RING_base (queueKey 1 0) * 4096) 64).2.isSome == there]) = true ∧
    (let d := dvQ 0 0 true {} []; bitAt (d.reg .HIF_CTX_CFG 1) 31 = true ∧ bitAt (devUp.reg .HIF_CTX_CFG 1) 31 = false ∧
      ((List.range 64).all fun q => d.qState 1 q == 0) = true ∧ (devUp.setFld F.XLT_CTX_STATUS_faulted 1 1).ctxFaulted 1 = true) := by
  decide +kernel

/-- A command of 64 bytes from its fields. -/
def cmdOf (fs : List (Nat × Nat)) : Cmd := { asid := 1, queue := 0, seq := 0, raw := BitVec.ofNat 512 (fs.foldl (fun a f => a + f.2 * 2 ^ (8 * f.1)) 0) }
/-- A launch block of one workgroup of one convoy. -/
def block (vRegs : Nat) : List Host.Cell :=
  cells 0 0x1000 8 ++ cells 0x20 1 4 ++ cells 0x24 1 2 ++ cells 0x26 1 2 ++ cells 0x28 64 2 ++ cells 0x2a 1 2 ++ cells 0x2c 1 2 ++ cells 0x2e vRegs 1

def grantMeets (c : Cmd) (invalid : Bool) : Bool :=
  let d := dvQ 1 1 true { fetched := [c] } []
  all [(up d).live, queueOk 1 0, (d.queue 1 0).fetched.head? == some c, d.ready 1 0 c, !bitAt (d.reg .DBG_TRACE_CTRL (d.ctxPart 1)) 63,
    d.cmdInvalid 1 c.raw.toNat == invalid]

theorem test_witness_grants :
    ((List.range 5).all fun op => grantMeets (cmdOf [(0, op), (1, 0x80)]) true) = true ∧
    ((List.range 4).all fun op => grantMeets (cmdOf [(0, op), (0x28, if op = 1 ∨ op = 2 then 5 * 4096 else 0)]) false) = true ∧
    ([(8, true), (7, false)].all fun x =>
      let c := cmdOf [(0, 1), (0x28, 5 * 4096)]; let r := c.raw.toNat
      let d := { dvQ 1 1 true { fetched := [c] } (block x.1) with parts := [(0, { enabled := true, quads := 1, localCode := 4 })] }
      match d.queueRead (d.queueReq 1 (.command 1 0 0) (cTag r, cLayer r, cOperator r)) (cPay r 0) 128 with
      | (d1, some bs) => d1.launchOk 0 (leNat bs) == x.2 && !d1.cmdNoResource 1 r && lB (leNat bs) 0x38 8 == 0
      | (_, none) => false) = true := by decide +kernel

theorem test_witness_completionsAndCancels :
    ([0, 1, 2, 6].all fun status => [false, true].all fun done =>
      let g : GCmd := { cmd := cmdOf [(1, 4)], status := status, done := done }
      let d := dvQ 1 1 true { granted := [g] } []
      all [(up d).live, ((d.queue 1 0).granted ++ (d.queue 1 0).cancelled).find? (fun y => y.cmd.seq == 0) == some g, d.cmdDescs 1 0 0 == 0,
        d.seqInRange 1 0 0]) = true ∧
    (let d := dvQ 1 2 true { fetched := [cmdOf []] } []
     (up d).open_ = true ∧ d.flag F.HIF_Q_CANCEL_STATUS_busy (queueKey 1 0) = false ∧ d.seqInRange 1 0 1 = true ∧ d.seqInRange 1 0 (2 ^ 31) = false ∧
     (d.setFld F.HIF_Q_CANCEL_STATUS_busy (queueKey 1 0) 1).flag F.HIF_Q_CANCEL_STATUS_busy (queueKey 1 0) = true ∧
     seqDist 1 (d.qHead 1 0) < seqDist (d.qTail 1 0) (d.qHead 1 0)) := by decide +kernel

theorem test_witness_hostWindow :
    bar4Ok 1 (2 ^ 38 - 1) 1 = true ∧ devUp.bar4Open 0 = true ∧ ({ devUp with sys := { devUp.sys with perst := [0] } } : Dev).bar4Open 0 = false ∧
    devUp.windowLine 127 = some 0 ∧ freeHome devUp 310 0 = true ∧ isHost 0 = false ∧ devUp.entry 0 = none := by decide +kernel

theorem test_witness_hostAtomic : ∃ c z, devUp.atomicL2 0 = c ∧
    (({ devUp with agents := [(c, { lines := [(0, ln .M)] })] } : Dev).agent c).lines.find? 0 = some z ∧ z.st = .M ∧ z.poison = false :=
  ⟨_, ln .M, rfl, by simp [Dev.agent, NMap.getD, NMap.find?], rfl, rfl⟩

/-! ### Partitions -/

/-- Contexts 1 and 2 of partition 0 with a command fetched each, the slice held by context 1 in `phase`. -/
def dvSl (phase : Nat) (holder : Bool) : Dev :=
  let i := queueKey 2 0
  (((({ dvQ 1 1 true {} [] with
        qs := [(queueKey 1 0, { fetched := [cmd0] }), (i, { fetched := [cmd0] })]
        cores := [(0, { convoys := [(0, { cv with preempt := phase == 2 || phase == 3 })], wgs := [(0, wg0)] })] } : Dev).setFld
    F.HIF_Q_STATUS_state i 1).setFld F.HIF_CTX_CFG_enable 2 1).setFld F.PRT_STATUS_phase 0 phase).setFld F.PRT_STATUS_holder_valid 0 (b2n holder)
    |>.setFld F.PRT_SAVE_CFG_slots 0 1

theorem test_witness_slices :
    (let d := dvSl 0 false
     all [(up d).open_, d.holder 0 == none, (d.part 0).enabled, !(d.pstate 0).draining, d.eligible 0 1, d.eligible 0 2, !d.eligible 0 0]) = true ∧
    (let d := dvSl 1 true
     all [d.holder 0 == some 1, d.slicePhase 0 == 1, d.residents 0 1 != [], decide (0 < d.fld F.PRT_SAVE_CFG_slots 0), d.slotsUsed 0 == []]) = true ∧
    ([2, 3].all fun ph => [0, 2].all fun form =>
      let v : Convoy := { cv with preempt := true, saveForm := form }
      let d := { dvSl ph true with cores := [(0, { convoys := [(0, v)], wgs := [(0, wg0)] })] }
      all [(up d).live, d.holder 0 == some 1, d.slicePhase 0 == ph, decide (rising (d.core 0).convoys), d.convoy? 0 0 == some v,
        (d.wg? 0 v.wg) == some wg0, (d.stopWaiting 0 1).saveReady 0 0 == (form != 0)]) = true ∧
    (let y : SavedWg := { asid := 1, core := 0, entry := 0, queue := 0, seq := 0, chunkNo := 0, localOff := 0, firstUnit := 0, units := 1, wg := wg0, cvs := [(0, cv)] }
     let d := { dvSl 4 true with pst := [(0, { saved := [y] })], cores := [] }
     all [(up d).live, d.holder 0 == some 1, d.slicePhase 0 == 4, ((d.pstate 0).saved.filter fun z => z.asid == 1)[0]? == some y,
       d.wg? 0 15 == none]) = true := by decide +kernel

theorem test_witness_stealing :
    (let y : Launch := { launch0 with queues := [(1, [{ no := 0 }, { no := 1 }, { no := 2 }])] }
     let d := { dvPl with pst := [(0, { launches := [y] })] }
     all [(up d).live, d.clusterPart 0 == some 0, (d.pstate 0).launches[0]? == some y, d.idleFor 0 0 y, (d.partClusters 0).contains 1,
       unbegun (y.queueOf 1) != [], (d.partClusters 0).all fun u => u == 1 || unbegun (y.queueOf u) == []]) = true ∧
    (∀ t ∈ [0, 1], let d := (devUp.setReg .PRT_SLOW_RING 0 (0x10000 + 1)).setFld F.PRT_SLOW_TAIL_index 0 t
      (up d).live = true ∧ (d.part 0).enabled = true ∧ (d.part 1).enabled = false ∧ d.ring .PRT_SLOW_RING 0 = some (0x10000, 2)) := by
  decide +kernel

/-! ### Links -/

/-- The link-roles section of a fabric of two chips, of which this one is node 1 and entry 0. -/
def roles : List Byte :=
  leBytes (2 * 2 ^ (8 * 0xe) + 2 ^ (8 * 0x110) + 2 * 2 ^ (8 * 0x130) + 9 * 2 ^ (8 * 0x138) + 7 * 2 ^ (8 * 0x140)) 0x150
/-- Link 0 of partition 0 with a role and a state. -/
def dvLk (role state : Nat) (x : Link) : Dev :=
  ((({ devUp with links := [(0, x)], sys := { devUp.sys with sections := [(5, roles)] } } : Dev).setReg .LNK_NODE_ID 0 1).setFld
    F.LNK_STATUS_role 0 role).setFld F.LNK_STATUS_state 0 state |>.setFld F.LNK_CTRL_enable 0 1

theorem zeros_crc (n : Nat) : (List.replicate n (0 : Byte)).foldl (crcByte 2) 0 = 0 := by
  induction n with
  | zero => rfl
  | succ n ih => rw [List.replicate_succ, List.foldl_cons, show crcByte 2 0 0 = 0 by decide +kernel, ih]
/-- A header's bytes and, after them, those that bring the CRC-64 register back to zero. -/
def flitFront (head : Nat) : List Byte := leBytes head 6 ++ beBytes ((leBytes head 6).foldl (crcByte 2) 0) 8
/-- A flit of that header and payload, the rest of it zeros, its CRC zero among them. -/
def flit (type vc seq : Nat) : BitVec 2048 := BitVec.ofNat 2048 (leNat (flitFront (flitHead type vc seq 0 0 5)))
/-- Headers of every type, one of them a management flit. -/
def flitKinds : List (Nat × Nat × Nat) := [(0, 0, 0), (0, 1, 0), (1, 0, 0), (1, 0, 4095), (1, 1, 0), (2, 0, 0), (4, 0, 0)]

theorem flit_bytes : flitKinds.all (fun y => leBytes (flit y.1 y.2.1 y.2.2).toNat 248 ==
    flitFront (flitHead y.1 y.2.1 y.2.2 0 0 5) ++ List.replicate 234 0 &&
    (flitFront (flitHead y.1 y.2.1 y.2.2 0 0 5)).foldl (crcByte 2) 0 == 0 && bits (flit y.1 y.2.1 y.2.2).toNat 2047 1984 == 0) = true := by
  decide +kernel

theorem test_flit_crc (y : Nat × Nat × Nat) (h : y ∈ flitKinds) : flCrcOk (flit y.1 y.2.1 y.2.2).toNat = true := by
  have a := List.all_eq_true.mp flit_bytes y h
  simp only [Bool.and_eq_true, beq_iff_eq] at a
  obtain ⟨⟨b, c⟩, e⟩ := a
  rw [flCrcOk, b, e, crcOf, List.foldl_append, show crcInit 2 = 0 from rfl, c, zeros_crc]
  rfl

theorem test_witness_bringUp :
    ([0, 1].all fun st_ => [1, 2, 3].all fun r => let d := dvLk r st_ {}
      (up d).open_ && d.linkState 0 == st_ && d.linkRole 0 == r && d.linkPart 0 == some 0 && d.ownPeer == some 0) = true ∧
    (∀ bad ∈ [[], [0], [3], [4]], carries bad) ∧ (∀ bad ∈ [[0, 4], [0, 1]], ¬ carries bad) ∧
    ([2, 3, 4, 5].all fun st_ => [1, 2].all fun r => [false, true].all fun full => let d := dvLk r st_ { full := full, downDue := full }
      all [(up d).live, d.linkState 0 == st_, d.isEth 0 == (r == 2), !d.flag F.LNK_STATUS_node_invalid 0, !d.isTest 0,
        !d.flag F.LNK_CAP_STATUS_running 0, d.fabricId == 0, d.peerOf 2 == some 1, d.peerOf 3 == none, d.ownNode == 1,
        !d.flag F.LNK_STATUS_peer_valid 0, d.linkUp 0 == (st_ == 4)]) = true ∧
    nothingToSend {} := by
  unfold nothingToSend carries; decide +kernel

theorem test_witness_retrain : flitTaken (up (dvLk 1 4 {})) 0 (flit 4 0 0) 4 :=
  ⟨by decide +kernel, by decide, by decide +kernel, by decide +kernel, test_flit_crc (4, 0, 0) (by decide), by decide +kernel, by decide +kernel⟩

/-- A link with something to send, to send again, and to take in next. -/
def lk0 : Link := { rxSeq := 4095, credit0 := 1, txSeq := 4095, stream := List.replicate 241 1, replay := [⟨4095, 0, 0⟩] }
theorem test_witness_flits : nothingToSend lk0 ∧ ∀ y ∈ flitKinds, flitTaken (up (dvLk 1 4 lk0)) 0 (flit y.1 y.2.1 y.2.2) y.1 ∧
    flSeq (flit y.1 y.2.1 y.2.2).toNat = y.2.2 ∧ flVc (flit y.1 y.2.1 y.2.2).toNat = y.2.1 := by
  refine ⟨by unfold nothingToSend; decide +kernel, fun y h => ?_⟩
  have a : ∀ y ∈ flitKinds, flType (flit y.1 y.2.1 y.2.2).toNat = y.1 ∧ flSeq (flit y.1 y.2.1 y.2.2).toNat = y.2.2 ∧
      flVc (flit y.1 y.2.1 y.2.2).toNat = y.2.1 := by decide +kernel
  exact ⟨⟨by decide +kernel, by decide, by decide +kernel, by decide +kernel, test_flit_crc y h, (a y h).1, by decide +kernel⟩, (a y h).2⟩

/-- A put or signal entry of link 0. -/
def putOf (fs : List (Nat × Nat)) (g : Bool) : PutEntry :=
  { seq := 0, raw := BitVec.ofNat 512 (fs.foldl (fun a f => a + f.2 * 2 ^ (8 * f.1)) 0), granted := g }
/-- Its queue, running, in a context whose page 5 is at line 0, with `tags` context tags. -/
def dvPut (role tags : Nat) (y : PutEntry) : Dev :=
  (((((({ dvLk role 4 { entries := [(0, [y])], peers := [(1, { identOk := true })] } with
    xlt := [(0, { cache := [(0, ⟨1, 5, 12, 5, 0⟩)] })] } : Dev).setFld F.LNK_PQ_CFG_asid 0 1).setFld F.HIF_CTX_CFG_enable 1 1).setFld
    F.LNK_PQ_STATUS_state 0 1).setFld F.LNK_PQ_RING_log2_entries 0 1).setFld F.HIF_CTX_TAGS_tag_count 1 tags)

theorem test_witness_putEntries :
    ([(0, 0, 0, 1), (1, 0, 1, 6), (1, 4, 0, 2)].all fun c =>
      let y := putOf [(0, 2), (1, c.2.1), (4, c.2.2.1), (0x38, if c.2.1 = 4 then 4095 + 191 * 2 ^ 22 else 0)] false; let r := y.raw.toNat
      let d := dvPut 1 c.1 y
      all [(up d).live, putOk 0 0, ((d.link 0).queue 0).find? (fun z => !z.allSent) == some y, d.pqState 0 == 1, !d.ctxFaulted 1, d.ctxEnabled 1,
        d.wakePkg.pqSize 0 == 2,
        (if d.putInvalid 1 r then 1 else if d.putNoResource 0 r then 2 else if d.putBadPeer 0 r then 6 else 0) == c.2.2.2]) = true ∧
    ([(1, false), (1, true), (2, false)].all fun c =>
      let y := putOf [(0, 1), (5, 128), (8, 5 * 4096), (4, if c.1 = 2 then 1 else 0)] true; let r := y.raw.toNat
      let d := { dvPut c.1 1 y with poison := if c.2 then [0] else [] }
      all [(up d).live, d.mayPut 0 0 r,
        match d.linkRead 0 (d.putReq 0 0 r) ((pSrc r + (msgNext y).1) % 2 ^ 64) (msgNext y).2.1 with
        | (d1, some (_, p)) => p == c.2 && d1.isEth 0 == (c.1 == 2) && !d1.isDet 0
        | (_, none) => false]) = true ∧
    ([false, true].all fun sent => let y := { putOf [] true with allSent := sent }; (dvPut 1 1 y).entryAcked 0 0 y == sent) = true := by
  decide +kernel

theorem test_witness_messages :
    ([(2, 0, false), (1, 1, false), (1, 0, true)].all fun c =>
      let h := leBytes (c.1 + c.2.1 * 2 ^ 32 + c.2.1 * 5 * 4096 * 2 ^ 64) 32; let data := leBytes 0 c.2.1
      let d := ({ dvLk 1 4 { rxBuf := h ++ data } with xlt := [(0, { cache := [(0, ⟨1, 5, 12, 5, 0⟩)] })] } : Dev).setFld F.LNK_RX_CFG_enable 0 1
      all [(up d).live, (d.link 0).rxBuf.head? == h.head?, h.head? != some 0, (d.link 0).message == some (h, data), d.msgBad 0 h == c.2.2]) = true := by
  decide +kernel

theorem test_witness_badFlit : flCrcOk (BitVec.ofNat 2048 (2 ^ 1984)).toNat = false := by
  rw [flCrcOk, show leBytes (BitVec.ofNat 2048 (2 ^ 1984)).toNat 248 = List.replicate 248 0 by decide +kernel, crcOf,
    show crcInit 2 = 0 from rfl, zeros_crc]
  decide +kernel

theorem test_witness_linkWrite :
    ([0, 1].all fun a => let d := ({ dvLk 1 4 {} with xlt := [(0, { cache := [(0, ⟨1, 5, 12, 5, 0⟩)] })] } : Dev).setFld F.LNK_RX_CFG_asid 0 a
      (d.setFld F.XLT_CTX_CTRL_enable 0 0 |>.linkWrite 0 (d.rxReq 0 (leBytes 1 32)) (5 * 4096) [1]).2 == (a == 1)) = true := by decide +kernel

/-- Frames of each kind from peer 1, their checks right, the last an IDENT with its message (R490). -/
def frames : List (Nat × List Byte) := [
  (1, leBytes 0xe477817fb07c9714000000000000000000000000000000016f661c0000000000000000000000000000000000000000000000000000000000000000000000000740111c0000002060dd8600000081000000000009000000000000 90),
  (2, leBytes 0x1debaf02a384f7e7000000000000000000000000000000021b8a1c0000000000000000000000000000000000000000000000000000000000000000000000000740111c0000002060dd8600000081000000000009000000000000 90),
  (3, leBytes 0x4319aaf35188fa19000000000000000000000000000000036b531c0000000000000000000000000000000000000000000000000000000000000000000000000740111c0000002060dd8600000081000000000009000000000000 90),
  (4, leBytes 0x3c85b88bd5920c890000000000000000000000000000000000000000000000000000000000000000000000000000000000000000000000000000000000000200000000000000000000000000000000020000000000000000000000000000000442d664000000000000000000000000000000000000000000000000000000000000000000000000074011640000002060dd8600000081000000000009000000000000 162)]

theorem test_frames : (frames.all fun f => match (dvLk 2 4 {}).ethFilter f.2 with
    | .ok x => x.peer == 1 && byteField x.head 0 1 == f.1 && byteField x.head 4 4 == 0 &&
        (f.1 != 4 || byteField x.msg 8 8 == 0 && byteField x.msg 0 8 == 2 && x.msg.length == 72)
    | .error _ => false) = true := by decide +kernel

theorem test_witness_ethernet :
    (frames.all fun f => all [(up (dvLk 2 4 {})).live, decide (f.2.length ≤ 16384), (dvLk 2 4 {}).isEth 0, (dvLk 2 4 {}).linkUp 0,
      !(dvLk 2 4 {}).ownPeer.isNone, !(dvLk 2 4 {}).flag F.LNK_CAP_STATUS_running 0, (dvLk 2 4 {}).peerNode 1 == 2, (dvLk 2 4 {}).fabricId == 0]) = true ∧
    (match (dvLk 2 4 {}).ethFilter [] with | .error c => c == 11 | .ok _ => false) = true ∧
    ([0, 1, 2 ^ 31].all fun n => ((dvLk 2 4 { peers := [(1, { identOk := true, rcvNext := n, sinceAck := n })] }).ethPeer 0 1).rcvNext == n) = true ∧
    (let y := putOf [(0, 1), (5, 128), (8, 5 * 4096)] true
     let f : EthFrame := { seq := 0, queue := 0, entry := 0, head := 0, src := BitVec.ofNat 64 (5 * 4096), len := 128 }
     let d := dvPut 2 1 y
     ((d.link 0).queue f.queue).find? (fun z => z.seq == f.entry) = some y ∧
     (d.linkRead 0 (d.putReq 0 f.queue y.raw.toNat) f.src.toNat f.len).2.map (·.2) = some false) := by decide +kernel

theorem test_witness_instruments :
    ([1, 3].all fun r => let d := dvLk r 4 {}
      (up d).open_ && d.isTest 0 == (r == 3)) = true ∧
    ([false, true].all fun h => let d := dvLk 3 6 { held := h }
      (up d).live && (d.link 0).held == h && d.linkState 0 == 6 && (d.setFld F.LNK_PRBS_locked 0 1).flag F.LNK_PRBS_locked 0) = true ∧
    (let d := (((dvLk 3 4 { injLeft := 2 }).setFld F.LNK_INJECT_arm 0 1).setFld F.LNK_INJECT_kind 0 2)
     d.isTest 0 = true ∧ d.flag F.LNK_INJECT_arm 0 = true ∧ d.fld F.LNK_INJECT_kind 0 = 2 ∧ (d.link 0).injLeft = 2) := by decide +kernel

/-! ### Power -/

theorem test_witness_power :
    (up devUp).open_ = true ∧ devUp.flag F.PWR_ROOT_CTRL_busy 0 = false ∧ (devUp.curves.any fun p => p.1 == 7200) = true ∧
    devUp.fld F.PWR_STATUS_pkg_state 0 = 0 ∧ devUp.flag F.PWR_PKG_STATUS_busy 0 = false ∧
    (let d := ({ devUp with pwr := { devUp.pwr with retuneTo := 5600 } } : Dev).setFld F.PWR_ROOT_CTRL_busy 0 1
     (up d).live = true ∧ d.flag F.PWR_ROOT_CTRL_busy 0 = true ∧ d.pwr.retuneTo < 2 ^ 13) ∧
    devUp.pool 0 < 0 ∧ 0 ≤ (devUp.setFld F.PWR_PART_CREDIT_allowance_mw 0 (2 ^ 32 - 1)).pool 0 ∧
    (∀ h ∈ [false, true], let d : Dev := { devUp with cores := [(0, { halfRate := h })] }
      (up d).live = true ∧ (d.core 0).halfRate = h ∧ d.pwr.lent.length ≤ 1200) := by decide +kernel

theorem test_witness_heat :
    sensorsOk [(199, 255)] [(23, 0)] [(0, 3, 104)] = true ∧ ((NMap.find? devUp.sys.sections 10).getD []).length ≤ 128 ∧
    (let d : Dev := { devUp with pwr := { devUp.pwr with forced := [(0, 1)] } }
     (up d).live = true ∧ (0, 1) ∈ d.pwr.forced ∧ (d.pwr.forced.filter (·.1 == 0)).length = 1) ∧
    [0, 1599].all coreOk = true := by decide +kernel

/-- Cluster 0 in a power state, with an entry in progress where there is one, its partition bearing `tol` µs. -/
def dvPw (st_ tol : Nat) (e : Option PowerEntry) : Dev :=
  ({ devUp with pwr := { devUp.pwr with entry := match e with | some x => [(0, x)] | none => [] } } : Dev).setFld F.PWR_CLUSTER_STATUS_state 0 st_
    |>.setFld F.PWR_WAKE_TOL_us 0 tol

theorem test_witness_clusterStates :
    ([1, 2, 3].all fun st_ => let d := dvPw (st_ - 1) (2 ^ 20 - 1) none
      all [(up d).live, clusterOk 0, d.clusterPart 0 == some 0, decide (d.psExit (st_ - 1) ≤ d.fld F.PWR_WAKE_TOL_us 0 * 1000),
        d.fld F.PWR_CLUSTER_STATUS_state 0 == d.stateBefore 0 st_, d.clusterIdle 0 0 st_, NMap.find? d.pwr.entry 0 == none,
        !d.flag F.PWR_CLUSTER_STATUS_wake_latched 0]) = true ∧
    ([1, 2, 3].all fun t => [0, 3].all fun ph => [false, true].all fun w =>
      let x : PowerEntry := { target := t, source := 7, phase := ph, wake := w }
      let d := dvPw 4 0 (some x)
      all [(up d).live, NMap.find? d.pwr.entry 0 == some x, d.moverStill 0, (d.agent 0).victim.isEmpty, d.fld F.PWR_CLUSTER_STATUS_state 0 == 4,
        !decide (psLast.getD (t - 1) 0 < 0)]) = true ∧
    ([0, 5].all fun st_ => let d := { dvPw st_ 0 none with pwr := { devUp.pwr with leaving := [(0, 3)] } }
      (up d).open_ && d.fld F.PWR_CLUSTER_STATUS_state 0 == st_ && NMap.getD d.pwr.leaving 0 0 == 3) = true ∧
    (dvPw 0 0 none).heldInC1 0 = false ∧ ({ devUp with pwr := { devUp.pwr with acts := [2 ^ 16] } } : Dev).heldInC1 0 = true := by
  decide +kernel

/-- The package with an entry in progress, or being restored. -/
def dvPk (e : Option PowerEntry) (restoring : Bool) (lowered : List Nat) : Dev :=
  { devUp with pwr := { devUp.pwr with
      entry := (match e with | some x => [(pkgDomain, x)] | none => [])
      restoring := restoring, lowered := lowered } }

theorem test_witness_vaultAndPackage :
    ([2, 3].all fun st_ => let d := (dvPw 3 (2 ^ 20 - 1) none).setFld F.VLT_STATUS_state 0 st_
      (up d).live && d.fld F.VLT_STATUS_state 0 == st_ && decide (d.psExit 4 ≤ d.fld F.PWR_WAKE_TOL_us 0 * 1000) && d.clusterPart 199 == none) = true ∧
    ([1, 2, 3].all fun t => [0, 1].all fun ph => [false, true].all fun w =>
      let x : PowerEntry := { target := t, source := 0, phase := ph, wake := w }
      let d := dvPk (some x) false []
      (up d).live && NMap.find? d.pwr.entry pkgDomain == some x && d.movers.isEmpty) = true ∧
    ([[], [7], [8], [10], [1]].all fun l => let d := dvPk none true l
      (up d).live && d.pwr.restoring && d.pwr.lowered == l) = true ∧
    (∀ p ∈ [0, 1, 2, 3], let d := devUp.setFld F.PWR_STATUS_pkg_state 0 p
      d.sys.phase = .running ∧ d.sys.refclk = true ∧ d.fld F.PWR_STATUS_pkg_state 0 = p ∧ (p < 3 → (up d).live = true)) := by decide +kernel

/-! ### Wardens, counters and the freeze -/

theorem test_witness_proposals :
    ([1, 2].all fun st_ => [(4, 0), (7, 5), (1, 199)].all fun k =>
      let d := devUp.setReg .WDN_PROP 31 (k.1 * 2 ^ 56 + k.2 * 2 ^ 8) |>.setFld F.WDN_PROP_state 31 st_
      all [(up d).open_, laneMapOk [(199, [151])], d.sys.propDone.isEmpty, d.propState 31 == st_, d.sys.propWait.isEmpty, d.upsets.isEmpty]) = true ∧
    (∀ w < 2, devUp.wardensRun = true ∧ (devUp.setFld F.WDN_STATUS_west_failed 0 w).fld F.WDN_STATUS_west_failed 0 = w) ∧
    (let d : Dev := { devUp with sys := { devUp.sys with wdnLoading := [0, 1], missed := [(0, 3)] } }
     d.wardensRun = true ∧ 0 ∈ d.sys.wdnLoading ∧ NMap.getD d.sys.missed 0 0 = 3) ∧
    devUp.alive = true ∧ devUp.sys.phase ≠ .firmware ∧ State.reset.dev.alive = false := by decide +kernel

theorem test_witness_freeze :
    (∀ b < 2, let d := devUp.setFld F.DBG_FREEZE_STATUS_frozen 0 b; (up d).open_ = true ∧ d.fld F.DBG_FREEZE_STATUS_frozen 0 = b) ∧
    ((devUp.part 0).enabled = true ∧ (devUp.part 15).enabled = false ∧ devUp.accum = []) ∧
    (let d := (dv { cv with state := .halted }).setFld F.DBG_FREEZE_CTRL_halt_mask 0 1
     (up d).open_ = true ∧ d.convoy? 0 0 = some { cv with state := .halted } ∧ bitAt (d.fld F.DBG_FREEZE_CTRL_halt_mask 0) (d.launchOf 0 cv).part = true) ∧
    (let d := (dvLk 1 4 {}).setFld F.DBG_FREEZE_CTRL_accept_link 0 1; d.flag F.DBG_FREEZE_CTRL_accept_link 0 = true ∧ d.frozen = false) ∧
    (∀ b < 2, (devUp.setFld F.DBG_FREEZE_CTRL_in_en 0 b).fld F.DBG_FREEZE_CTRL_in_en 0 = b) := by decide +kernel

/-! ### Pins, start-up, JTAG, the mailbox and registers -/

/-- The device at a phase of its start-up. -/
def dvPh (p : Phase) : Dev := { devUp with sys := { devUp.sys with phase := p } }
/-- A self-test that found bad ports and `lanes` bad lanes of link 31. -/
def tested (ports : List Nat) (lanes : Nat) : SelfTest := ⟨[], [], [], [], [], false, ports, [(31, lanes)]⟩

theorem test_witness_startUp :
    (let d := State.reset.dev; d.sys.resetN = false ∧ d.sys.pgHigh = false ∧ d.sys.powered = true ∧ d.sys.flashOp = none) ∧
    (let d : Dev := { State.reset.dev with sys := { State.reset.dev.sys with resetN := true } }; d.sys.phase = .inReset ∧ d.sys.thermtrip = false) ∧
    (let d : Dev := { State.reset.dev with sys := { State.reset.dev.sys with pgHigh := true } }; d.sys.resetN = false ∧ d.sys.pgHigh = true) ∧
    (devUp.sys.resetN = true ∧ devUp.sys.thermtrip = false ∧ devUp.alive = true ∧ (up devUp).live = true) ∧
    ((dvPh .firmware).sys.refclk = true ∧ (dvPh .firmware).sys.fwUse = []) ∧
    ([tested [] 1, tested [9] 1, tested [] 2].all testOk = true ∧ testFatal (tested [] 1) = 0 ∧ testFatal (tested [9] 1) = 16 ∧
      testFatal (tested [] 2) = 32) ∧
    ((dvPh .book).flag F.RLB_STATUS_sealed 0 = false ∧ ((bookCopies State.reset.fuses { (dvPh .book).sys with bookUse := [0] }).all fun c => c.2.2 != none) = true) ∧
    (dvPh .lpddr).secByte 12 0 = 0 ∧ (∀ r < 3, (devUp.setFld F.HIF_PORT_STATUS_role 1 r).fld F.HIF_PORT_STATUS_role 1 = r) := by decide +kernel

/-- The device with its book sealed, port W trained. -/
def dvOp : Dev := { devUp.setFld F.RLB_STATUS_sealed 0 1 with sys := { devUp.sys with hostTrained := [0], harts := 1 } }

theorem test_witness_jtag :
    devUp.sys.powered = true ∧ (∀ b < 2, let d := dvOp.setFld F.DBG_JTAG_CTRL_enable 0 b
      d.bar0Open 0 = true ∧ d.fld F.DBG_JTAG_CTRL_enable 0 = b) ∧ devUp.bar0Open 0 = false := by decide +kernel

theorem test_witness_mailbox :
    (∀ op ∈ [1, 2, 3, 4, 5, 6, 7, 8, 10], mailboxTakes devUp op) ∧ mailboxTakes (dvPh .shoulder) 9 ∧ ¬ mailboxTakes devUp 9 ∧
    stages [] 0 8192 ∧ stages (List.replicate 256 0) 1 8192 ∧ ¬ stages [] 1 8192 ∧
    (let d := { devUp.setFld F.WDN_MBX_STATUS_busy 0 1 with sys := { devUp.sys with shoulderDrain := true, flashOp := some (0, [0]) } }
     (up d).live = true ∧ d.flag F.WDN_MBX_STATUS_busy 0 = true ∧ d.drained 0 = true) ∧
    devUp.flashShut 0 256 = true ∧ devUp.flashShut 0x400000 256 = false ∧
    NMap.find? State.reset.fuses.keyHash 1 = none ∧ (NMap.find? State.reset.fuses.keyHash 0).isSome = true := by
  unfold mailboxTakes stages; decide +kernel

theorem test_witness_sideband :
    (devUp.sys.powered = true ∧ devUp.sys.phase ≠ .inReset) ∧ State.reset.dev.sys.phase = .inReset ∧
    crcOf 3 (uartHead 0x57 0x20 1 ++ [0]) ≠ crcOf 3 (uartHead 0x52 0x20 1) ∧ crcOf 3 (uartHead 0x52 0x20 1) < 2 ^ 16 := by decide +kernel

theorem test_witness_amendments :
    (∀ c ∈ [0, 1, 3, 4], let d := devUp.setFld F.RLB_AMEND_STATUS_code 0 c; (up d).open_ = true ∧ d.fld F.RLB_AMEND_STATUS_code 0 = c) ∧
    (let r := devUp.amRead; (amRefusal State.reset.fuses r.1 r.2.1 false).isSome = true ∧ r.1.sys = devUp.sys ∧ devUp.sys.amend = none) ∧
    (∀ a ∈ [AmendReq.route 0 [], .repair 0], let d : Dev := { devUp with sys := { devUp.sys with amend := some a } }
      (up d).live = true ∧ d.drained 0 = true ∧ (dv cv).drained 0 = false ∧ d.fld F.RLB_AMEND_COUNT_value 0 < 2 ^ 32 - 1) := by decide +kernel

theorem test_witness_registers :
    laneMapOk [] = true ∧ dvOp.portUp 0 = true ∧ dvOp.sys.harts ≠ 0 ∧ dvOp.bar0Open (2 ^ 26 - 1) = true ∧ dvOp.notP4 = true ∧ dvOp.awake = true ∧
    dvOp.fld F.HIF_STATUS_primary 0 = 0 ∧ (dvOp.setFld F.HIF_STATUS_primary 0 1).fld F.HIF_STATUS_primary 0 = 1 ∧
    plainRegs.length = 18 := by decide +kernel

theorem test_witness_forcedWakes :
    (let d := dvWait (wt true false false) 0 []; (up d).open_ = true ∧ (d.sleeper 0 0).isSome = true ∧ (d.sleeper 0 15).isSome = false) := by
  decide +kernel

theorem test_witness_queueReset : ∀ st_ ∈ [1, 2, 3], let d := (dvQ st_ 1 true { fetched := [cmd0] } []).setFld F.XLT_CTX_STATUS_faulted 1 1
    (up d).open_ = true ∧ queueOk 1 0 = true ∧ d.qState 1 0 = st_ ∧ d.ctxFaulted 1 = true := by decide +kernel

theorem reset_inv : Inv State.reset := by
  refine ⟨by decide +kernel, by rfl, fun k h => ?_, by decide +kernel⟩
  show NMap.find? [(0, Config.factoryKeyHash)] k = none
  simp [NMap.find?]; omega

/-! ### Worked examples of the spec -/

/-- "123456789". -/
def nine : List Byte := [0x31, 0x32, 0x33, 0x34, 0x35, 0x36, 0x37, 0x38, 0x39]
/-- R267: the check and empty columns. -/
theorem test_check_values :
    (List.range 4).map (crcOf · nine) = [0xcbf43926, 0xe3069283, 0x6c40df5f0b497347, 0x29b1] ∧
    (List.range 4).map crcEmpty = [0, 0, 0, 0xffff] := by decide +kernel

/-- "Hops": the route from C037 to C145, and back. -/
theorem test_hops : hops (clusterPos 37) (clusterPos 145) = 9 ∧ hops (clusterPos 145) (clusterPos 37) = 9 := by decide +kernel

/-- "One spread-view address". -/
theorem test_spread_view :
    ({ devUp with parts := [(2, { enabled := true, quads := 0x63, spreadHash := 1 })] } : Dev).spreadLine 2 0x01234da4 =
      some (30 * 2 ^ 23 + 0x1234a4 / 128) := by decide +kernel

/-- "One entry". -/
theorem test_translation_entry :
    leafOk 0x1400000948600007 1 0x7f3a12345678 = true ∧ pteKey 0x1400000948600007 = 5 ∧ leafSize 0x1400000948600007 1 = 21 ∧
    devUp.placeLine 0 0 0x948745678 = none ∧
    ({ devUp with parts := [(0, { enabled := true, quads := 2 ^ 50 - 1 })] } : Dev).placeLine 0 0 0x948745678 =
      some (37 * 2 ^ 23 + 0x8745678 / 128) := by decide +kernel

/-- "One FP4 block with an E8M0 scale": the codes of 40, 0.3 (taken as 3/10 in FP32), −13 and 2.9 over 2^3, E2M1 being format 9. -/
theorem test_fp4_block :
    scaleE8M0 (fmtEmax 9 []) ([0x42200000, 0x3e99999a, 0xc1500000, 0x4039999a].map fmtF32.decode) = 0x82 ∧
    ([0x42200000, 0x3e99999a, 0xc1500000, 0x4039999a].map fun x =>
      let q := scaleQuot 1 0x82 0 (fmtF32.decode x)
      encodeAny 9 [] .rne true false 0 q.signBit q) = [6, 0, 0xb, 1] := by decide +kernel

/-- "FP8 E4M3", format 5, with sat 1 and 0. -/
theorem test_fp8 :
    ([true, false].map fun sat => [0x43960000, 0x43e80000, 0x43fa0000, 0xba83126f, 0xba03126f].map fun x =>
      encodeAny 5 [] .rne sat false 0 (bitAt x 31) (fmtF32.decode x)) =
    [[0x79, 0x7e, 0x7e, 0x81, 0x80], [0x79, 0x7e, 0x7f, 0x81, 0x80]] := by decide +kernel

/-- "One window element". -/
def winEx : Nat :=
  (mvd [(0, 2), (1, 5), (2, 5), (3, 1), (0x18, 56), (0x1c, 56), (0x20, 64), (0x24, 1), (0x40, 28), (0x44, 28), (0x58, 0x33221111)]).toNat
theorem test_window :
    windowOrigin winEx (2 * 64 + 40, 5, 0, 0) = .fill ∧ windowOrigin winEx (360, 5, 0, 0) = .src (11, 0, 40, 0) ∧
    elemBit winEx 1 8 (mSrcSizes winEx) (mSrcStride winEx) (11, 0, 40, 0) = 8 * 100712 ∧
    coordIndex (mDstSizes winEx) (360, 5, 0, 0) = 3240 ∧ scaleBlock 0 (mDstSizes winEx) (360, 5, 0, 0) = 101 := by decide +kernel

/-- "The milestone handles" of system milestone 1,030 and of cluster milestone 100 of C037. -/
theorem test_handles : handleHome 0x0001000000000406 = 200 ∧ handleHome 0x0000250000000064 = 37 ∧ handleIndex 0x0000250000000064 = 100 := by
  decide +kernel

/-! ### One step -/

/-- A command that ends in a next state of which `p` holds. -/
def ran (c : Instr) (s : State) (p : State → Bool) : Bool := match exec c s with | .next t => p t | _ => false
def ranStep (s : State) (p : State → Bool) : Bool := match step s with | .next t => p t | _ => false

/-- "Encoding one instruction": `@!p2 ffma.f32 v10, -v11, u5, v12` on −2 × 3 + 1 in the lanes where P2 is false. -/
theorem test_ffma_word :
    ran (.ffma 0 0 (BitVec.ofNat 56 0xd0a16146211000)) (st { cv with p := [(2, 2)], v := [(11 * 64, 0x40000000), (12 * 64, 0x3f800000)], u := [(5, 0x40400000)] })
      (fun t => match t.dev.convoy? 0 0 with
        | some u => u.vr 10 0 == 0xc0a00000 && u.vr 10 1 == 0 && u.pc == 0x1008
        | none => false) = true := by decide +kernel

/-- Per-lane words of a register, lane 0 first. -/
def lanes (r : Nat) (l : List Nat) : NMap (BitVec 32) := l.zipIdx.map fun x => (64 * r + x.2, BitVec.ofNat 32 x.1)
/-- "Combined add": lanes 0 to 3 on X at 64, 4 to 7 on Y at 128, in the cluster's store. -/
theorem test_atomic_add :
    let v : Convoy := { cv with active := 0xff, live := 0xff, v := lanes 1 [64, 64, 64, 64, 128, 128, 128, 128] ++ lanes 2 [5, 7, 1, 2, 3, 3, 3, 3] }
    ran (.atomAdd 0 0 (wd [(44, 3), (31, 1), (30, 1), (27, 2), (15, 2), (7, 1), (0, 1)])) (up { dv v with stores := [(64, 100)] })
      (fun t => match t.dev.convoy? 0 0 with
        | some u => (List.range 8).map (u.vr 3) == [100, 105, 112, 113, 0, 3, 6, 9] &&
            NMap.getD (α := Byte) t.dev.stores 64 0 == 115 && NMap.getD (α := Byte) t.dev.stores 128 0 == 12
        | none => false) = true := by decide +kernel

/-- "Serialised compare-and-swap" on Z at 64. -/
theorem test_atomic_cas :
    let v : Convoy := { cv with active := 0xf, live := 0xf, u := [(0, 64)], v := lanes 1 [7, 7, 9, 12] ++ lanes 2 [9, 20, 12, 0] }
    ran (.atomCas 0 0 (wd [(44, 3), (27, 2), (15, 2), (8, 1), (7, 1), (0, 1)])) (up { dv v with stores := [(64, 7)] })
      (fun t => match t.dev.convoy? 0 0 with
        | some u => (List.range 4).map (u.vr 3) == [7, 9, 9, 12] && NMap.getD (α := Byte) t.dev.stores 64 0 == 0
        | none => false) = true := by decide +kernel

/-- R111: 32-bit addition wraps; R113: a lane outside the guard keeps its value. -/
theorem test_add_wraps :
    ran (.iadd 0 0 (wd [(55, 1), (44, 3), (37, 1), (30, 2), (14, 1)]))
      (st { cv with p := [(0, 1)], v := lanes 1 [0xffffffff, 4] ++ lanes 2 [1, 5] ++ lanes 3 [8, 8] })
      (fun t => match t.dev.convoy? 0 0 with | some u => u.vr 3 0 == 0 && u.vr 3 1 == 8 | none => false) = true := by decide +kernel

/-- R97, R98: a software trap enters the launch's handler with its record. -/
theorem test_trap :
    ran (.trap 0 0 (wd [(21, 5)])) (st cv) (fun t => match t.dev.convoy? 0 0 with
      | some u => u.pc == 0x2000 && u.inHandler && (u.trap.map (·.pc)) == some 0x1000
      | none => false) = true := by decide +kernel

/-- "A nested split with an exit": lanes 0 to 31 take the path at 0x1100, the others wait at 0x1008. -/
theorem test_split :
    ran (.jsplit 0 0 (wd [(48, 1), (21, 0x100 / 8), (1, 0x200 / 8)])) (st { cv with p := [(1, 0xffffffff)] })
      (fun t => match t.dev.convoy? 0 0 with
        | some u => u.pc == 0x1100 && u.active == 0xffffffff && u.stack == [⟨0xffffffff00000000, 0x1008, 0x1200, false, 0xffffffff⟩]
        | none => false) = true := by decide +kernel

/-- R62: the release of RESET_N with PG_IN high starts the sequence. -/
theorem test_reset_release :
    ran (.resetNRelease false) { State.reset with dev := { State.reset.dev with sys := { State.reset.dev.sys with pgHigh := true } } }
      (fun t => t.dev.sys.phase == .firmware && t.dev.sys.startups == 1) = true := by decide +kernel

/-- The command in front runs and leaves the queue; the table gives its rows no bits. -/
theorem test_step :
    ranStep { State.reset with pending := [.refclkLoss, .idcode] } (fun t => t.pending == [.idcode] && !t.dev.sys.refclk) = true ∧
    ranStep State.reset (fun t => t.dev.time == 10) = true ∧ decodeTableWord 8 0x10 = none ∧ State.reset.withFetchWord 8 0x10 = State.reset := by
  refine ⟨by decide +kernel, by decide +kernel, rfl, rfl⟩

/-- A command that names hardware that is not there stops. -/
theorem test_ill_formed_stops : exec (.perstAssert 2) State.reset = .fault .illFormed := by rfl

/-! ### Ill-formed commands, one for each check -/

theorem test_ill_formed_cores :
    Instr.wellFormed (.iadd 1600 0 0) = false ∧ Instr.wellFormed (.iadd 0 16 0) = false ∧ Instr.wellFormed (.stageComplete 1600) = false ∧
    Instr.wellFormed (.mmaComplete 0 [(64, 0, 0)]) = false ∧ Instr.wellFormed (.replayComplete 0 [(0, 33, 0)]) = false ∧
    Instr.wellFormed (.cvyMaskWrite 0 0 4 0) = false ∧ Instr.wellFormed (.illegalInstruction 0 0 (BitVec.ofNat 64 (0x10 * 2 ^ 56))) = false ∧
    Instr.wellFormed (.storeTrackerTimeout 0 4) = false ∧ Instr.wellFormed (.msForceWake 256 0 0) = false ∧
    Instr.wellFormed (.marginCheck [1600]) = false := by decide +kernel

theorem test_ill_formed_memory :
    Instr.wellFormed (.copy 208 0) = false ∧ Instr.wellFormed (.cvuGo 16) = false ∧ Instr.wellFormed (.refresh 200 []) = false ∧
    Instr.wellFormed (.refresh 0 [(0, 72, 0)]) = false ∧ Instr.wellFormed (.patrolScrub 0 (2 ^ 23)) = false ∧ Instr.wellFormed (.rowClose 0 64) = false ∧
    Instr.wellFormed (.getS 224 0 0) = false ∧ Instr.wellFormed (.notify 0 (2 ^ 40)) = false ∧ Instr.wellFormed (.forwardedRead (2 ^ 40)) = false ∧
    Instr.wellFormed (.invalidate 0 224) = false ∧ Instr.wellFormed (.snoopRead 299 0 0) = false ∧ Instr.wellFormed (.l2Prefetch 0 0 64) = false ∧
    Instr.wellFormed (.l2Flush 200) = false ∧ Instr.wellFormed (.ownershipHoldExpiry 224 0) = false := by decide +kernel

theorem test_ill_formed_waits_and_translation :
    Instr.wellFormed (.milestoneTest 0 (2 ^ 63)) = false ∧ Instr.wellFormed (.waitRegistration (.command 64 0 0 0)) = false ∧
    Instr.wellFormed (.watchdogHang (.barrier 0 16 0)) = false ∧ Instr.wellFormed (.map 16) = false ∧
    Instr.wellFormed (.requestTimeout 0 (2 ^ 16)) = false ∧ Instr.wellFormed (.invalidationRange 0 65537) = false ∧
    Instr.wellFormed (.clearFault 64) = false ∧ Instr.wellFormed (.keyLoad 64) = false := by decide +kernel

theorem test_ill_formed_host :
    Instr.wellFormed (.doorbell 64 0 0) = false ∧ Instr.wellFormed (.contextConfigWrite 64 0) = false ∧ Instr.wellFormed (.bar4Read 0 (2 ^ 38) 1) = false ∧
    Instr.wellFormed (.bar4Write 2 0 [0]) = false ∧ Instr.wellFormed (.atomicop 0 2 0 4 0 0) = false ∧ Instr.wellFormed (.hostAccessFailure 0 (2 ^ 48)) = false ∧
    Instr.wellFormed (.hostReadCompletion 0 127 [0, 0]) = false ∧ Instr.wellFormed (.slowdownPeriod 0 1 2 0) = false ∧ Instr.wellFormed (.steal 200 0) = false ∧
    Instr.wellFormed (.registerWrite 3 0 0 4 0 false []) = false ∧ Instr.wellFormed (.hostPortTrained 0 2 1 false) = false := by decide +kernel

theorem test_ill_formed_links :
    Instr.wellFormed (.linkEnable 32) = false ∧ Instr.wellFormed (.linkTrainingDone 0 [5]) = false ∧ Instr.wellFormed (.ident 0 0 0 0 0 0 385 0) = false ∧
    Instr.wellFormed (.data 0 0 3) = false ∧ Instr.wellFormed (.put 0 4) = false ∧ Instr.wellFormed (.ethAck 32 []) = false ∧ Instr.wellFormed (.ackTimer 0 256) = false ∧
    Instr.wellFormed (.bitFlips 0 5 1) = false ∧ Instr.wellFormed (.withhold 0 1024) = false ∧ Instr.wellFormed (.delay 0 0) = false ∧
    Instr.wellFormed (.prbsLock 0 5) = false := by decide +kernel

theorem test_ill_formed_power_and_start_up :
    Instr.wellFormed (.retune (2 ^ 13)) = false ∧ Instr.wellFormed (.powerMeasurement 65536000) = false ∧ Instr.wellFormed (.sensorRead [(200, 0)] [] []) = false ∧
    Instr.wellFormed (.c1Entry 200) = false ∧ Instr.wellFormed (.entryPhaseEnd 201) = false ∧ Instr.wellFormed (.wakeTolWrite 0 (2 ^ 20)) = false ∧
    Instr.wellFormed (.vaultPowerDown 200) = false ∧ Instr.wellFormed (.approveNow 32 []) = false ∧ Instr.wellFormed (.heartbeat 2) = false ∧
    Instr.wellFormed (.perstAssert 2) = false ∧ Instr.wellFormed (.selfTestComplete (tested [10] 0)) = false ∧ Instr.wellFormed (.lpddrTrainingComplete []) = false ∧
    Instr.wellFormed (.causewayRowPortLoss 10) = false ∧ Instr.wellFormed (.smbusWrite (2 ^ 16) []) = false ∧ Instr.wellFormed (.uartWrite 0 [] 0) = false ∧
    Instr.wellFormed (.uartRead 0 257 0) = false ∧ Instr.wellFormed (.amendmentDrainComplete [(0, [152])]) = false ∧
    Instr.wellFormed (.dbgAccessRead (2 ^ 26) true) = false := by decide +kernel

end Sys2Proof.Tests
end

/-! The state after reset (O59). -/

namespace Sys2Proof.Spec

open Sys2Proof Sys2Proof.Machine

/-- R42: at shipment slot 0 alone holds a key. -/
theorem keyHash_shipped_of_pos {k : Nat} (h : 0 < k) : NMap.find? Fuses.shipped.keyHash k = none := by
  simp [Fuses.shipped, NMap.find?, Nat.ne_of_lt h]

theorem inv_reset : Inv State.reset :=
  ⟨rfl, rfl, fun _ hk => keyHash_shipped_of_pos (by omega), Nat.zero_le _⟩

end Sys2Proof.Spec

namespace Sys2Proof.Machine

/-- R9: where no register has been written, each reads at its reset value. -/
theorem Dev.reg_of_regs_nil {d : Dev} (h : d.regs = []) (r : Reg) (i : Nat) : d.reg r i = (r.resetValue i).toNat := by
  rw [Dev.reg, h, NMap.getD, NMap.find?_nil, Option.getD_none]

theorem Dev.fld_of_regs_nil {d : Dev} (h : d.regs = []) (f : Fld) (i : Nat) :
    d.fld f i = bits (f.reg.resetValue i).toNat f.hi f.lo := by
  rw [Dev.fld, Dev.reg_of_regs_nil h]

/-- Settles O59: reset writes no register and lists nothing, so every register stands at its reset value and every map is
empty. -/
theorem resetState : Obligations.ResetState := by
  unfold Obligations.ResetState
  have hregs : State.reset.dev.regs = [] := rfl
  refine ⟨rfl, rfl, rfl, Dev.reg_of_regs_nil hregs, ?root, fun c _ => ?divider, fun _ n => NMap.find?_nil n, fun _ => rfl,
    fun a q => ?queue, rfl, rfl, Spec.inv_reset⟩
  case root => simp [Dev.root, Dev.fld_of_regs_nil hregs, Reg.resetValue, bits]
  case divider => simp [Dev.fld_of_regs_nil hregs, Reg.resetValue, bits]
  case queue => simp [Dev.qState, Dev.fld_of_regs_nil hregs, Reg.resetValue, bits]

end Sys2Proof.Machine

/-! What a register write does, said once for each level of the path: the bits a register stores, the register at an
offset, the mailbox window, and the sources (O55). -/

namespace Sys2Proof.Machine

/-! ### The bits a register stores (R7) -/

theorem bitAt_eq_testBit (n i : Nat) : bitAt n i = n.testBit i := by
  simp [bitAt, Nat.testBit, Nat.and_one_is_mod, Nat.and_comm]

theorem testBit_mergeBits (old v m b : Nat) :
    (mergeBits old v m).testBit b = if m.testBit b then v.testBit b else old.testBit b := by
  simp only [mergeBits, Nat.testBit_or, Nat.testBit_xor, Nat.testBit_and]
  cases m.testBit b <;> simp

/-- A write that acts stores the written bits of RW fields and clears the W1C bits it writes 1 to. -/
theorem Reg.testBit_stored (r : Reg) (old : Nat) {v m b : Nat} (hm : m.testBit b = true)
    (hd : r.mask (· == .RW) &&& r.mask (· == .W1C) = 0) :
    (r.stored old ⟨v, m, true⟩).testBit b =
      if (r.mask (· == .RW)).testBit b then v.testBit b
      else if (r.mask (· == .W1C)).testBit b then old.testBit b && !v.testBit b else old.testBit b := by
  have hb : ((r.mask (· == .RW)).testBit b && (r.mask (· == .W1C)).testBit b) = false := by
    rw [← Nat.testBit_and, hd, Nat.zero_testBit]
  simp only [Reg.stored, if_true, Nat.testBit_xor, Nat.testBit_and, testBit_mergeBits, hm, Bool.true_and]
  revert hb
  cases (r.mask (· == .RW)).testBit b <;> cases (r.mask (· == .W1C)).testBit b <;> simp
  cases old.testBit b <;> simp

/-- R53: a register without RW and W1C fields stores nothing. -/
theorem Reg.stored_of_masks_zero {r : Reg} (old : Nat) (w : RegPut) (hw : r.mask (· == .RW) = 0) (hc : r.mask (· == .W1C) = 0) :
    r.stored old w = old := by
  simp [Reg.stored, mergeBits, hw, hc]

/-! ### The register at an offset (R574, R575) -/

theorem Reg.row_aligned (r : Reg) : r.row.off % 4 = 0 ∧ r.row.stride % 4 = 0 := by cases r <;> decide

/-- A block's copy begins at an aligned offset, at or below every offset in it. -/
theorem bar0Block_base {off copy base : Nat} {b : Block} (h : bar0Block off = some (b, copy, base)) :
    base % 4 = 0 ∧ base ≤ off := by
  unfold bar0Block at h
  extract_lets dev g b0 k c b1 o s r at h
  obtain ⟨hlow, h⟩ | ⟨_, h⟩ := ite_eq_iff.mp h
  · have hdev : ∀ n < 8, ∀ x, dev[n]? = some x → x.2 = 0x1000 * n := by decide
    obtain ⟨x, hx, he⟩ := Option.map_eq_some_iff.mp h
    have hbase : x.2 = base := congrArg (·.2.2) he
    have := hdev _ (by omega) x hx
    omega
  · simp only [ite_eq_iff, Option.some.injEq, Prod.mk.injEq, reduceCtorEq, and_false, or_false, Bool.and_eq_true,
      decide_eq_true_eq] at h
    omega

/-- What the register at an offset of a block is: one of the block's, which the offset lies in. -/
theorem regIn_spec {b : Block} {o n base : Nat} {r : Reg} (h : regIn b o = some (r, n, base)) :
    r.block = b ∧ base % 4 = 0 ∧ base ≤ o ∧ o < base + r.row.bytes := by
  unfold regIn at h
  obtain ⟨q, hq, h⟩ := List.exists_of_findSome?_eq_some h
  dsimp only at h
  split at h
  · rename_i hc
    simp only [Option.some.injEq, Prod.mk.injEq] at h
    obtain ⟨rfl, rfl, rfl⟩ := h
    simp only [Bool.and_eq_true, decide_eq_true_eq] at hc
    obtain ⟨⟨hlo, _⟩, hin⟩ := hc
    obtain ⟨ho, hs⟩ := q.row_aligned
    have hmul : (o - q.row.off) / q.row.stride * q.row.stride % 4 = 0 := by rw [Nat.mul_mod, hs]; simp
    have hdiv := Nat.div_add_mod' (o - q.row.off) q.row.stride
    refine ⟨by simpa using (List.mem_filter.mp hq).2, by omega, by omega, by omega⟩
  · cases h

/-- The register at an offset of BAR0 is of the block there, and the offset lies in it. -/
theorem Dev.regAt_spec {d : Dev} {off i base : Nat} {r : Reg} (h : d.regAt off = some (r, i, base)) :
    (∃ copy b0, bar0Block off = some (r.block, copy, b0)) ∧ base % 4 = 0 ∧ base ≤ off ∧ off < base + r.row.bytes := by
  unfold Dev.regAt at h
  split at h
  · cases h
  · rename_i b copy b0 hb
    split at h
    · obtain ⟨⟨q, n, o⟩, hq, he⟩ := Option.map_eq_some_iff.mp h
      simp only [Prod.mk.injEq] at he
      obtain ⟨rfl, rfl, rfl⟩ := he
      obtain ⟨rfl, ha, hle, hlt⟩ := regIn_spec hq
      obtain ⟨ha0, hle0⟩ := bar0Block_base hb
      exact ⟨⟨copy, b0, hb⟩, by omega, by omega, by omega⟩
    · cases h

/-! ### Writes by offset -/

theorem Dev.bar0Write_misaligned (d : Dev) (f : Fuses) (e : WriteEnv) {off n : Nat} (v : Nat)
    (h : ¬ (n = 4 ∧ off % 4 = 0 ∨ n = 8 ∧ off % 8 = 0)) : d.bar0Write f e off n v = d := by
  have h4 : ¬ (n = 4 ∧ off % 4 = 0) := fun x => h (.inl x)
  have h8 : ¬ (n = 8 ∧ off % 8 = 0) := fun x => h (.inr x)
  simp [Dev.bar0Write, h4, h8]

theorem Dev.bar0Write_word (d : Dev) (f : Fuses) (e : WriteEnv) {off : Nat} (v : Nat) (h : off % 4 = 0) :
    d.bar0Write f e off 4 v = d.writeAt f e off 4 v := by
  simp [Dev.bar0Write, h]

/-- Where no register lies a word written is lost. -/
theorem Dev.bar0Write_unmapped {d : Dev} (f : Fuses) (e : WriteEnv) {off : Nat} (v : Nat) (h : d.regAt off = none) :
    d.bar0Write f e off 4 v = d := by
  by_cases ha : off % 4 = 0
  · rw [Dev.bar0Write_word _ _ _ _ ha]; simp [Dev.writeAt, h]
  · exact Dev.bar0Write_misaligned _ _ _ _ (by omega)

theorem Dev.touchWindow_of_cluster_none (d : Dev) {b : Block} {copy : Nat} (h : b.cluster copy = none) :
    d.touchWindow b copy = d := by
  simp [Dev.touchWindow, h]

/-- A word written to a register of 32 bits outside the clusters' windows: the write is counted where the register holds a
sealed field, and then put. -/
theorem Dev.bar0Write_reg32 {d : Dev} (f : Fuses) (e : WriteEnv) {off i base : Nat} (v : Nat) {r : Reg}
    (h : d.regAt off = some (r, i, base)) (ha : off % 4 = 0) (hr : r.row.bytes = 4) (hc : ∀ copy, r.block.cluster copy = none) :
    d.bar0Write f e off 4 v =
      (d.when (r.mask (· == .RWL) != 0) (·.lockedWrite off)).regPut f e r i ⟨v % 2 ^ 32, 2 ^ 32 - 1, true⟩ := by
  obtain ⟨⟨copy, b0, hb⟩, hal, hle, hlt⟩ := Dev.regAt_spec h
  have hoff : off - base = 0 := by omega
  rw [Dev.bar0Write_word _ _ _ _ ha]
  simp [Dev.writeAt, h, hb, Dev.touchWindow_of_cluster_none _ (hc copy), Dev.regWrite, hr, hoff]

/-! ### Plain registers, whose writes only store, and a sealed one (R7, R53) -/

/-- Registers whose writes have no effect but on what they hold: the plain ones, and a sealed one. -/
def storingRegs : List Reg := .MS_WDOG_PERIOD :: Spec.plainRegs

theorem regPut_storingRegs (d : Dev) (f : Fuses) (e : WriteEnv) (i : Nat) (w : RegPut) :
    ∀ r ∈ storingRegs, d.regPut f e r i w = d.setReg r i (r.stored (d.reg r i) w) := by
  simp only [storingRegs, Spec.plainRegs, List.forall_mem_cons, List.not_mem_nil, IsEmpty.forall_iff, implies_true, and_true]
  and_intros <;> rfl

theorem cluster_storingRegs (copy : Nat) : ∀ r ∈ storingRegs, r.block.cluster copy = none := by
  simp only [storingRegs, Spec.plainRegs, List.forall_mem_cons, List.not_mem_nil, IsEmpty.forall_iff, implies_true, and_true]
  and_intros <;> rfl

theorem storingRegs_row : ∀ r ∈ storingRegs, r.row.bytes = 4 := by decide

theorem plainRegs_masks : ∀ r ∈ Spec.plainRegs,
    r.mask (· == .RWL) = 0 ∧ r.mask (· == .RW) &&& r.mask (· == .W1C) = 0 := by decide

/-- R7: a word written to a plain register changes that register alone: its RW bits are stored and its W1C bits cleared. -/
theorem Dev.bar0Write_plain {d : Dev} (f : Fuses) (e : WriteEnv) {off i base : Nat} (v : Nat) {r : Reg}
    (h : d.regAt off = some (r, i, base)) (ha : off % 4 = 0) (hp : r ∈ Spec.plainRegs) :
    d.onlyRegsAt (d.bar0Write f e off 4 v) [r] i ∧ ∀ b < 32, bitAt ((d.bar0Write f e off 4 v).reg r i) b =
      if bitAt (r.mask (· == .RW)) b then bitAt v b
      else if bitAt (r.mask (· == .W1C)) b then bitAt (d.reg r i) b && !bitAt v b else bitAt (d.reg r i) b := by
  have hm : r ∈ storingRegs := List.mem_cons_of_mem _ hp
  obtain ⟨hl, hd⟩ := plainRegs_masks r hp
  have hw : d.bar0Write f e off 4 v = d.setReg r i (r.stored (d.reg r i) ⟨v % 2 ^ 32, 2 ^ 32 - 1, true⟩) := by
    rw [Dev.bar0Write_reg32 f e v h ha (storingRegs_row r hm) (fun c => cluster_storingRegs c r hm), hl]
    exact regPut_storingRegs d f e i _ r hm
  rw [hw]
  refine ⟨⟨rfl, fun q j hq => Dev.reg_setReg_ne _ _ fun x => hq ⟨by simp [x.1], x.2⟩⟩, fun b hb => ?_⟩
  have hmask : (2 ^ 32 - 1).testBit b = true := by rw [Nat.testBit_two_pow_sub_one]; exact decide_eq_true hb
  simp only [bitAt_eq_testBit, Dev.reg_setReg_same, Nat.testBit_mod_two_pow, Reg.testBit_stored r _ hmask hd, hb,
    show b < 64 by omega, decide_true, Bool.true_and]

theorem Dev.fld_of_reg_eq {d e : Dev} {f : Fld} {i : Nat} (h : e.reg f.reg i = d.reg f.reg i) : e.fld f i = d.fld f i := by
  rw [Dev.fld, h, Dev.fld]

/-- A count below its most takes one more. -/
theorem Dev.fld_tally_one (d : Dev) {f : Fld} (i : Nat) (hok : f.ok = true) (hw : f.hi + 1 - f.lo ≠ 64)
    (h : d.fld f i < 2 ^ (f.hi + 1 - f.lo) - 1) : (d.tally f i).fld f i = d.fld f i + 1 := by
  unfold Dev.tally
  rw [Dev.fld_setFld_same _ _ _ _ hok, if_neg hw, satAdd, Nat.min_eq_left (by omega), Nat.mod_eq_of_lt (by omega)]

/-- R53: a locked write is counted with its offset. -/
theorem Dev.lockedWrite_counted {d : Dev} {off : Nat} (hoff : off < 2 ^ 26)
    (h : d.fld F.RLB_LOCKED_WRITE_COUNT_value 0 < 2 ^ 32 - 1) :
    d.onlyRegs (d.lockedWrite off) [.RLB_LOCKED_WRITE_COUNT, .RLB_LOCKED_WRITE_ADDR] ∧
      (d.lockedWrite off).fld F.RLB_LOCKED_WRITE_COUNT_value 0 = d.fld F.RLB_LOCKED_WRITE_COUNT_value 0 + 1 ∧
      (d.lockedWrite off).fld F.RLB_LOCKED_WRITE_ADDR_offset 0 = off := by
  refine ⟨Dev.onlyRegs_trans (Dev.onlyRegs_setFld _ _ _ (by simp)) (Dev.onlyRegs_setFld _ _ _ (by simp)), ?_, ?_⟩
  · exact (Dev.fld_setFld_ne _ _ (by simp)).trans (Dev.fld_tally_one _ _ rfl (by decide) h)
  · exact (Dev.fld_setFld_same _ _ _ _ rfl).trans (Nat.mod_eq_of_lt hoff)

/-- Writing back what a register holds changes nothing that reads. -/
theorem Dev.onlyRegs_setReg_reg (d : Dev) (r : Reg) (i : Nat) : d.onlyRegs (d.setReg r i (d.reg r i)) [] := by
  refine ⟨rfl, fun q j _ => ?_⟩
  by_cases h : q = r ∧ j = i
  · rw [h.1, h.2, Dev.reg_setReg_same, Nat.mod_eq_of_lt (Dev.reg_lt ..)]
  · exact Dev.reg_setReg_ne _ _ h

/-- R53: a word written to a sealed register is counted with its offset, and the register stays. -/
theorem Dev.bar0Write_sealed {d : Dev} (f : Fuses) (e : WriteEnv) {off i base : Nat} (v : Nat)
    (h : d.regAt off = some (.MS_WDOG_PERIOD, i, base)) (ha : off % 4 = 0) (hoff : off < 2 ^ 26)
    (hc : d.fld F.RLB_LOCKED_WRITE_COUNT_value 0 < 2 ^ 32 - 1) :
    d.onlyRegs (d.bar0Write f e off 4 v) [.RLB_LOCKED_WRITE_COUNT, .RLB_LOCKED_WRITE_ADDR] ∧
      (d.bar0Write f e off 4 v).fld F.RLB_LOCKED_WRITE_COUNT_value 0 = d.fld F.RLB_LOCKED_WRITE_COUNT_value 0 + 1 ∧
      (d.bar0Write f e off 4 v).fld F.RLB_LOCKED_WRITE_ADDR_offset 0 = off := by
  have hm : .MS_WDOG_PERIOD ∈ storingRegs := List.mem_cons_self ..
  have hw : d.bar0Write f e off 4 v =
      (d.lockedWrite off).setReg .MS_WDOG_PERIOD i ((d.lockedWrite off).reg .MS_WDOG_PERIOD i) := by
    rw [Dev.bar0Write_reg32 f e v h ha rfl (fun c => cluster_storingRegs c _ hm), regPut_storingRegs _ f e i _ _ hm,
      Reg.stored_of_masks_zero _ _ (by decide) (by decide)]
    rfl
  have hback := Dev.onlyRegs_setReg_reg (d.lockedWrite off) .MS_WDOG_PERIOD i
  obtain ⟨honly, hcount, haddr⟩ := Dev.lockedWrite_counted hoff hc
  rw [hw]
  refine ⟨Dev.onlyRegs_trans honly ⟨hback.1, fun q j _ => hback.2 q j List.not_mem_nil⟩, ?_, ?_⟩
  · exact (Dev.fld_of_reg_eq (hback.2 _ _ List.not_mem_nil)).trans hcount
  · exact (Dev.fld_of_reg_eq (hback.2 _ _ List.not_mem_nil)).trans haddr

/-! ### The mailbox window (R70, R584) -/

theorem leBytes_length (n k : Nat) : (leBytes n k).length = k := by
  induction k generalizing n with
  | zero => rfl
  | succ k ih => simp [leBytes, ih]

theorem getD_leBytes (n : Nat) {k j : Nat} (h : j < k) : (leBytes n k).getD j 0 = BitVec.ofNat 8 (n >>> (8 * j)) := by
  induction k generalizing n j with
  | zero => omega
  | succ k ih =>
    cases j with
    | zero => rfl
    | succ j =>
      rw [leBytes, List.getD_cons_succ, ih _ (by omega), Nat.shiftRight_eq_div_pow, Nat.shiftRight_eq_div_pow,
        show 256 = 2 ^ 8 from rfl, Nat.div_div_eq_div_mul, ← Nat.pow_add]
      congr 3; omega

/-- The device with another mailbox window. -/
def Dev.withMbx (d : Dev) (m : NMap Byte) : Dev := { d with sys := { d.sys with mbx := m } }

/-- Bytes written one by one to the capability's data window lie there in order. -/
theorem foldl_mbxPut_window (f : Fuses) (d : Dev) (bs : List Byte) {off k : Nat} (hlo : 0x20 ≤ off + k)
    (hhi : off + k + bs.length ≤ 0x120) :
    ((bs.zipIdx k).map fun b => (off + b.2, b.1)).foldl mbxPut (f, d) =
      (f, d.withMbx (putBytes d.sys.mbx (off + k - 0x20) bs)) := by
  induction bs generalizing d k with
  | nil => rfl
  | cons b bs ih =>
    rw [List.length_cons] at hhi
    have hput : mbxPut (f, d) (off + k, b) = (f, d.fillWindow (off + k - 0x20) [b]) := by
      have h1 : ¬ (off + k < 8 ∨ off + k ≥ 0x120) := by omega
      simp [mbxPut, h1, hlo]
    rw [List.zipIdx_cons, List.map_cons, List.foldl_cons, hput, ih _ (by omega) (by omega),
      show off + (k + 1) - 0x20 = off + k - 0x20 + 1 by omega]
    rfl

/-- The window after a word written at `a`: the word's bytes, least significant first, and the others as before. -/
theorem windowByte_withMbx_word (d : Dev) (a v i : Nat) :
    Spec.windowByte (d.withMbx (putBytes d.sys.mbx a (leBytes v 4))) i =
      if a ≤ i ∧ i < a + 4 then BitVec.ofNat 8 (v >>> (8 * (i - a))) else Spec.windowByte d i := by
  have h : Spec.windowByte (d.withMbx (putBytes d.sys.mbx a (leBytes v 4))) i =
      if a ≤ i ∧ i < a + (leBytes v 4).length then (leBytes v 4).getD (i - a) 0 else Spec.windowByte d i := getD_putBytes ..
  rw [h, leBytes_length]
  split
  · exact getD_leBytes v (by omega)
  · rfl

/-- R70: a word written through a port to the data window. -/
theorem mbxCfgWrite_window (f : Fuses) (d : Dev) {src off : Nat} (v : Nat) (hs : src < 2) (hp : d.portUp src = true)
    (ha : off % 4 = 0) (hlo : 0x20 ≤ off) (hhi : off < 0x120) :
    mbxCfgWrite src off 4 v (f, d) = (f, d.withMbx (putBytes d.sys.mbx (off - 0x20) (leBytes v 4))) := by
  have h := foldl_mbxPut_window f d (leBytes v 4) (off := off) (k := 0) (by omega) (by rw [leBytes_length]; omega)
  simp only [mbxCfgWrite, hs, hp, ha, decide_true, Bool.and_self, if_true]
  exact h

theorem mbxCfgWrite_refused (f : Fuses) (d : Dev) {src off n : Nat} (v : Nat)
    (h : ¬ (src < 2 ∧ d.portUp src = true ∧ n = 4 ∧ off % 4 = 0)) : mbxCfgWrite src off n v (f, d) = (f, d) := by
  simp only [mbxCfgWrite, Bool.and_eq_true, decide_eq_true_eq, and_assoc]
  exact if_neg h

/-! ### The sources (R414, R441) -/

/-- Does a source reach the device: a host port that is up, or a Qorriop core where one has started. -/
def Dev.srcUp (d : Dev) (src : Nat) : Prop := if src < 2 then d.portUp src = true else d.sys.harts ≠ 0

theorem Dev.srcUp_iff (d : Dev) (src : Nat) :
    (if src < 2 then d.portUp src else d.sys.harts != 0) = true ↔ d.srcUp src := by
  unfold Dev.srcUp; split <;> simp

section
variable {d : Dev} (f : Fuses) (e : WriteEnv) {src off n : Nat} (v : Nat)

theorem Dev.writeFrom_bar0_shut (h : ¬ (d.srcUp src ∧ d.bar0Open off = true)) : d.writeFrom f e src 0 off n v = d := by
  rw [← Dev.srcUp_iff] at h
  unfold Dev.writeFrom
  generalize (if src < 2 then d.portUp src else d.sys.harts != 0) = up at h
  have hshut : (!up || !d.bar0Open off) = true := by
    rw [← Bool.not_and, Bool.not_eq_true', ← Bool.not_eq_true, Bool.and_eq_true]; exact h
  simp only [if_true, hshut]

theorem Dev.writeFrom_bar0_other (hu : d.srcUp src) (ho : d.bar0Open off = true)
    (hp : ¬ (src = 2 ∨ d.fld F.HIF_STATUS_primary 0 = src)) (hs : src < 3) :
    d.writeFrom f e src 0 off n v = d.barWake.count F.HIF_DROPPED_WRITES_count 0 := by
  obtain ⟨h2, hp⟩ := not_or.mp hp
  have hdrop : (src < 2 && d.fld F.HIF_STATUS_primary 0 != src) = true := by
    rw [Bool.and_eq_true, bne_iff_ne]; exact ⟨decide_eq_true (by omega), hp⟩
  rw [← Dev.srcUp_iff] at hu
  simp only [Dev.writeFrom, hu, ho, hdrop, Bool.not_true, Bool.or_self, Bool.false_eq_true, if_false, if_true]

theorem Dev.writeFrom_bar0_primary (hu : d.srcUp src) (ho : d.bar0Open off = true)
    (hp : src = 2 ∨ d.fld F.HIF_STATUS_primary 0 = src) (hw : d.notP4 = true) :
    d.writeFrom f e src 0 off n v = d.bar0Write f e off n v := by
  have hkept : (src < 2 && d.fld F.HIF_STATUS_primary 0 != src) = false := by
    rcases hp with rfl | hp
    · rfl
    · rw [hp, bne_self_eq_false, Bool.and_false]
  rw [← Dev.srcUp_iff] at hu
  simp only [Dev.writeFrom, hu, ho, hkept, Dev.barWake_of_notP4 hw, Bool.not_true, Bool.or_self, Bool.false_eq_true, if_false,
    if_true]

theorem Dev.writeFrom_page_shut (h : ¬ (d.srcUp src ∧ d.awake = true)) : d.writeFrom f e src 1 off n v = d := by
  rw [← Dev.srcUp_iff] at h
  simp only [Dev.writeFrom, Nat.one_ne_zero, if_false, Bool.and_eq_true]
  exact if_neg h

theorem Dev.writeFrom_page (hu : d.srcUp src) (ha : d.awake = true) (hw : d.notP4 = true) :
    d.writeFrom f e src 1 off n v = d.pageWrite f e off n v := by
  rw [← Dev.srcUp_iff] at hu
  simp only [Dev.writeFrom, Nat.one_ne_zero, if_false, hu, ha, Bool.and_self, if_true, Dev.barWake_of_notP4 hw]

end

/-! ### REGISTER_WRITE -/

section
variable {s : State} {src off n : Nat} {v : Word} {wfi : Bool} {lanes : List (Nat × List Nat)} {e : Dev}

/-- The bytes of each space that `writeOk` takes a write to: BAR0, the queue pages and the mailbox capability. -/
def spaceSize : Nat → Nat
  | 0 => 2 ^ 26
  | 1 => 2 ^ 24
  | _ => 0x120

theorem writeOk_of_lt {space : Nat} (hs : src < 3) (hp : space < 3) (h1 : 1 ≤ n) (h8 : n ≤ 8) (hl : laneMapOk lanes = true)
    (ho : off < spaceSize space) : writeOk src space off n ⟨wfi, lanes⟩ = true := by
  simp only [writeOk, Bool.and_eq_true, decide_eq_true_eq]
  refine ⟨⟨⟨⟨⟨hs, hp⟩, h1⟩, h8⟩, hl⟩, ?_⟩
  match space with
  | 0 | 1 | _ + 2 => exact ho

/-- A write of BAR0 or of the queue pages ends as its source's write leaves the device. -/
theorem State.ends_registerWrite {space : Nat} (hok : writeOk src space off n ⟨wfi, lanes⟩ = true) (hs : space ≠ 2)
    (h : s.dev.writeFrom s.fuses ⟨wfi, lanes⟩ src space off n v.toNat = e) :
    s.ends (.registerWrite src space off n v wfi lanes) e := by
  show execRegisterWrite src space off n v wfi lanes s = .next (s.setDev e.settle)
  unfold execRegisterWrite
  refine State.runSys_next.mpr ⟨hok, ?_⟩
  simp only [if_neg hs, h]
  rfl

theorem State.ends_registerWrite_cap (hok : writeOk src 2 off n ⟨wfi, lanes⟩ = true)
    (h : mbxCfgWrite src off n v.toNat (s.fuses, s.dev) = (s.fuses, e)) :
    s.ends (.registerWrite src 2 off n v wfi lanes) e := by
  show execRegisterWrite src 2 off n v wfi lanes s = .next (s.setDev e.settle)
  unfold execRegisterWrite
  refine State.runSys_next.mpr ⟨hok, ?_⟩
  simp only [if_true, h]
  rfl

end

/-- Settles O55: each kind of write, by the space it goes to and what stands in its way. -/
theorem registerWrites : Obligations.RegisterWrites := by
  unfold Obligations.RegisterWrites
  intro s off n v wfi lanes hl hn1 hn8
  refine ⟨fun src hsrc hoff => ?bar0, fun src hsrc hoff => ?pages, fun src hsrc hoff => ?capability⟩
  case bar0 =>
    have hok : writeOk src 0 off n ⟨wfi, lanes⟩ = true := writeOk_of_lt hsrc (by decide) hn1 hn8 hl hoff
    have ends {e : Dev} := State.ends_registerWrite (s := s) (v := v) (e := e) hok (by decide)
    refine ⟨fun h => ends (Dev.writeFrom_bar0_shut _ _ _ h), fun hu ho hp => ends (Dev.writeFrom_bar0_other _ _ _ hu ho hp hsrc),
      fun hu ho hp hw => ?_⟩
    have put {e : Dev} (h : s.dev.bar0Write s.fuses ⟨wfi, lanes⟩ off n v.toNat = e) :=
      ends ((Dev.writeFrom_bar0_primary _ _ _ hu ho hp hw).trans h)
    refine ⟨put rfl, fun h => put (Dev.bar0Write_misaligned _ _ _ _ h), ?_, ?_⟩
    · rintro h rfl
      exact put (Dev.bar0Write_unmapped _ _ _ h)
    · rintro r i base h rfl ha
      refine ⟨fun hr => ⟨_, put rfl, Dev.bar0Write_plain _ _ _ h ha hr⟩, ?_⟩
      rintro rfl hc
      exact ⟨_, put rfl, Dev.bar0Write_sealed _ _ _ h ha hoff hc⟩
  case pages =>
    have hok : writeOk src 1 off n ⟨wfi, lanes⟩ = true := writeOk_of_lt hsrc (by decide) hn1 hn8 hl hoff
    exact ⟨fun h => State.ends_registerWrite hok (by decide) (Dev.writeFrom_page_shut _ _ _ h),
      fun hu ha hw => State.ends_registerWrite hok (by decide) (Dev.writeFrom_page _ _ _ hu ha hw)⟩
  case capability =>
    have hok : writeOk src 2 off n ⟨wfi, lanes⟩ = true := writeOk_of_lt hsrc (by decide) hn1 hn8 hl hoff
    refine ⟨fun h => State.ends_registerWrite_cap hok (mbxCfgWrite_refused _ _ _ h), ?_⟩
    rintro hs hp rfl ha hlo
    exact ⟨_, State.ends_registerWrite_cap hok (mbxCfgWrite_window _ _ _ hs hp ha hlo hoff), rfl,
      fun i => windowByte_withMbx_word _ _ _ i⟩

end Sys2Proof.Machine


/-! The two things a step can do: run the command in front, or let the timestamp count on (O58). -/

namespace Sys2Proof.Machine

theorem step_of_pending_cons {s : State} {c : Instr} {rest : List Instr} (h : s.pending = c :: rest) :
    step s = exec c (s.setPending rest) := by
  unfold step
  rw [h]

theorem step_of_pending_nil {s : State} (h : s.pending = []) : step s = .next s.idle := by
  unfold step
  rw [h]

/-- R30: with nothing to run, the timestamp counts on and every other part of the state stays. -/
theorem State.idle_eq (s : State) :
    s.idle = { s with dev := { s.dev with time := (s.dev.time + 10) % 2 ^ 64 } } := rfl

/-- Settles O58, by whether a command waits in the queue. -/
theorem stepRunsTheFrontCommand : Obligations.StepRunsTheFrontCommand := by
  unfold Obligations.StepRunsTheFrontCommand
  refine fun s => ⟨fun c rest => ?front, ?idle⟩
  case front => rw [step_of_pending_cons rfl]; rfl
  case idle => rw [step_of_pending_nil rfl, State.idle_eq]

end Sys2Proof.Machine
